-- ==== Sys2Proof/Word.lean ====
section
/-! DEFINITION. The word types of the KW3216: 32-bit register and parameter words (R11), bytes, and the
two line and link formats that the manual numbers bit by bit. -/

namespace Sys2Proof

/-- A register, a parameter word or a reply word: 32 bits, little-endian (R11). -/
abbrev Word := BitVec 32

/-- One byte of a frame, a table or an image. -/
abbrev Byte := BitVec 8

/-- A line frame header: 256 bytes sent msb first, bit 2047 first (R121). -/
abbrev FrameHdr := BitVec 2048

/-- An MC burst header: one codeword of 64 bytes, bit 511 first (R308). -/
abbrev BurstHdr := BitVec 512

/-- A chain word after descrambling: 128 bits, msb first (R280). -/
abbrev ChainWord := BitVec 128

end Sys2Proof
end

