-- ==== Sys2Proof/Syntax.lean ====
section
/-! DEFINITION. The commands of the block: one constructor of Instr for each row of the opcode table, with the
row's operands. A ring command (rows with an opcode) carries its ring, tag and parameter words; an event carries
what the world outside the digital block brings to it (a measurement, a received frame, a pin). -/

namespace Sys2Proof

/-- The context of a command packet (Table 12-4): its ring (16 is the remote queue of R366), its tag and its ASYNC bit. -/
structure CmdHdr where
  ring  : Fin 17 := 0
  tag   : BitVec 16 := 0
  async : Bool := false
deriving DecidableEq, Repr

/-- A cell (Table 1-4): header fields and 248 bytes of payload (R32). -/
structure Cell where
  flow    : Nat := 0
  seq     : Nat := 0
  slot    : Bool := false
  idle    : Bool := false
  fptr    : Nat := 255
  valid   : Nat := 0
  payload : List Byte := []
deriving DecidableEq, Repr

/-- A client frame from destination address to the last byte before the FCS, and its FCS (R34, R156). -/
structure EthFrame where
  data : List Byte := []
  fcs  : Word := 0
deriving DecidableEq, Repr

/-- What a slice calibration measures at the end of a dwell (R54): residuals in 1/100 LSB, 0.01 % and fs, and the trims it asks
for (1/16 LSB, 0.05 %, 10 fs), which are held within Table 2-1's ranges. -/
structure SliceMeas where
  offRes  : Nat := 0
  gainRes : Nat := 0
  skewRes : Nat := 0
  offset  : Int := 0
  gain    : Int := 0
  skew    : Int := 0
deriving DecidableEq, Repr

/-- One position of an ADC compared with the other 63 in the tick that ended (R60): deviation of the mean in
1/100 LSB and of the mean square in 0.01 %. -/
structure AdcDev where
  line    : Fin 2
  adc     : Fin 4
  pos     : Fin 64
  meanDev : Nat := 0
  msqDev  : Nat := 0
deriving DecidableEq, Repr

/-- The observation receiver of one DAC (R66): tracked skew (0.1 ps) and gain (0.1 %) that it asks for. -/
structure DacMeas where
  line : Fin 2
  dac  : Fin 4
  skew : Int := 0
  gain : Int := 0
deriving DecidableEq, Repr

/-- What the reference monitors of Table 9-2 measured in the tick that ended: activity at the pin, phase movement (ps)
against the DPLL output, and at a TAI second the offset from nominal, against the base oscillator as it runs, in 10^-12. -/
structure RefMeas where
  ref       : Fin 8
  edges     : Bool := true
  phaseMove : Nat := 0
  phase     : Int := 0
  offset    : Option Int := none
deriving DecidableEq, Repr

/-- Bit errors that a protected word has suffered: target (0 to 7 an SRAM of Table 8-2, 8 and 9 the copies of the
metadata, 10 the slot records, 12 to 15 a parity SRAM whose owner is that of instance addr mod 8, 16 the Sett's data space), granule or
word index, word in the granule, data mask and check mask. -/
structure Upset where
  target : Nat
  addr   : Nat
  word   : Fin 8 := 0
  data   : BitVec 64 := 0
  chk    : BitVec 16 := 0
deriving DecidableEq, Repr

/-- What the world brings to one tick boundary: the monitors and loops of the tick that ended. -/
structure TickIn where
  /-- Positions whose samples deviated (R60). -/
  adcDev   : List AdcDev := []
  /-- ADCs (4 x line + lane) whose offline slice does not meet R54 now (R58). -/
  spareBad : List (Fin 8) := []
  /-- Tracked trims asked for (R66). -/
  dac      : List DacMeas := []
  /-- Reference monitors (R258). -/
  refs     : List RefMeas := []
  /-- Control word of the tick that ended, 10^-15 (R270). -/
  fcw      : Int := 0
  /-- Loop phase error in ps (TIM_PH_ERR). -/
  phErr    : Int := 0
  /-- Measured phase of a frequency reference against the output, ps (R267). -/
  refPhase : Int := 0
  /-- Offset of the OCXO against the XO measured in service, 10^-12 (R261). -/
  ocxo     : Option Int := none
  /-- The OCXO's activity monitor failed in the tick (R261). -/
  ocxoDead : Bool := false
  /-- Subcarriers (16 x line + k) without pilots in the tick (Table 3-8). -/
  noPilots : List (Fin 32) := []
  /-- Pilot SNR of subcarriers over the tick that ended, 0.01 dB (Table 3-8). -/
  snr      : List (Fin 32 × Nat) := []
  /-- Pilot error terms of the SOP trackers in the tick, three components in urad (R100). -/
  sopErr   : List (Fin 32 × Int × Int × Int) := []
  /-- Residual channel estimates (R101), 64 words each. -/
  chanEst  : List (Fin 32 × List Word) := []
  /-- Carrier offset (kHz) and clock offset (0.001 ppm) per line (R113). -/
  lineOfs  : List (Fin 2 × Int × Int) := []
  /-- Symbols that a raw lane decided at its pins in the tick: the one before a word boundary of the unslipped receiver, and the 1,088
  from it on (R147, R148). -/
  laneSyms : List (Fin 16 × List (Fin 4)) := []
  /-- CTLE (0.5 dB) and DFE taps to which a READY lane's adaptation has moved (R146). -/
  adapt    : List (Fin 18 × Fin 49 × List Int) := []
  /-- Raw lanes whose far-end FIFO slipped in the tick (R149). -/
  fifoSlip : List (Fin 16) := []
  /-- Ports whose PCS gained marker lock and deskew in the tick (R153). -/
  aligned  : List (Fin 8) := []
  /-- LPI ordered sets that ports received in the tick (R151). -/
  lpi      : List (Fin 8 × Nat) := []
  /-- Bit errors found by a raw lane's checker in the tick (R147). -/
  prbsErrs : List (Fin 16 × Nat) := []
  /-- Bit errors that stored words suffered (R239). -/
  upsets   : List Upset := []
  /-- A staged table is too large for this boundary (R30 bit 5). -/
  applyCarry : Bool := false
  /-- Lines whose MC receiver accepted a sync word in the tick, with its STRENGTH in 0.1 dB (R309). -/
  mcSync   : List (Fin 2 × Int) := []
  /-- SYM_ERR per lane (Table 13-9). -/
  symErrs  : List (Fin 18 × Nat) := []
deriving DecidableEq, Repr

/-- One received line frame as the decoder meets it (R130 to R134): the 16 announcement words, the iterations each inner codeword
needs, the bits of the outer blocks that are still wrong after the inner decoder (block, row, bit of the row), the header and the
cells by position. -/
structure RxFrame where
  ann      : List Nat := []
  iters    : List Nat := []
  iterDflt : Nat := 1
  outErrs  : List (Nat × Nat × Nat) := []
  memBad   : Bool := false
  hdr      : FrameHdr := 0
  cells    : List (Nat × Cell) := []
  noFlow   : List Nat := []
  preErr   : Nat := 0
  stamp    : Nat := 0
deriving DecidableEq, Repr

/-- A subcarrier in ACQ over the tick that ended (Table 3-8): pilot SNR in 0.01 dB, pilot sync, a valid announcement, and the first
bank where firmware has one to apply now. -/
structure AcqIn where
  snr  : Nat := 0
  sync : Bool := true
  ann  : Bool := true
  bank : Option (List Word) := none
deriving DecidableEq, Repr

/-- A quality window's measurements (R114, R97): SNR of X and Y in 0.01 dB, EVM in 0.01 %, and the dispersion slope in
0.1 ps/nm beside CD_BULK. -/
structure QualMeas where
  snrX  : List Nat := []
  snrY  : List Nat := []
  evm   : List Nat := []
  slope : Int := 0
deriving DecidableEq, Repr

/-- How Nutmeg runs one frame: its place in the queue, the lane, a failed comparison, and whether the lanes are
overloaded (R193 to R197). -/
structure NutRun where
  idx      : Nat := 0
  lane     : Fin 16 := 0
  mismatch : Bool := false
  overload : Bool := false
deriving DecidableEq, Repr

/-- A job on a cipher lane (R200): the frame's class, the blocks it has left, its counter and its GHASH state. -/
structure LaneJob where
  lane : Fin 16
  cls  : Fin 8
  left : Nat
  ctr  : BitVec 32 := 0
  hash : BitVec 128 := 0
deriving DecidableEq, Repr

/-- A chain receiver that has aligned (R281): link A or B, and the bits by which it slipped its word boundary on the way. -/
structure LinkAlign where
  linkB : Bool := false
  slips : Nat := 0
deriving DecidableEq, Repr

/-- The power measured at a preamble's peak, in 0.1 dB, and the STRENGTH of the burst in progress where its sync word has been accepted
before (R309). -/
structure McPeak where
  power : Int := 0
  sync  : Option Int := none
deriving DecidableEq, Repr

/-- A source whose rails have been equal for 4 collector cycles, and the further cycles for which they stay so (R380). -/
structure RailPair where
  fs   : Fin 512
  more : Nat := 0
deriving DecidableEq, Repr

/-- A messenger message (R383). -/
structure Msg where
  m    : Fin 8
  kind : BitVec 8
  addr : BitVec 48 := 0
  data : BitVec 32 := 0
deriving DecidableEq, Repr

/-- One conversion of a lane of Clove (R325, R326): the modulator's 6 x OSR bits, eight times the comb output that stands for FS on
the channel with the slice's trims, and the overload detector with its sign. -/
structure ConvOut where
  lane     : Fin 4
  bits     : List Bool := []
  full     : Nat := 1
  overload : Option Bool := none
deriving DecidableEq, Repr

/-- What a device on PMBus answers to one poll (R417): STATUS_WORD, READ_VOUT in mV, READ_IOUT in 10 mA, temperature in
degrees; none where all three tries went unanswered. -/
structure RegPoll where
  status : BitVec 16 := 0
  vout   : Nat := 0
  iout   : Nat := 0
  temp   : Int := 0
deriving DecidableEq, Repr

/-- A fetched command packet (R353): eight header words, the parameter words, a PCIe error of the fetch, and whether
firmware runs and executes it. -/
structure Packet where
  hdr    : List Word := []
  params : List Word := []
  dmaErr : Bool := false
  fwRuns : Bool := true
deriving DecidableEq, Repr

/-- An image fetched by the ROM (R370): its bytes, a DMA error, and the verdict of the signature check (R369). -/
structure DlImage where
  bytes  : List Byte := []
  dmaErr : Bool := false
  sigOk  : Bool := false
deriving DecidableEq, Repr

/-- What the boot ROM finds (R368, R369): the signature verdicts of slots A and B, and the VOUT_MODE answers. -/
structure BootIn where
  sigA : Bool := false
  sigB : Bool := false
deriving DecidableEq, Repr

/-- Straps and fuses sampled before the release of reset (R429, R431). -/
structure Straps where
  id       : Fin 4 := 0
  bootSel  : Bool := false
  testMode : Bool := false
deriving DecidableEq, Repr

/-- A received MC burst (R308 to R310): header, its codeword's outcome, payload bytes and outcome, stamp and strength. -/
structure Burst where
  hdr    : BurstHdr := 0
  hdrOk  : Bool := true
  data   : List Byte := []
  dataOk : Bool := true
  stamp  : Nat := 0
  power  : Int := 0
deriving DecidableEq, Repr

/-- The commands of the block, one constructor per row of the opcode table. -/
inductive Instr where
  /-- R353. Command 0x0000 replies OK and returns its parameters as data. -/
  | sysNop (h : CmdHdr) (ws : List Word)
  /-- R9. Command 0x0001 returns GLOBAL_DEVID, GLOBAL_FWVER and GLOBAL_UID of the target device. -/
  | sysIdentify (h : CmdHdr) (ws : List Word)
  /-- R361. Command 0x0002 returns the state or final reply of a result-store entry named by ring and tag. -/
  | sysResultGet (h : CmdHdr) (ws : List Word)
  /-- R361. Command 0x0003 frees a finished result-store entry. -/
  | sysResultRelease (h : CmdHdr) (ws : List Word)
  /-- R371. Command 0x0004 delivers one piece of the boot configuration table; the piece with LAST at 1 starts acceptance. -/
  | sysBootCfg (h : CmdHdr) (ws : List Word)
  /-- R428. Command 0x0005 with the confirm word replies OK and schedules a device reset within 1 ms. -/
  | sysReset (h : CmdHdr) (ws : List Word)
  /-- R373. Command 0x0010 writes image bytes into the flash slot that is not running. -/
  | fwStage (h : CmdHdr) (ws : List Word)
  /-- R373. Command 0x0011 verifies the staged slot and arms it for the next reset or restarts the control processor on it. -/
  | fwActivate (h : CmdHdr) (ws : List Word)
  /-- R369. Command 0x0012 irreversibly raises the fused SVN or revokes a ROM key. -/
  | fwFuse (h : CmdHdr) (ws : List Word)
  /-- R362. Command 0x0013 returns version, SVN, validity and key index of slots A and B. -/
  | fwInfo (h : CmdHdr) (ws : List Word)
  /-- R69. Command 0x0101 replaces a line's declared-optics entry while both sides of the line are OFF. -/
  | lineConvSet (h : CmdHdr) (ws : List Word)
  /-- R70. Command 0x0102 powers a line up if needed and starts its start-up calibration as an asynchronous operation. -/
  | lineConvCal (h : CmdHdr) (ws : List Word)
  /-- R76. Command 0x0103 sets the dwell and enable of background slice rotation for chosen ADCs. -/
  | lineConvBgcal (h : CmdHdr) (ws : List Word)
  /-- R78. Command 0x0104 returns the 65 slice records of one ADC. -/
  | lineConvStatus (h : CmdHdr) (ws : List Word)
  /-- R77. Command 0x0105 retires a slice or restores a retired one. -/
  | lineConvRetire (h : CmdHdr) (ws : List Word)
  /-- R83. Command 0x0110 sets symbol rate, slot, MC placement and warm-up of an OFF line. -/
  | lineScCfg (h : CmdHdr) (ws : List Word)
  /-- R89. Command 0x0111 stages loading codes and transmit gains of the subcarriers in its mask. -/
  | lineLoadSet (h : CmdHdr) (ws : List Word)
  /-- R103. Command 0x0112 writes a subcarrier's shadow equaliser bank and requests a swap. -/
  | lineEqLoad (h : CmdHdr) (ws : List Word)
  /-- R116. Command 0x0113 sets acquisition, tracking and quality settings of a line's receive DSP. -/
  | lineRxCfg (h : CmdHdr) (ws : List Word)
  /-- R111. Command 0x0114 forces the line DSP back to CD_SEARCH at the next boundary. -/
  | lineRxAcq (h : CmdHdr) (ws : List Word)
  /-- R116. Command 0x0115 returns the active bank, the shadow or the residual channel estimate of a subcarrier. -/
  | lineEqRead (h : CmdHdr) (ws : List Word)
  /-- R139. Command 0x0120 stages a line's code rates, ITER_MAX and decoder budget. -/
  | lineFecCfg (h : CmdHdr) (ws : List Word)
  /-- R139. Command 0x0121 stages the 64-byte host message sent in every frame header of a line. -/
  | lineHdrMsg (h : CmdHdr) (ws : List Word)
  /-- R145. Command 0x0201 sets FFE, polarity, precoding and adaptation of host lanes. -/
  | clientLaneCfg (h : CmdHdr) (ws : List Word)
  /-- R147. Command 0x0202 enters or leaves raw lane mode and sets pattern, loopback, slip and error-count restart. -/
  | clientLaneRaw (h : CmdHdr) (ws : List Word)
  /-- R148. Command 0x0203 returns a lane's CTLE and DFE taps or a raw capture of 2,048 received bits. -/
  | clientLaneRead (h : CmdHdr) (ws : List Word)
  /-- R150. Command 0x0210 enables or disables a port and sets its mode and classifier settings. -/
  | clientPortCfg (h : CmdHdr) (ws : List Word)
  /-- R161. Command 0x0211 sets a port's PFC map, enables, quanta and refresh. -/
  | clientPfcCfg (h : CmdHdr) (ws : List Word)
  /-- R171. Command 0x0212 assigns host lanes to REF6 and REF7. -/
  | clientRefSel (h : CmdHdr) (ws : List Word)
  /-- R170. Command 0x0213 sets a port's ingress and egress timestamp adjustments. -/
  | clientTsAdj (h : CmdHdr) (ws : List Word)
  /-- R165. Command 0x0220 adds, replaces or deletes a classifier key-table entry. -/
  | classKeySet (h : CmdHdr) (ws : List Word)
  /-- R167. Command 0x0300 stages flow-table entries. -/
  | flowSet (h : CmdHdr) (ws : List Word)
  /-- R173. Command 0x0301 returns the flow-table entries in force. -/
  | flowRead (h : CmdHdr) (ws : List Word)
  /-- R176. Command 0x0310 sets mode, replay window and mark period of security associations. -/
  | saCfg (h : CmdHdr) (ws : List Word)
  /-- R183. Command 0x0311 promotes an SA's next transmit half and starts its marking period. -/
  | saActivate (h : CmdHdr) (ws : List Word)
  /-- R186. Command 0x0312 stages promotion of an SA's next receive half. -/
  | saRxPromote (h : CmdHdr) (ws : List Word)
  /-- R206. Command 0x0313 zeroises a next half or a whole SA at the next boundary. -/
  | saKeyClear (h : CmdHdr) (ws : List Word)
  /-- R206. Command 0x0314 returns status records of a range of SAs. -/
  | saStatus (h : CmdHdr) (ws : List Word)
  /-- R189. Command 0x0315 sets the next PN of a transmit half to a larger value. -/
  | saPnAdvance (h : CmdHdr) (ws : List Word)
  /-- R206. Command 0x0316 runs a known-answer block through a lane with one redundant output bit inverted and reports detection. -/
  | nutInject (h : CmdHdr) (ws : List Word)
  /-- R203. Command 0x0317 starts zeroisation of every SA as an asynchronous operation. -/
  | nutZeroise (h : CmdHdr) (ws : List Word)
  /-- R210. Command 0x0401 sets the sizes of the merge, elastic and capture regions. -/
  | settRegionCfg (h : CmdHdr) (ws : List Word)
  /-- R224. Command 0x0402 sets one class-table entry of an elastic region. -/
  | settClassSet (h : CmdHdr) (ws : List Word)
  /-- R214. Command 0x0403 allocates, re-holds, frees or resyncs a flow's merge ring. -/
  | settMergeSet (h : CmdHdr) (ws : List Word)
  /-- R237. Command 0x0404 returns a flow's merge state, HEAD, HOLD, ring size and held slots. -/
  | settMergeStatus (h : CmdHdr) (ws : List Word)
  /-- R233. Command 0x0405 sets band and weight of one requester on chosen pseudo-channels. -/
  | settArbSet (h : CmdHdr) (ws : List Word)
  /-- R226. Command 0x0406 sets capture source, filter, trigger and post count. -/
  | settCapCfg (h : CmdHdr) (ws : List Word)
  /-- R226. Command 0x0407 arms, stops or triggers capture. -/
  | settCapArm (h : CmdHdr) (ws : List Word)
  /-- R227. Command 0x0408 returns capture records. -/
  | settCapRead (h : CmdHdr) (ws : List Word)
  /-- R245. Command 0x0501 sets the Sett scrub pass interval and enable. -/
  | eccScrubCfg (h : CmdHdr) (ws : List Word)
  /-- R254. Command 0x0502 returns spare records of a target. -/
  | eccSpareRead (h : CmdHdr) (ws : List Word)
  /-- R248. Command 0x0503 loads spare records and copies each row to its spare, asynchronously. -/
  | eccSpareLoad (h : CmdHdr) (ws : List Word)
  /-- R252. Command 0x0504 writes or reads one capture-region granule and reports syndromes. -/
  | eccTestAccess (h : CmdHdr) (ws : List Word)
  /-- R286. Command 0x0601 configures one timing reference. -/
  | timRefCfg (h : CmdHdr) (ws : List Word)
  /-- R286. Command 0x0602 sets selection mode, limits, holdover and slew of the DPLL. -/
  | timDpllCfg (h : CmdHdr) (ws : List Word)
  /-- R274. Command 0x0603 stages an absolute set, step, label or slew of the time of day. -/
  | timeSet (h : CmdHdr) (ws : List Word)
  /-- R277. Command 0x0604 configures one CLKOUT or PPS_OUT output. -/
  | timOutCfg (h : CmdHdr) (ws : List Word)
  /-- R283. Command 0x0C01 names a new chain timing master, applying at tick n+16. -/
  | chainMaster (h : CmdHdr) (ws : List Word)
  /-- R282. Command 0x0C02 sets the declared asymmetry of both chain links. -/
  | chainAsym (h : CmdHdr) (ws : List Word)
  /-- R316. Command 0x0701 sets a line's time-transfer window, asymmetry mode, paths, carrier and drift settings. -/
  | martenLineCfg (h : CmdHdr) (ws : List Word)
  /-- R297. Command 0x0702 sets ASYM_CAL and gives or captures the CD calibration references. -/
  | martenAsymCal (h : CmdHdr) (ws : List Word)
  /-- R300. Command 0x0703 sets the steering source, step enable and dead band. -/
  | martenSteer (h : CmdHdr) (ws : List Word)
  /-- R316. Command 0x0704 sets a port's PTP profile, role, domain, one-step and TC settings. -/
  | martenPtpCfg (h : CmdHdr) (ws : List Word)
  /-- R307. Command 0x0705 sets a line's MC role, sync word, leaf ID, averaging and period. -/
  | mcCfg (h : CmdHdr) (ws : List Word)
  /-- R312. Command 0x0706 queues host bytes for the next MC burst to a destination. -/
  | mcSend (h : CmdHdr) (ws : List Word)
  /-- R312. Command 0x0707 returns the oldest mailbox payload or the leaf table. -/
  | mcRead (h : CmdHdr) (ws : List Word)
  /-- R344. Command 0x0801 sets the range of an external monitor channel. -/
  | cloveChanCfg (h : CmdHdr) (ws : List Word)
  /-- R328. Command 0x0802 sets the regular or injected conversion sequence. -/
  | cloveSeqSet (h : CmdHdr) (ws : List Word)
  /-- R334. Command 0x0803 resets all four Clove lanes together at its applying boundary. -/
  | cloveSync (h : CmdHdr) (ws : List Word)
  /-- R330. Command 0x0804 triggers an injected run at its applying boundary. -/
  | cloveInjFire (h : CmdHdr) (ws : List Word)
  /-- R336. Command 0x0805 configures one detector. -/
  | cloveDetCfg (h : CmdHdr) (ws : List Word)
  /-- R338. Command 0x0806 sets the test DAC code, mode, tested channel and MON46 source. -/
  | cloveTdac (h : CmdHdr) (ws : List Word)
  /-- R339. Command 0x0807 configures one bias output and its loop. -/
  | cloveBiasCfg (h : CmdHdr) (ws : List Word)
  /-- R341. Command 0x0808 writes BASE of a bias output whose TARGET is 0. -/
  | cloveBiasSet (h : CmdHdr) (ws : List Word)
  /-- R319. Command 0x0809 sets Clove dwell, settle count and rotation enable. -/
  | cloveCalCfg (h : CmdHdr) (ws : List Word)
  /-- R395. Command 0x0901 sets configuration words of fault sources. -/
  | fltCfg (h : CmdHdr) (ws : List Word)
  /-- R395. Command 0x0902 sets the four window lengths and WD_PERIOD. -/
  | fltGlobal (h : CmdHdr) (ws : List Word)
  /-- R395. Command 0x0903 raises a fault source at its origin, sends a test messenger message or breaks its rails. -/
  | fltInject (h : CmdHdr) (ws : List Word)
  /-- R378. Command 0x0980 returns log entries from a given SEQ. -/
  | logRead (h : CmdHdr) (ws : List Word)
  /-- R377. Command 0x0981 sets log mode, audit and interrupt class. -/
  | logCfg (h : CmdHdr) (ws : List Word)
  /-- R376. Command 0x0982 writes a class 6 host entry into the log. -/
  | logMark (h : CmdHdr) (ws : List Word)
  /-- R378. Command 0x0983 empties the log while SEQ continues. -/
  | logClear (h : CmdHdr) (ws : List Word)
  /-- R399. Command 0x0A01 stages counter configuration words. -/
  | cntCfg (h : CmdHdr) (ws : List Word)
  /-- R399. Command 0x0A02 stages counter values. -/
  | cntWrite (h : CmdHdr) (ws : List Word)
  /-- R409. Command 0x0A03 returns counter snapshots with their tick number. -/
  | cntRead (h : CmdHdr) (ws : List Word)
  /-- R402. Command 0x0A04 sets counter dumping to host memory. -/
  | cntDumpCfg (h : CmdHdr) (ws : List Word)
  /-- R406. Command 0x0A05 maps counters to user-window slots and enables the window. -/
  | cntUwin (h : CmdHdr) (ws : List Word)
  /-- R420. Command 0x0B01 starts a change of power state. -/
  | pwrStateSet (h : CmdHdr) (ws : List Word)
  /-- R415. Command 0x0B02 describes a PMBus regulator, in the boot table only. -/
  | pwrRegCfg (h : CmdHdr) (ws : List Word)
  /-- R418. Command 0x0B03 sets the AVS margin. -/
  | pwrAvsCfg (h : CmdHdr) (ws : List Word)
  /-- R439. Command 0x0B04 sets temperature limits, PMBus speed and power limit. -/
  | pwrPolicy (h : CmdHdr) (ws : List Word)
  /-- R439. Command 0x0B05 sets single-ended references and CLKOUT formats. -/
  | pinCfg (h : CmdHdr) (ws : List Word)
  /-- R11. A host write to a BAR0 register with no row of its own updates RW fields, clears W1C bits or is discarded. -/
  | regWrite (pf1 : Bool) (addr : BitVec 26) (val : Word)
  /-- R12. A read of the lowest word of a wide RS register takes a snapshot for the reading function. -/
  | rsLowWordRead (pf1 : Bool) (addr : BitVec 26)
  /-- R182. A write to NUT_KEY_0 to 7 or NUT_KEY_SALT stores a staging word and marks it in WR_MASK. -/
  | nutKeyStageWrite (i : Fin 9) (val : Word)
  /-- R180. A write of NUT_KEY_CTL with GO commits the staged key into a next half or refuses it. -/
  | nutKeyGo (val : Word)
  /-- R348. Setting CMD_RING_CTL.EN resets the ring pointers and puts the ring in RUN. -/
  | ringEnable (r : Fin 16) (val : Word)
  /-- R348. Clearing CMD_RING_CTL.EN stops fetching and sends the ring to DRAIN or OFF. -/
  | ringDisable (r : Fin 16) (val : Word)
  /-- R347. A write of CMD_SQ_TAIL announces submitted commands. -/
  | sqTailDoorbell (r : Fin 16) (val : Word)
  /-- R347. A write of CMD_CQ_HEAD releases completion slots. -/
  | cqHeadDoorbell (r : Fin 16) (val : Word)
  /-- R370. A write of BOOT_DL_CTL.GO in WAIT_PCIE makes the ROM fetch and verify a downloaded image. -/
  | bootDlGo (val : Word) (img : DlImage)
  /-- R251. A write of ECC_FLIP_CTL with ARM arms corruption of the next matching write. -/
  | eccFlipArm (val : Word)
  /-- R404. A write of CNT_DUMP_HEAD frees dump buffers the host has read. -/
  | cntDumpHeadWrite (val : Word)
  /-- R385. A W1C write to FLT_PEND acknowledges sources and stops their windows. -/
  | fltPendClear (j : Fin 16) (val : Word)
  /-- R387. A write of 1 to FLT_FIRST.VALID clears VALID and OVF. -/
  | fltFirstClear (val : Word)
  /-- R394. A write of FLT_MSG_POP removes the oldest message of chosen messengers. -/
  | fltMsgPop (val : Word)
  /-- R28. At each tick boundary the device snapshots counters, applies staged items and runs the ordered boundary steps. -/
  | tickBoundary (i : TickIn)
  /-- R30. A unit that carries in 16 consecutive ticks raises its carry fault source, and again each further tick. -/
  | carryFault (u : Fin 6)
  /-- R35. A partly filled cell is closed once its oldest byte has waited the flow's flush age. -/
  | cellFlush (f : Fin 8192)
  /-- R56. At the end of a dwell the offline slice swaps into NEXT_POS if it passes calibration. -/
  | adcDwellEnd (l : Fin 2) (a : Fin 4) (m : SliceMeas)
  /-- R60. A position deviating for 16 consecutive ticks marks its slice suspect and raises CONV_SLICE_SUSPECT. -/
  | sliceSuspect (l : Fin 2) (a : Fin 4) (p : Fin 64)
  /-- R60. At the next boundary the spare replaces the suspect slice, which starts a dwell. -/
  | sliceSubstitute (l : Fin 2) (a : Fin 4)
  /-- R63. An ADC with a second retirement or a suspect slice without spare for 256 ticks is failed and forced to zero. -/
  | adcFail (l : Fin 2) (a : Fin 4)
  /-- R70. At the second boundary after table acceptance each line with a valid entry begins start-up calibration. -/
  | convCalStart (l : Fin 2)
  /-- R70. At calibration tick 1,625 the receive side becomes READY, DEGRADED or FAILED and rotation starts. -/
  | convRxCalDone (l : Fin 2) (meas : List (Fin 4 × Fin 65 × SliceMeas))
  /-- R70. At calibration tick 3,250 the transmit side becomes READY, MC_ONLY or FAILED. -/
  | convTxCalDone (l : Fin 2) (bad : List (Fin 4)) (trims : List DacMeas)
  /-- R71. A side not finished by calibration tick 6,250 becomes FAILED and raises CONV_CAL_TIMEOUT. -/
  | convCalTimeout (l : Fin 2) (tx : Bool)
  /-- R73. A line PLL losing lock mutes the line, fails both sides and raises CONV_PLL_UNLOCK. -/
  | linePllUnlock (l : Fin 2)
  /-- R73. An automatic relock attempt relocks the line PLL and reruns start-up calibration. -/
  | linePllRelockAttempt (l : Fin 2) (locks : Bool)
  /-- R91. WARMUP ticks after lighting, the subcarrier's new code takes effect. -/
  | scWarmupEnd (l : Fin 2) (k : Fin 16)
  /-- R92. After the closing tick the subcarrier goes dark. -/
  | scCloseEnd (l : Fin 2) (k : Fin 16)
  /-- R102. At the end of a cross-fade the new bank alone is active and any pending swap starts. -/
  | eqFadeEnd (l : Fin 2) (k : Fin 16)
  /-- R114. At the end of a quality window SNR and EVM per subcarrier are posted. -/
  | qualityWindowPost (l : Fin 2) (q : QualMeas)
  /-- R98. Residual dispersion beyond 1,500 ps/nm for 1,000 ticks sets CD_RESIDUAL. -/
  | cdResidualAlarm (l : Fin 2)
  /-- R110. A CD_SEARCH scan ends with a peak found or failed, raising ACQ_FAIL after three failures. -/
  | cdSearchScanEnd (l : Fin 2) (peak : Option Int)
  /-- R109. FREQ_ACQ without an offset within 8 ticks returns to CD_SEARCH. -/
  | freqAcqTimeout (l : Fin 2)
  /-- R109. SC_ACQ with no subcarrier in TRACK after 64 ticks returns to CD_SEARCH. -/
  | scAcqTimeout (l : Fin 2)
  /-- R109. RUN with no subcarrier in TRACK for 64 ticks returns to CD_SEARCH and sets LOS. -/
  | runTrackLoss (l : Fin 2)
  /-- R111. When RX_STATE becomes CAL, FAILED or OFF the line DSP goes to WAIT_CONV or OFF at the next boundary. -/
  | rxdConvStateChange (l : Fin 2)
  /-- R112. A subcarrier not in TRACK by its 64th tick in ACQ returns to OFF. -/
  | scAcqExpire (l : Fin 2) (k : Fin 16)
  /-- R112. Pilot SNR below LOSS_THR in 4 ticks, or 16 invalid announcements, sends a subcarrier to LOST. -/
  | scTrackLoss (l : Fin 2) (k : Fin 16)
  /-- R130. In its decode tick a received line frame is demapped and decoded by the inner and outer codes. -/
  | lineFrameDecode (l : Fin 2) (f : RxFrame)
  /-- R146. A lane with amplitude above 80 mVppd for 16 ticks goes to ADAPT. -/
  | laneSignalDetect (i : Fin 18)
  /-- R146. A lane whose eye converges goes to READY. -/
  | laneAdaptDone (i : Fin 18) (ctle : Fin 49) (dfe : List Int)
  /-- R146. A lane not converged within 2,500 ticks goes to FAILED. -/
  | laneAdaptTimeout (i : Fin 18)
  /-- R146. Low amplitude or CDR unlock in 2 ticks sends a lane to LOS. -/
  | laneLos (i : Fin 18)
  /-- R146. A lane in LOS or FAILED returns to SIG_WAIT after its wait. -/
  | laneRetry (i : Fin 18)
  /-- R153. A port holding alignment for 4 ticks goes UP. -/
  | portAlignDone (p : Fin 8)
  /-- R153. A received Local or Remote Fault sends a port to FAULT. -/
  | portFaultRx (p : Fin 8) (remote : Bool)
  /-- R153. A port with no fault ordered set for 4 ticks returns to UP. -/
  | portFaultClear (p : Fin 8)
  /-- R154. With LINK_PROP, no receiving line in frame for 4 ticks makes the port send Local Fault. -/
  | linkPropLocalFault (p : Fin 8)
  /-- R156. A whole client frame received on a port is checked by the MAC and passed on. -/
  | clientFrameIngress (p : Fin 8) (f : EthFrame) (sub : Nat) (cwErrs : List Nat) (rmOvf : Bool)
  /-- R160. A received PFC frame starts, restarts or ends pause timers. -/
  | pfcFrameRx (p : Fin 8) (en : BitVec 8) (quanta : List (BitVec 16))
  /-- R160. A priority's pause timer expires and its class may send again. -/
  | pauseTimerExpire (p : Fin 8) (q : Fin 8)
  /-- R159. Every REFRESH ticks in XOFF the PFC frame is repeated. -/
  | pfcRefresh (p : Fin 8) (c : Fin 8)
  /-- R157. The egress MAC starts a whole, authenticated frame by strict class priority. -/
  | egressFrameStart (p : Fin 8) (sub : Nat)
  /-- R179. Nutmeg protects a transmitted frame under its flow's SA and emits it to the cell builder. -/
  | nutEncrypt (x : NutRun)
  /-- R190. Nutmeg checks, authenticates and decrypts a reassembled received frame. -/
  | nutRxFrame (x : NutRun)
  /-- R198. A pipeline with failures in two ticks within 1,024 is fenced at the next boundary. -/
  | pipelineFence (rx red : Bool) (n : Fin 16)
  /-- R200. A whole C7 frame with no free lane suspends the non-C7 frame with most blocks left. -/
  | c7Preempt (rx : Bool) (jobs : List LaneJob)
  /-- R183. The marking period ends, TX_MARK clears and the partly filled cell closes. -/
  | txMarkExpire (n : Fin 8192)
  /-- R182. Staging words are zeroised 125 ticks after the last write without a GO. -/
  | keyStagingTimeout
  /-- R202. After 8 ticks the known-answer test ends and DSTATE follows the fence count. -/
  | nutSelftestEnd (badTx badRx : BitVec 32)
  /-- R203. Zeroisation of every SA completes and the asynchronous result is ready. -/
  | nutZeroiseDone
  /-- R211. All four stacks trained, the Sett goes to CLEAR. -/
  | settTrainDone
  /-- R211. A stack untrained after 2,500 ticks sends the Sett to FAILED. -/
  | settTrainTimeout (untrained : BitVec 4)
  /-- R211. Clearing ends and the Sett becomes READY. -/
  | settClearDone
  /-- R234. A stack temperature crossing 85, 95 or 105 deg C doubles refresh, sets HOT or trips the Sett to FAILED. -/
  | settStackTemp (st : Fin 4) (temp : BitVec 8)
  /-- R218. A received copy of a protected cell is stored, eliminated, replaced or discarded. -/
  | settCopyReceive
  /-- R224. A cell entering an elastic region is admitted or tail-dropped by the class table. -/
  | cellElasticAdmit
  /-- R226. A fault-source raise or the chosen tick triggers capture. -/
  | captureTrigger (fs : Fin 512)
  /-- R226. After POST records following the trigger, capture stops in DONE. -/
  | captureDone
  /-- R241. A scheduled write-back stores corrected data once an entry or port cycle is free. -/
  | eccWriteBack (target : Fin 20)
  /-- R244. The scrubber reads the next granule or word on an ECC cycle and handles its errors. -/
  | scrubRead (target : Fin 20) (addr : Nat) (up : List Upset)
  /-- R246. A correction-tracker entry older than the pass interval expires. -/
  | trackerExpire (target : Fin 20)
  /-- R247. When the copy to a spare row finishes, the spare entry becomes valid at the next boundary. -/
  | rowRemapCopyDone (target : Fin 20)
  /-- R257. An active PPS edge on a reference is stamped and checked against its window. -/
  | ppsEdge (k : Fin 4) (sub : Nat)
  /-- R260. A reference in WAIT for WTR seconds becomes QUALIFIED. -/
  | refWtrExpire (k : Fin 8)
  /-- R264. The phase-error condition held long enough ends ACQUIRE in LOCKED. -/
  | dpllLock
  /-- R264. No lock within 10 s or 300 s raises ACQ_FAIL and returns to FREERUN. -/
  | dpllAcqFail
  /-- R267. After the phase measurement the difference is built out and LOCKED entered. -/
  | dpllSwitchDone (phase : Int)
  /-- R270. At each TAI second the mean control word enters the holdover history. -/
  | historySecond
  /-- R261. After 1 s of measurement the base oscillator is decided. -/
  | ocxoMeasureDone (active : Bool) (dev : Int)
  /-- R261. An OCXO failing in service moves the base to the XO and clears the history. -/
  | ocxoFail
  /-- R266. References agreeing within DISAGREE for WTR seconds end the disagreement. -/
  | disagreeEnd
  /-- R275. A slew ends when its offset has been removed and SLEWING clears. -/
  | slewDone
  /-- R283. At tick n+16 the new master leaves CHAIN and the old master enters it. -/
  | chainMasterApply
  /-- R282. A received TIME word gives stamps for link delay and offset. -/
  | chainTimeWordRx (b : Bool) (w : ChainWord) (stamp : Nat)
  /-- R282. A received ECHO word completes the chain two-way exchange. -/
  | chainEchoWordRx (b : Bool) (w : ChainWord)
  /-- R281. 64 consecutive valid words bring a chain link UP. -/
  | chainLinkAlign (x : LinkAlign)
  /-- R281. 16 invalid words of 64 send a chain link back to ALIGN. -/
  | chainLinkDown (b : Bool)
  /-- R282. At first chain lock a follower adopts the master's tick number. -/
  | chainFirstLock
  /-- R278. A PPS output whose input has no in-window edge in a second flywheels and raises PPS_FLY. -/
  | ppsOutFlywheel (n : Fin 2)
  /-- R279. An enabled, changed or unsquelched output starts at the first TAI second after its boundary. -/
  | outputStart (o : Fin 6)
  /-- R292. At the end of a time-transfer window the means of a_out, a_in and theta are posted. -/
  | martenWindowPost (l : Fin 2)
  /-- R298. At each TAI second CD_in and CD_out samples enter their averages. -/
  | cdSecondSample (l : Fin 2)
  /-- R297. A pending capture of the CD references is taken once both averages are valid. -/
  | cdCalCapture (l : Fin 2)
  /-- R312. A point-to-point end sends an MC burst every PERIOD ticks. -/
  | mcBurstSend (l : Fin 2)
  /-- R309. The correlator detects a preamble and starts or restarts reception. -/
  | mcPreambleDetect (l : Fin 2) (peak : Nat) (x : McPeak)
  /-- R309. No sync word within 96 symbols returns to SEARCH as FALSE_PRE. -/
  | mcSyncTimeout (l : Fin 2)
  /-- R310. A received MC burst is decoded and checked and its payload or echo used. -/
  | mcBurstRx (l : Fin 2) (b : Burst)
  /-- R311. After MC_AVG samples Marten posts theta and the apparent delays in MC_POST. -/
  | mcPost (l : Fin 2)
  /-- R313. The hub sends its beacon in each superframe tick. -/
  | hubBeacon (l : Fin 2)
  /-- R314. An unranged leaf sends one discovery burst at a random tick of the window. -/
  | leafDiscoverySend (l : Fin 2)
  /-- R314. A leaf with no echo for 16 superframes returns to discovery. -/
  | leafEchoLoss (l : Fin 2)
  /-- R314. A leaf slot empty for 16 superframes marks the leaf lost and sets MC_LEAF_LOST. -/
  | hubLeafLost (l : Fin 2) (j : Fin 16)
  /-- R342. After 250 ticks Clove leaves CAL for the state its retirements give. -/
  | cloveCalEnd (bad : List (Fin 5)) (fbBad : Bool)
  /-- R319. A Clove dwell ends with a slice swap, extension or retirement. -/
  | cloveDwellEnd (slice : Fin 5) (offset gain : Int) (offRes gainRes : Nat)
  /-- R320. Once per second all lanes convert ZERO and suspect slices are handled. -/
  | cloveCheckStep (res : List Int)
  /-- R321. Every 10 ms the supervisor channels are converted and posted. -/
  | cloveSupervisorSteps (res : List ConvOut)
  /-- R325. A lane conversion completes and its result is formed. -/
  | cloveConversionEnd (res : List ConvOut)
  /-- R328. In paced mode a scan starts at each pace boundary or is skipped. -/
  | clovePaceStart
  /-- R330. A selected EXT_TRIG edge triggers an injected run. -/
  | extTrigEdge (rising : Bool) (sub : Nat)
  /-- R330. An enabled internal event triggers an injected run. -/
  | cloveInjTrigger (srcs : BitVec 6)
  /-- R331. After an injected run its trigger time and results are posted. -/
  | cloveInjPost
  /-- R334. A rising MON_SYNC edge resets all four lanes together. -/
  | monSyncEdge
  /-- R335. A sync deferred during an injected run acts when the run ends. -/
  | cloveSyncDeferred
  /-- R336. A detector posts its window value and checks thresholds. -/
  | detectorPost (k : Fin 16)
  /-- R340. Every NPER dither periods firmware updates BASE from the dither results. -/
  | biasLoopUpdate (k : Fin 16)
  /-- R351. The ring engine fetches the next command of a ring and executes or accepts it. -/
  | cmdFetch (r : Fin 17) (p : Packet)
  /-- R357. Firmware posts the reply to a synchronous command. -/
  | fwReply (r : Fin 17) (dmaErr : Bool)
  /-- R357. No reply 10 ms after fetch makes the ring engine post TIMEOUT. -/
  | cmdTimeout (r : Fin 17)
  /-- R348. A draining ring goes OFF once its fetched commands have replied. -/
  | ringDrainDone (r : Fin 16)
  /-- R360. A long-running operation finishes, its final reply is stored and vector 16 raised. -/
  | asyncComplete (r : Fin 17) (tag : BitVec 16) (sigOk : Bool)
  /-- R365. A CMD chain word is relayed or reassembled into a forwarded command or reply. -/
  | chainCmdWordRx (b : Bool) (w : ChainWord)
  /-- R366. A message whose next fragment is missing for 1 ms is discarded. -/
  | fwdFragmentTimeout (src : Fin 4) (msg : BitVec 16) (reply : Bool)
  /-- R367. A forwarded command without reply within 10 ms ends with TIMEOUT. -/
  | fwdReplyTimeout (msg : BitVec 16)
  /-- R368. The boot ROM starts a verified image or enters WAIT_PCIE. -/
  | firmwareStart (x : BootIn)
  /-- R372. The boot configuration table is checked and accepted or rejected as a whole. -/
  | bootTableAccept (vout : List (Fin 8 × BitVec 8))
  /-- R375. The control processor restarts, halting rings and emptying the result store. -/
  | cpRestart
  /-- R375. The restarted firmware returns GLOBAL_BOOT_STAT.STATE to RUN. -/
  | cpRestartDone
  /-- R376. An event-log entry is written with the next SEQ. -/
  | logEntryWrite
  /-- R389. An expired watchdog period sends an M3 message and starts a new period. -/
  | watchdogExpire
  /-- R381. A fault source raise sets its pending bit and runs its reaction. -/
  | faultRaise (fs : Fin 512)
  /-- R380. Equal rails for 4 collector cycles treat the source as raised and raise FS288. -/
  | dualRailBroken (x : RailPair)
  /-- R383. A messenger message is queued and raises the messenger's source. -/
  | messengerMessage (m : Msg) (crcOk : Bool)
  /-- R385. A FAULT window ending with the bit still set takes the source's action. -/
  | faultWindowExpire (fs : Fin 512)
  /-- R393. A received FAULT word raises FS289, is recorded and relayed. -/
  | chainFaultWordRx (b : Bool) (w : ChainWord)
  /-- R403. A dump's writes complete with its header SEQ written last. -/
  | dumpWriteDone
  /-- R405. A PCIe error on a dump write stops dumping and raises FS297. -/
  | dumpDmaError
  /-- R417. A regulator poll reads status, voltage, current and temperature. -/
  | pmbusPoll (r : Fin 8) (tries : List (Option RegPoll))
  /-- R417. PMB_ALERT_N low makes the device read every STATUS_WORD and raise FS264. -/
  | pmbAlert (status : List (Fin 8 × BitVec 16))
  /-- R417. SCL or SDA low for 35 ms raises FS261 and clocks the bus free. -/
  | pmbusStuck
  /-- R418. Once per TAI second the VDD_CORE target is computed. -/
  | avsUpdate
  /-- R418. VOUT_COMMAND moves one 5 mV step toward the target, at most every 1 ms. -/
  | avsStep
  /-- R419. No complete supervisor set for 4 periods raises FS265. -/
  | supervisorLost
  /-- R422. Each boundary of entry to P2 runs its step until STATE reads P2. -/
  | p2EntryStep
  /-- R425. With POWER_GOOD from all OFF_P3 regulators the blocks restart as from reset. -/
  | p3ExitPowerGood
  /-- R425. No POWER_GOOD within 100 ms leaves the device in P3 and raises FS262. -/
  | p3ExitTimeout
  /-- R428. A core or IO rail below its threshold holds the device in power-on reset. -/
  | powerOnReset
  /-- R428. RESET_N low for at least 1 us resets the device. -/
  | resetPin (ns : Nat)
  /-- R428. Within 1 ms after the SYS_RESET reply the device resets. -/
  | cmdDeviceReset
  /-- R429. The internal reset releases and tick 0 begins with every block in its start state. -/
  | resetRelease (st : Straps)
  /-- R414. The rails fall, losing every content not listed as kept. -/
  | railPowerDown
  /-- R374. PERST# resets the PCIe endpoint, rings, result store and dumping only. -/
  | perst
  /-- R374. A PCIe hot reset resets the endpoint and host-memory state only. -/
  | pcieHotReset
  /-- R374. An FLR of PF0 resets the command interface and counter dumping. -/
  | flrPf0
  /-- R374. An FLR of PF1 affects PF1 alone. -/
  | flrPf1
  /-- R428. TRST_N resets the TAP only. -/
  | trst
  /-- R432. TAP instruction 0x00 drives boundary-scan outputs. -/
  | jtagExtest
  /-- R432. TAP instruction 0x01 selects the IDCODE register. -/
  | jtagIdcode
  /-- R432. TAP instruction 0x02 samples or preloads the boundary register. -/
  | jtagSamplePreload (pins shift : Nat)
  /-- R432. TAP instruction 0x03 places scanned outputs in high impedance. -/
  | jtagHighz
  /-- R432. TAP instruction 0x04 clamps outputs with bypass selected. -/
  | jtagClamp
  /-- R432. TAP instruction 0x10 resets the device at Update-IR. -/
  | jtagDevReset
  /-- R432. TAP instruction 0xFF or any other code selects BYPASS. -/
  | jtagBypass (code : BitVec 8)
  /-- R109. In FREQ_ACQ the coarse carrier offset is found from the pilots and the line DSP moves to SC_ACQ. -/
  | freqOffsetFound (l : Fin 2) (kHz : Int)
  /-- R112. Pilots are detected on a subcarrier in OFF and it enters ACQ with its SOP tracker reset. -/
  | pilotsDetected (l : Fin 2) (k : Fin 16)
  /-- R112. A subcarrier in ACQ with pilot sync, a valid announcement, pilot SNR at least LOCK_THR over a tick and its first bank applied enters TRACK. -/
  | scTrackReached (l : Fin 2) (k : Fin 16) (x : AcqIn)
  /-- R153. A port in UP whose PCS loses marker alignment goes to ALIGN and sets LINK_DOWN. -/
  | alignmentLost (p : Fin 8)
  /-- R147. The raw-mode receive checker aligns itself to the PRBS pattern, sets LOCK and starts counting bit errors. -/
  | prbsLock (i : Fin 16)
  /-- R314. A ranged leaf sends its leaf burst in its slot so that the marker reaches the hub 1 us after the slot begins, adjusted by ADJ. -/
  | leafSlotBurst (l : Fin 2)
  /-- R211. An uncorrectable interface error on a stack sends the Sett from READY to FAILED and sends an M0 message. -/
  | stackInterfaceError (st : Fin 4)
  /-- R383. The PCIe link goes down and the PCIe messenger M4 sends a link-down message. -/
  | pcieLinkDown
  /-- R383. The XO stops oscillating and the DPLL messenger M2 sends an XO-activity-lost message. -/
  | xoActivityLost
  /-- R346. The host unmasks a vector in the BAR2 MSI-X table and a vector whose pending bit is set is raised. -/
  | msiXUnmask (pf1 : Bool) (vec : Fin 32)
deriving DecidableEq, Repr

end Sys2Proof
end

