-- ==== Sys2Proof/WellFormed.lean ====
section
/-! DEFINITION. Which terms of Instr are commands that the outside can bring: every operand within the size that the manual
gives its field. The machine is total on all terms; statements that need a bound take it from here. -/

namespace Sys2Proof

/-- A cell (Table 1-4): header fields in their widths and 248 bytes of payload, all fields 0 in an idle cell. -/
def Cell.wf (c : Cell) : Bool :=
  decide (c.flow < 8192) && decide (c.seq < 2 ^ 32) && decide (c.fptr < 256) && decide (c.valid ≤ 248) &&
  decide (c.payload.length = 248) && (!c.idle || (c.flow == 0 && c.seq == 0 && c.fptr == 0 && c.valid == 0))

/-- Parameter words of a command: at most the 4,064 bytes that 64 slots hold beside the header (R347, R353). -/
def paramsWf (ws : List Word) : Bool := decide (ws.length ≤ 1016)

/-- A place within a tick, in units of 2^-16 ns: before the 8.000 us are over (R41). -/
def subWf (sub : Nat) : Bool := decide (sub < 524288000)

/-- A stamp in units of 2^-16 ns fits the 96 bits of a time field: 48 bits of seconds (R41). -/
def stampWf (t : Nat) : Bool := decide (t < 2 ^ 48 * 65536000000000)

/-- A client frame up to the last byte before its FCS (R156). -/
def EthFrame.wf (f : EthFrame) : Bool := decide (f.data.length < 2 ^ 16)

/-- A fetched packet: the eight words of the header (Table 12-4) and its parameters. -/
def Packet.wf (p : Packet) : Bool := decide (p.hdr.length = 8) && paramsWf p.params

/-- The errors of a received line frame's outer blocks lie in their blocks: at most 764 rows of 532 bits (R125). -/
def errWf (e : Nat × Nat × Nat) : Bool := decide (e.2.1 < 764) && decide (e.2.2 < 532)

/-- A received line frame: 16 announcement words of 4 bits, cells by position, its stamp (R85, R119). -/
def RxFrame.wf (f : RxFrame) : Bool :=
  decide (f.ann.length = 16) && f.ann.all (· < 16) && f.cells.all (fun c => c.2.wf) && f.outErrs.all errWf && stampWf f.stamp

/-- What a quality window measures: one value of each kind for each of 16 subcarriers (R114). -/
def QualMeas.wf (q : QualMeas) : Bool :=
  decide (q.snrX.length = 16) && decide (q.snrY.length = 16) && decide (q.evm.length = 16)

/-- A burst: at most 1,024 bytes of payload, and its stamp (R309, R312). -/
def Burst.wf (b : Burst) : Bool := decide (b.data.length ≤ 1024) && stampWf b.stamp

/-- The monitors of a tick: the symbols of a raw lane fill the 64 words of a capture with 64 to slip into, and one before them; a channel
estimate has 64 words; a lane has at most six DFE taps (R101, R146, R148). -/
def TickIn.wf (i : TickIn) : Bool :=
  i.laneSyms.all (fun b => b.2.length == 1089) && i.chanEst.all (fun b => b.2.length == 64) && i.adapt.all (fun b => b.2.2.length ≤ 6)

/-- The conversions of one step: at most n of them, each with a modulator output and a full scale above 0 (R321, R325). -/
def resWf (n : Nat) (rs : List ConvOut) : Bool := decide (rs.length ≤ n) && rs.all fun r => decide (0 < r.full)

/-- Well-formed commands. -/
def Instr.wf : Instr → Bool
  | .sysNop _ ws | .sysIdentify _ ws | .sysResultGet _ ws | .sysResultRelease _ ws | .sysBootCfg _ ws
  | .sysReset _ ws | .fwStage _ ws | .fwActivate _ ws | .fwFuse _ ws | .fwInfo _ ws | .lineConvSet _ ws
  | .lineConvCal _ ws | .lineConvBgcal _ ws | .lineConvStatus _ ws | .lineConvRetire _ ws | .lineScCfg _ ws
  | .lineLoadSet _ ws | .lineEqLoad _ ws | .lineRxCfg _ ws | .lineRxAcq _ ws | .lineEqRead _ ws | .lineFecCfg _ ws
  | .lineHdrMsg _ ws | .clientLaneCfg _ ws | .clientLaneRaw _ ws | .clientLaneRead _ ws | .clientPortCfg _ ws
  | .clientPfcCfg _ ws | .clientRefSel _ ws | .clientTsAdj _ ws | .classKeySet _ ws | .flowSet _ ws | .flowRead _ ws
  | .saCfg _ ws | .saActivate _ ws | .saRxPromote _ ws | .saKeyClear _ ws | .saStatus _ ws | .saPnAdvance _ ws
  | .nutInject _ ws | .nutZeroise _ ws | .settRegionCfg _ ws | .settClassSet _ ws | .settMergeSet _ ws
  | .settMergeStatus _ ws | .settArbSet _ ws | .settCapCfg _ ws | .settCapArm _ ws | .settCapRead _ ws
  | .eccScrubCfg _ ws | .eccSpareRead _ ws | .eccSpareLoad _ ws | .eccTestAccess _ ws | .timRefCfg _ ws
  | .timDpllCfg _ ws | .timeSet _ ws | .timOutCfg _ ws | .chainMaster _ ws | .chainAsym _ ws | .martenLineCfg _ ws
  | .martenAsymCal _ ws | .martenSteer _ ws | .martenPtpCfg _ ws | .mcCfg _ ws | .mcSend _ ws | .mcRead _ ws
  | .cloveChanCfg _ ws | .cloveSeqSet _ ws | .cloveSync _ ws | .cloveInjFire _ ws | .cloveDetCfg _ ws
  | .cloveTdac _ ws | .cloveBiasCfg _ ws | .cloveBiasSet _ ws | .cloveCalCfg _ ws | .fltCfg _ ws | .fltGlobal _ ws
  | .fltInject _ ws | .logRead _ ws | .logCfg _ ws | .logMark _ ws | .logClear _ ws | .cntCfg _ ws | .cntWrite _ ws
  | .cntRead _ ws | .cntDumpCfg _ ws | .cntUwin _ ws | .pwrStateSet _ ws | .pwrRegCfg _ ws | .pwrAvsCfg _ ws
  | .pwrPolicy _ ws | .pinCfg _ ws => paramsWf ws
  | .tickBoundary i => i.wf
  | .lineFrameDecode _ f => f.wf
  | .qualityWindowPost _ q => q.wf
  | .clientFrameIngress _ f sub _ _ => f.wf && subWf sub
  | .egressFrameStart _ sub => subWf sub
  | .ppsEdge _ sub => subWf sub
  | .extTrigEdge _ sub => subWf sub
  | .cmdFetch _ p => p.wf
  | .mcBurstRx _ b => b.wf
  | .cloveConversionEnd res => resWf 4 res
  | .cloveSupervisorSteps res => resWf 11 res
  | .regWrite _ _ _ | .rsLowWordRead _ _ | .nutKeyStageWrite _ _ | .nutKeyGo _ | .ringEnable _ _ | .ringDisable _ _
  | .sqTailDoorbell _ _ | .cqHeadDoorbell _ _ | .bootDlGo _ _ | .eccFlipArm _ | .cntDumpHeadWrite _
  | .fltPendClear _ _ | .fltFirstClear _ | .fltMsgPop _ | .carryFault _ | .cellFlush _ | .adcDwellEnd _ _ _
  | .sliceSuspect _ _ _ | .sliceSubstitute _ _ | .adcFail _ _ | .convCalStart _ | .convRxCalDone _ _
  | .convTxCalDone _ _ _ | .convCalTimeout _ _ | .linePllUnlock _ | .linePllRelockAttempt _ _ | .scWarmupEnd _ _
  | .scCloseEnd _ _ | .eqFadeEnd _ _ | .cdResidualAlarm _ | .cdSearchScanEnd _ _ | .freqAcqTimeout _
  | .scAcqTimeout _ | .runTrackLoss _ | .rxdConvStateChange _ | .scAcqExpire _ _ | .scTrackLoss _ _
  | .laneSignalDetect _ | .laneAdaptDone _ _ _ | .laneAdaptTimeout _ | .laneLos _ | .laneRetry _ | .portAlignDone _
  | .portFaultRx _ _ | .portFaultClear _ | .linkPropLocalFault _ | .pfcFrameRx _ _ _ | .pauseTimerExpire _ _
  | .pfcRefresh _ _ | .nutEncrypt _ | .nutRxFrame _ | .pipelineFence _ _ _ | .c7Preempt _ _ | .txMarkExpire _
  | .keyStagingTimeout | .nutSelftestEnd _ _ | .nutZeroiseDone | .settTrainDone | .settTrainTimeout _
  | .settClearDone | .settStackTemp _ _ | .settCopyReceive | .cellElasticAdmit | .captureTrigger _ | .captureDone
  | .eccWriteBack _ | .scrubRead _ _ _ | .trackerExpire _ | .rowRemapCopyDone _ | .refWtrExpire _ | .dpllLock
  | .dpllAcqFail | .dpllSwitchDone _ | .historySecond | .ocxoMeasureDone _ _ | .ocxoFail | .disagreeEnd | .slewDone
  | .chainMasterApply | .chainTimeWordRx _ _ _ | .chainEchoWordRx _ _ | .chainLinkAlign _ | .chainLinkDown _
  | .chainFirstLock | .ppsOutFlywheel _ | .outputStart _ | .martenWindowPost _ | .cdSecondSample _ | .cdCalCapture _
  | .mcBurstSend _ | .mcPreambleDetect _ _ _ | .mcSyncTimeout _ | .mcPost _ | .hubBeacon _ | .leafDiscoverySend _
  | .leafEchoLoss _ | .hubLeafLost _ _ | .cloveCalEnd _ _ | .cloveDwellEnd _ _ _ _ _ | .cloveCheckStep _
  | .clovePaceStart | .cloveInjTrigger _ | .cloveInjPost | .monSyncEdge | .cloveSyncDeferred | .detectorPost _
  | .biasLoopUpdate _ | .fwReply _ _ | .cmdTimeout _ | .ringDrainDone _ | .asyncComplete _ _ _ | .chainCmdWordRx _ _
  | .fwdFragmentTimeout _ _ _ | .fwdReplyTimeout _ | .firmwareStart _ | .bootTableAccept _ | .cpRestart
  | .cpRestartDone | .logEntryWrite | .watchdogExpire | .faultRaise _ | .dualRailBroken _ | .messengerMessage _ _
  | .faultWindowExpire _ | .chainFaultWordRx _ _ | .dumpWriteDone | .dumpDmaError | .pmbusPoll _ _ | .pmbAlert _
  | .pmbusStuck | .avsUpdate | .avsStep | .supervisorLost | .p2EntryStep | .p3ExitPowerGood | .p3ExitTimeout
  | .powerOnReset | .resetPin _ | .cmdDeviceReset | .resetRelease _ | .railPowerDown | .perst | .pcieHotReset
  | .flrPf0 | .flrPf1 | .trst | .jtagExtest | .jtagIdcode | .jtagSamplePreload _ _ | .jtagHighz | .jtagClamp
  | .jtagDevReset | .jtagBypass _ | .freqOffsetFound _ _ | .pilotsDetected _ _ | .scTrackReached _ _ _
  | .alignmentLost _ | .prbsLock _ | .leafSlotBurst _ | .stackInterfaceError _ | .pcieLinkDown | .xoActivityLost
  | .msiXUnmask _ _ => true

end Sys2Proof
end

