-- ==== Sys2Proof/Decode.lean ====
section
/-! DEFINITION. Words of the opcode table. The table of this block gives bits to none of its rows (a command arrives as a
packet, a register write or an event), so no word spells a command. -/

namespace Sys2Proof

/-- The rows of the table that have bits: how many, the word, and the command. There is none. -/
def bitRows : List (Nat × Nat × Instr) := []

/-- The command that a word of the table spells. -/
def decodeTableWord (nbits w : Nat) : Option Instr :=
  (bitRows.find? fun r => r.1 == nbits && r.2.1 == w).map fun r => r.2.2

end Sys2Proof
end

