-- ==== Sys2Proof/Config.lean ====
section
/-! DEFINITION. What the manual leaves open, as constants without a body: no proof can learn a value of them. -/

namespace Sys2Proof

/-- A free value where the manual states none: the n-th value taken. State.free counts the values taken so far, so
each use is a fresh one. Used for the outcome of a RESET_N pulse between 200 ns and 1 us (R428); other open values are operands of the
events that bring them (notes/assumptions/5.md). -/
opaque Config.freeNat : Nat → Nat

/-- The frequency that a switch holds where no LOCKED second has been completed and no second of the history is valid (R267): the
n-th value taken. -/
opaque Config.heldWord : Nat → Int

/-- CD_MID where the declared dispersion at the receive wavelength is zero (R296), as a function of CD_in: the manual states no value. -/
opaque Config.cdMidOpen : Int → Int

/-- The 16-symbol preamble word of an MC burst (R308): "a fixed 16-symbol QPSK word". Its symbol n. -/
opaque Config.mcPreamble : Nat → Fin 4

/-- The 64 symbols of the 16 sync words of MC (R308), by SYNC_ID and symbol. -/
opaque Config.mcSyncWord : Nat → Nat → Fin 4

/-- The parity bits of the fixed (1,024, 512) code of MC (R308), listed in the line code tables, as a function of the 512 information bits. -/
opaque Config.mcParity : List Bool → List Bool

/-- The common digital scale factor of a line (R94), as a function of the code and gain of its 16 subcarriers: the manual gives no
formula. -/
opaque Config.dacScale : List (Nat × Int) → Nat

/-- Q_DB of a quality window with at least half its bits wrong (R137), as a function of the counts: the formula has no value there. -/
opaque Config.qDbOpen : Nat → Nat → Nat

/-- The parity bits of an inner codeword (R124): the base matrices of the four rates are in the line code tables published beside
the manual. A function of the rate code and the information bits. -/
opaque Config.ldpcParity : Nat → List Bool → List Bool

/-- The frame pad (R126): "a known sequence fixed in the KW3216". Its bit n. -/
opaque Config.padBit : Nat → Bool

/-- The pilots and known QPSK symbols (R84, R88, R91): "a known sequence", by line, subcarrier, polarisation and symbol of the tick. -/
opaque Config.knownSymbol : Nat → Nat → Nat → Nat → Fin 4

/-- The seed of a PRBS of raw lane mode, by pattern code (R147): IEEE 802.3 gives the patterns. -/
opaque Config.prbsSeed : Nat → Nat

/-- Symbol n of SSPRQ as IEEE 802.3 defines it (R147). -/
opaque Config.ssprq : Nat → Fin 4

/-- The shaping stage (R88, R129): the 128 symbols of a block by code and raw bits, as the published line code tables define it. -/
opaque Config.shape : Nat → List Bool → List (Nat × Nat)

end Sys2Proof
end

