-- ==== Sys2Proof/Machine/Table.lean ====
section
/-! DEFINITION. A total map from numbers to data in one canonical form: the value an unlisted key reads as, and the
listed keys in strictly rising order, none of them holding that value. Register files, per-flow tables and
the Sett's memory are all held this way, so equal contents are equal data. -/

namespace Sys2Proof

/-- A table: what an unlisted key reads as, and the listed entries. -/
structure Table (α : Type) where
  dflt : α
  ents : List (Nat × α) := []
deriving DecidableEq, Repr

/-- The entry of a key in a list of entries, or the given default. -/
def lookupEnt {α : Type} (d : α) (k : Nat) : List (Nat × α) → α
  | [] => d
  | (j, v) :: es => if j = k then v else lookupEnt d k es

/-- Insert or replace one key, keeping the keys rising. -/
def putEnt {α : Type} (k : Nat) (v : α) : List (Nat × α) → List (Nat × α)
  | [] => [(k, v)]
  | (j, w) :: es => if k < j then (k, v) :: (j, w) :: es else if k = j then (k, v) :: es else (j, w) :: putEnt k v es

namespace Table

/-- Read one key. -/
def get {α : Type} (t : Table α) (k : Nat) : α := lookupEnt t.dflt k t.ents

/-- Write one key, keeping the canonical form (the value an unlisted key reads as removes the entry). -/
def set {α : Type} [DecidableEq α] (t : Table α) (k : Nat) (v : α) : Table α :=
  { t with ents := if v = t.dflt then t.ents.filter (fun e => e.1 != k) else putEnt k v t.ents }

/-- Rewrite one key from its present value. -/
def upd {α : Type} [DecidableEq α] (t : Table α) (k : Nat) (f : α → α) : Table α := t.set k (f (t.get k))

/-- The table with every key at one value. -/
def const {α : Type} (v : α) : Table α := { dflt := v }

/-- The keys that are listed (they hold something other than the default). -/
def keys {α : Type} (t : Table α) : List Nat := t.ents.map Prod.fst

/-- Write a run of consecutive keys from a list of values. -/
def setRun {α : Type} [DecidableEq α] (t : Table α) (k : Nat) : List α → Table α
  | [] => t
  | v :: vs => (t.set k v).setRun (k + 1) vs

/-- The canonical form: keys strictly rising, no entry at the default value. -/
def wf {α : Type} [DecidableEq α] (t : Table α) : Bool :=
  let rec rising : List (Nat × α) → Bool
    | [] => true
    | [(_, v)] => !decide (v = t.dflt)
    | (j, v) :: (k, w) :: es => decide (j < k) && !decide (v = t.dflt) && rising ((k, w) :: es)
  rising t.ents

end Table
end Sys2Proof
end

