-- ==== Sys2Proof/Machine/State.lean ====
section
/-! DEFINITION. The state of the KW3216 as plain data: one structure for each block of the manual, and State over
them all. Each field's comment reads: name in the manual; width; rule; reset value. The default of a field is
its value right after the release of reset, so State.reset is the structure with every default. Configuration that
the manual lays out as parameter words is kept as those words, read through named accessors. -/

namespace Sys2Proof.Machine

/-- The status codes of replies (Table 12-6). -/
inductive Status where
  | ok | busy | badArg | notReady | denied | noResource | timeout | unsupported | faulted
deriving DecidableEq, Repr

/-- A reply: its header fields of Table 12-5 other than PHASE, and its data words. -/
structure Reply where
  opcode   : Nat := 0
  tag      : BitVec 16 := 0
  status   : Status := .ok
  accepted : Bool := false
  repeated : Bool := false
  fwd      : Bool := false
  srcDev   : Nat := 0
  tick     : Nat := 0
  detail   : Nat := 0
  arg      : Nat := 0
  data     : List Word := []
  /-- The reply waits for the capture of this lane, for so many boundaries (R148). -/
  cap      : Option (Nat × Nat) := none
deriving DecidableEq, Repr

/-- The kinds of configuration items (R26, R27): with an index they name the unit that one command at a time may
stage. -/
inductive ItemKind where
  | convEntry | convCal | bgcal | slice | scCfg | load | rxCfg | rxAcq | fecCfg | hdrMsg
  | laneCfg | laneRaw | slip | port | pfc | refSel | tsAdj | key | flow
  | sa | region | cls | merge | arb | capCfg | capArm | scrub
  | ref | dpll | timeSet | out | chainAsym
  | martenLine | steer | ptp | mc | asym
  | chan | seq | sync | injFire | det | tdac | bias | cloveCal
  | fltCfg | fltGlobal | logCfg | cnt | dumpCfg | uwin
  | pwrState | avs | policy | pin
deriving DecidableEq, Repr

/-- A staged item: which unit, which operation on it, and its words. -/
structure Staged where
  item : ItemKind
  idx  : Nat := 0
  op   : Nat := 0
  ws   : List Word := []
  /-- Carried over a boundary already (R30 bit 5). -/
  carried : Bool := false
deriving DecidableEq, Repr

/-- A transmitted line frame: number, header, the cells of its first positions in order, and the number of idle cells that
fill its remaining positions (R31, R117 to R121); and what lays its bits out on the line: the announcement of each subcarrier (R85), none while it is dark, the symbol rate, the rate
code, and the codes and gains for which the common scale factor stands (R94, R126 to R129). -/
structure TxFrame where
  num   : Nat := 0
  ncell : Nat := 0
  hdr   : FrameHdr := 0
  cells : List Cell := []
  idle  : Nat := 0
  ann   : List (Option Nat) := []
  baud  : Nat := 17
  rate  : Nat := 3
  gains : List (Nat × Int) := []
deriving DecidableEq, Repr

/-- What leaves the device: the record of its outputs, newest first. The model's own field, not the manual's. -/
inductive Out where
  | irq (pf1 : Bool) (vec : Nat)
  | reply (ring pos : Nat) (phase : Bool) (r : Reply)
  | lineFrame (line : Nat) (f : TxFrame)
  | clientFrame (port : Nat) (flow : Nat) (data : List Byte) (fcs : Nat)
  | linkSignal (port sig : Nat)
  | pfcFrame (port : Nat) (dst src : Nat) (en : Nat) (quanta : List Nat)
  | chainWord (linkB : Bool) (w : ChainWord)
  | chainFill (linkB : Bool) (words : Nat)
  | burst (line : Nat) (hdr : BurstHdr) (data : List Byte)
  | dump (seq : Nat) (carried : Bool) (words : List Word)
  | pmbus (reg : Nat) (cmd : Nat) (val : Nat)
  | pmbusClear
  | pulse (out : Nat) (at_ : Int)
  | linkDown
deriving DecidableEq, Repr

/-- The tick block (R16 to R31). -/
structure TickS where
  /-- GLOBAL_TICK; 64; R18; 0 -/
  num : Nat := 0
  /-- Ticks begun since the release of reset (a count the manual implies, R19); 64; R19; 0 -/
  count : Nat := 0
  /-- Time of day at the boundary that began this tick, 2^-16 ns; 96; R273; 0 -/
  tod : Nat := 0
  /-- Time since that boundary given by the last stamped event, 2^-16 ns (model's resolution); 32; R41; 0 -/
  sub : Nat := 0
  /-- The tick under way is stretched; 1; R20; 0 -/
  stretched : Bool := false
  /-- GLOBAL_TICK_STAT.STRETCH_CNT; 16; R20; 0 -/
  stretchCnt : Nat := 0
  /-- GLOBAL_TICK_STAT.ALIGNED; 1; R19; 0 -/
  aligned : Bool := false
  /-- GLOBAL_TICK_CARRY.CARRY; 6; R24; 0 -/
  carry : BitVec 6 := 0
  /-- Run of consecutive carries of each unit; 6 x 32; R30; 0 -/
  carryRun : Table Nat := .const 0
  /-- Units whose carry fault is to be raised at the end of the tick that ended; 6; R30; 0 -/
  carryDue : BitVec 6 := 0
  /-- The tick runs (stopped in P3); 1; R23; 1 -/
  running : Bool := true
  /-- The tick under way is the last before P3 stops the tick (the manual implies it); 1; R23; 0 -/
  stopDue : Bool := false
  /-- Staged items in the order of commit; list; R26; empty -/
  staged : List Staged := []
deriving DecidableEq, Repr

/-- One ADC slice (R53, Table 2-9). -/
structure SliceS where
  /-- Offset trim, 1/16 LSB; 16; R53; 0 -/
  offset : Int := 0
  /-- Gain trim, 0.05 %; 16; R53; 0 -/
  gain : Int := 0
  /-- Skew trim, 10 fs; 16; R53; 0 -/
  skew : Int := 0
  /-- Retired; 1; R64; 0 -/
  retired : Bool := false
deriving DecidableEq, Repr

/-- What the next boundary does to an ADC's slice map (R56 to R60): nothing, the rotation swap, a substitution at a position, or
the retirement of the offline slice. -/
inductive AdcAct where
  | keep | swap | subst (p : Nat) | retire
deriving DecidableEq, Repr

/-- One ADC (R55 to R63). -/
structure AdcS where
  /-- Slices S0 to S64; 65 records; R55; trims 0 -/
  slices : Table SliceS := .const {}
  /-- Slice map: position to slice, as an offset from the position (0 = Sp serves p); 64 x 7; R55; identity -/
  map : Table Nat := .const 127
  /-- OFFLINE, 127 = none; 7; R55; 0x40 -/
  offline : Nat := 64
  /-- NEXT_POS; 6; R56; 0 -/
  nextPos : Nat := 0
  /-- Ticks of the dwell under way; 15; R56; 0 -/
  dwellTicks : Nat := 0
  /-- Length in force of the dwell under way; 13; R76; 128 -/
  dwellLen : Nat := 128
  /-- DWELL commanded; 13; R56; 128 -/
  dwell : Nat := 128
  /-- ENABLE of rotation; 1; R76; 1 -/
  enable : Bool := true
  /-- Rotation running (ROT_EN); 1; R70; 0 -/
  rotating : Bool := false
  /-- SPARE_OK; 1; R58; 0 -/
  spareOk : Bool := false
  /-- Dwells passed in this round; 7; R74; 0 -/
  roundDwells : Nat := 0
  /-- ROUNDS; 16; R74; 0 -/
  rounds : Nat := 0
  /-- Consecutive deviating ticks per position; 64 x 5; R60; 0 -/
  devCount : Table Nat := .const 0
  /-- Positions whose slices are suspect, in the order of marking; 64; R60; none -/
  suspects : List Nat := []
  /-- Consecutive ticks with a suspect slice and without a spare; 9; R63; 0 -/
  suspectTicks : Nat := 0
  /-- What the next boundary does to the slice map; 2 + 6; R57; nothing -/
  act : AdcAct := .keep
  /-- In service: calibrated, not failed, its samples taken; 1; R58, R60; 0 -/
  on : Bool := false
  /-- ADC_FAIL; 1; R63; 0 -/
  failed : Bool := false
deriving DecidableEq, Repr

/-- One DAC's tracked trims (R53, R66). -/
structure DacS where
  /-- Tracked skew, 0.1 ps; 8; R66; 0 -/
  skew : Int := 0
  /-- Tracked gain, 0.1 %; 8; R66; 0 -/
  gain : Int := 0
  /-- DAC_HOLD; 1; R66; 0 -/
  hold : Bool := false
  /-- Segment weights calibrated; 1; R65; 0 -/
  segOk : Bool := false
deriving DecidableEq, Repr

/-- TX_STATE and RX_STATE codes (Table 2-5). -/
inductive ConvState where
  | off | cal | ready | degraded | failed | mcOnly
deriving DecidableEq, Repr

/-- The converters of one line (chapter 2). -/
structure ConvS where
  /-- Declared-optics entry W0 to W7 (Table 2-3); 256; R67; defaults -/
  entry : List Word := [0, 0, 0x88, 0, 0, 0, 0, 0]
  /-- TX_STATE; 4; R74; OFF -/
  tx : ConvState := .off
  /-- RX_STATE; 4; R74; OFF -/
  rx : ConvState := .off
  /-- ADCs XI, XQ, YI, YQ; 4 records; R49; as AdcS -/
  adc : Table AdcS := .const {}
  /-- DACs XI, XQ, YI, YQ; 4 records; R49; as DacS -/
  dac : Table DacS := .const {}
  /-- Calibration ticks since the boundary at which it began; 13; R70; none -/
  calTick : Option Nat := none
  /-- Line PLL locked; 1; R50; 0 -/
  pll : Bool := false
  /-- DACs muted (mid-code); 1; R51; 1 -/
  muted : Bool := true
  /-- Relock attempts made in this sequence, none outside one; 2; R73; none -/
  relock : Option Nat := none
  /-- Boundaries left to the start-up calibration after acceptance; 2; R70; none -/
  startIn : Option Nat := none
  /-- The line PLL has lost lock: both states become FAILED at the next boundary; 1; R73; 0 -/
  failDue : Bool := false
  /-- RX_STATE change not yet seen by the line DSP; 1; R111; 0 -/
  rxChanged : Bool := false
  /-- L0_CONV_FAULT; 6; R74; 0 -/
  fault : BitVec 6 := 0
  /-- Powered down by the power state or unused; 1; R68; 1 -/
  powered : Bool := false
deriving DecidableEq, Repr

/-- RXD_STATE (Table 3-7). -/
inductive RxdState where
  | off | waitConv | cdSearch | freqAcq | scAcq | run
deriving DecidableEq, Repr

/-- Subcarrier receive states (Table 3-8). -/
inductive ScState where
  | off | acq | track | lost
deriving DecidableEq, Repr

/-- States of the swap slot (Table 3-10). -/
inductive SwapState where
  | idle | staged | fading | pending
deriving DecidableEq, Repr

/-- One data subcarrier of a line (chapter 3). -/
structure ScS where
  /-- Transmit code in force as announced; 4; R115; 4 -/
  codeTx : Nat := 4
  /-- Commanded code (the code k that warm-up leads to); 4; R95; 4 -/
  code : Nat := 4
  /-- TX_GAIN, 0.1 dB; 8; R94; 0 -/
  gain : Int := 0
  /-- Lit; 1; R91; 0 -/
  lit : Bool := false
  /-- Ticks of warm-up left, the one under way included; 11; R91; 0 -/
  warm : Nat := 0
  /-- Warm-up, or the closing tick, ends at the next boundary; 1; R91, R92; 0 -/
  due : Bool := false
  /-- In its closing tick; 1; R92; 0 -/
  closing : Bool := false
  /-- SC_STATE; 2; R112; OFF -/
  rx : ScState := .off
  /-- Ticks in ACQ; 7; R112; 0 -/
  acqTicks : Nat := 0
  /-- Ticks in a row with a pilot SNR below LOSS_THR; 3; R112; 0 -/
  lowTicks : Nat := 0
  /-- A first bank has been applied since the subcarrier entered ACQ from OFF; 1; R112; 0 -/
  applied : Bool := false
  /-- Invalid announcements in a row; 5; R86; 0 -/
  annBad : Nat := 0
  /-- Last announced code, used on an invalid announcement (L0_LOAD_RX); 4; R86; 0 -/
  codeRx : Nat := 0
  /-- The frame decoded last announced code 0 (TRACK to OFF on no pilots); 1; R112; 0 -/
  annZero : Bool := false
  /-- Bank A, 100 words in the layout of Table 3-11; 3,200; R99; identity -/
  bankA : Option (List Word) := none
  /-- Bank B; 3,200; R99; identity -/
  bankB : Option (List Word) := none
  /-- ACTIVE: bank B active or faded towards; 1; R99; A -/
  active : Bool := false
  /-- Shadow buffer; 3,200; R103; identity -/
  shadow : Option (List Word) := none
  /-- Swap slot; 2; R103; IDLE -/
  slot : SwapState := .idle
  /-- Ticks of the fade left, the one under way included; 7; R102; 0 -/
  fade : Nat := 0
  /-- The fade ends at the next boundary; 1; R102; 0 -/
  fadeDue : Bool := false
  /-- SOP tracker: the rotation it has followed since it was the identity, as three components in urad; 3 x 64; R100; identity -/
  sop : Int × Int × Int := (0, 0, 0)
  /-- Residual channel estimate, 64 words; 2,048; R101; zero (DESIGN CHOICE) -/
  chan : List Word := []
  /-- SNR_X and SNR_Y in 0.01 dB; 2 x 16; R114; 0 -/
  snrX : Nat := 0
  /-- SNR_Y; 16; R114; 0 -/
  snrY : Nat := 0
  /-- EVM in 0.01 %; 16; R114; 0 -/
  evm : Nat := 0
  /-- SNR_VALID; 1; R114; 0 -/
  snrValid : Bool := false
  /-- EVM_VALID; 1; R114; 0 -/
  evmValid : Bool := false
  /-- In TRACK in every tick of the quality window under way; 1; R114; 0 -/
  winTrack : Bool := false
  /-- Code nonzero and unchanged over the window under way; 1; R114; 0 -/
  winCode : Bool := false
  /-- In TRACK in every tick of the window that ended and waits to be posted; 1; R114; 0 -/
  dueTrack : Bool := false
  /-- Code nonzero and unchanged over that window; 1; R114; 0 -/
  dueCode : Bool := false
deriving DecidableEq, Repr

/-- The line DSP of one line (chapter 3). -/
structure DspS where
  /-- LINE_SC_CFG words W0, W1 (Table 3-2); 64; R83; defaults -/
  scCfg : List Word := [0x11018100, 0x40]
  /-- LINE_RX_CFG words W0 to W3 (Table 3-9); 128; R116; defaults -/
  rxCfg : List Word := [0x0FA60400, 0, 0x4E200, 0x1E3C]
  /-- Subcarriers SC0 to SC15; 16 records; R79; as ScS -/
  sc : Table ScS := .const {}
  /-- RXD_STATE; 4; R109; OFF -/
  rxd : RxdState := .off
  /-- Ticks in the present RXD_STATE; 16; R109; 0 -/
  rxdTicks : Nat := 0
  /-- Ticks in a row with no subcarrier in TRACK; 16; R109; 0 -/
  noTrack : Nat := 0
  /-- CD_BULK, ps/nm; 32; R96; 0 -/
  cdBulk : Int := 0
  /-- L0_CD_EST, 0.1 ps/nm; 32; R97; 0x8000_0000 (none) -/
  cdEst : Option Int := none
  /-- The next scan is the narrow one after a loss of signal from RUN; 1; R110; 0 -/
  narrow : Bool := false
  /-- CD_CENTRE of the search under way, ps/nm; 32; R110, Table 3-9; 0 -/
  scanCentre : Int := 0
  /-- CD_SPAN of the search under way, ps/nm; 32; R110, Table 3-9; 320,000 -/
  scanSpan : Nat := 320000
  /-- Ticks of the scan under way; 8; R109; 0 -/
  scanTicks : Nat := 0
  /-- Consecutive failed full scans; 2; R110; 0 -/
  failedScans : Nat := 0
  /-- ACQ_FAIL raised in this episode; 1; R110; 0 -/
  acqFailed : Bool := false
  /-- LINE_RX_ACQ applied or forced return to CD_SEARCH pending; 1; R111; 0 -/
  forceSearch : Bool := false
  /-- L0_FREQ_OFS, kHz; 32; R115; 0 -/
  freqOfs : Int := 0
  /-- L0_CLK_OFS, 0.001 ppm; 32; R113; 0 -/
  clkOfs : Int := 0
  /-- Residual dispersion beyond 1,500 ps/nm, ticks in a row; 16; R98; 0 -/
  residTicks : Nat := 0
  /-- The window under way was cut short by a renumbering; 1; R114; 0 -/
  winBroken : Bool := false
  /-- A quality window is under way (none between a renumbering and the next window's first tick); 1; R114; 1 -/
  winOpen : Bool := true
  /-- Ticks of the quality window under way that have ended; 10; R114; 0 -/
  winTicks : Nat := 0
  /-- A quality window has ended and waits to be posted; 1; R114; 0 -/
  winDue : Bool := false
  /-- Code and gain of each subcarrier for which the common digital scale factor in force was computed; 16 x 12; R94; 4 and 0 -/
  scaleOf : List (Nat × Int) := List.replicate 16 (4, 0)
  /-- L0_DSP_FAULT; 6; R115; 0 -/
  fault : BitVec 6 := 0
deriving DecidableEq, Repr

/-- FR_STATE (Table 4-4). -/
inductive FrState where
  | noSignal | hunt | inFrame | lof
deriving DecidableEq, Repr

/-- FEC statistics of a quality window (R137). -/
structure FecWin where
  preErr : Nat := 0
  preBits : Nat := 0
  iterSum : Nat := 0
  cws : Nat := 0
  iterPeak : Nat := 0
  unconv : Nat := 0
  outCorr : Nat := 0
  budgetTicks : Nat := 0
  outUncorr : Nat := 0
  allInFrame : Bool := true
deriving DecidableEq, Repr

/-- Line frame and FEC of one line (chapter 4). -/
structure FrameS where
  /-- LINE_FEC_CFG word (Table 4-6); 32; R139; 0x2D0014F0 -/
  fecCfg : Word := 0x2D0014F0
  /-- Host message sent (LINE_HDR_MSG), 16 words; 512; R139; 0 -/
  msg : List Word := []
  /-- L0_TX_FN: number of the last frame sent; 48; R138; 0 -/
  txFn : Nat := 0
  /-- A frame has been sent since TX_STATE became READY; 1; R118; 0 -/
  txStarted : Bool := false
  /-- FR_STATE; 2; R135; NO_SIGNAL -/
  fr : FrState := .noSignal
  /-- Number of the last good frame (L0_RX_FN); 48; R138; 0 -/
  rxFn : Nat := 0
  /-- Decode ticks since that frame's, none before a good frame; 64; R134; none -/
  sinceGood : Option Nat := none
  /-- Consecutive good frames with consecutive numbers; 2; R135; 0 -/
  goodRun : Nat := 0
  /-- Consecutive bad frames; 4; R135; 0 -/
  badRun : Nat := 0
  /-- NO_SIGNAL was entered from HUNT, IN_FRAME or LOF (FR_LOST counts); 1; R136; 0 -/
  lostCounting : Bool := false
  /-- A frame has been decoded in this tick; 1; R39; 0 -/
  decoded : Bool := false
  /-- NCELL_RX; 16; R138; 0 -/
  ncellRx : Nat := 0
  /-- LINE_FAR; 1; R138; 0 -/
  lineFar : Bool := false
  /-- RDI_FAR; 1; R138; 0 -/
  rdiFar : Bool := false
  /-- L0_FAR_SNR_0 to _7 as 16 values; 256; R138; 0 -/
  farSnr : List Nat := []
  /-- L0_FAR_VALID; 16; R138; 0 -/
  farValid : Nat := 0
  /-- L0_RX_MSG, 16 words; 512; R138; 0 -/
  rxMsg : List Word := []
  /-- FEC statistics accumulating; record; R137; 0 -/
  win : FecWin := {}
  /-- FEC statistics posted (L0_FEC_WIN); 256; R137; 0 -/
  post : FecWin := {}
  /-- L0_FEC_Q.PRE_VALID; 1; R137; 0 -/
  preValid : Bool := false
  /-- L0_FEC_Q.Q_DB; 16; R137; 0 -/
  qDb : Nat := 0
  /-- FEC statistics of the window that ended and waits to be posted; record; R137; 0 -/
  dueWin : FecWin := {}
  /-- Cells taken from each class queue so far: place of its head in the queue memory; 8 x 10; R223; 0 -/
  qHead : Table Nat := .const 0
  /-- Class queues of the line, C0 to C7, oldest first; 8 x 1,024 cells; R223; empty -/
  queue : Table (List Cell) := .const []
  /-- L0_FR_FAULT; 7; R138; 0 -/
  fault : BitVec 7 := 0
deriving DecidableEq, Repr

/-- Host lane receive states (Table 5-1). -/
inductive LaneState where
  | off | sigWait | adapt | ready | los | failed
deriving DecidableEq, Repr

/-- One host or chain lane (R141 to R149). -/
structure LaneS where
  /-- CLIENT_LANE_CFG word W1 (Table 5-9); 32; R143; 0x62006000 -/
  cfg : Word := 0x62006000
  /-- RX_STATE; 4; R146; OFF -/
  rx : LaneState := .off
  /-- Ticks in the present RX_STATE; 16; R146; 0 -/
  ticks : Nat := 0
  /-- RX_STATE that the next boundary brings; 3; R146; none -/
  due : Option LaneState := none
  /-- TX_STATE active; 1; R172; 0 -/
  txOn : Bool := false
  /-- CTLE in force, 0.5 dB; 8; R146; 0 -/
  ctle : Nat := 0
  /-- DFE taps 1 to 6; 6 x 8; R173; 0 (DESIGN CHOICE) -/
  dfe : List Int := []
  /-- SIGDET; 1; R172; 0 -/
  sigdet : Bool := false
  /-- Raw mode; 1; R147; 0 -/
  raw : Bool := false
  /-- CLIENT_LANE_RAW word in force (PAT, LPBK); 32; R147; 0 -/
  rawCfg : Word := 0
  /-- Accumulated SLIP modulo 128; 7; R148; 0 -/
  slip : Nat := 0
  /-- CL_PRBS.LOCK; 1; R147; 0 -/
  lock : Bool := false
  /-- CL_PRBS.ERR; 31; R147; 0 -/
  err : Nat := 0
  /-- Symbols sent since the pattern began; 64; R147; 0 -/
  sent : Nat := 0
  /-- Bits captured in the last tick, 64 words; 2,048; R148; 0 (DESIGN CHOICE) -/
  bits : List Word := []
deriving DecidableEq, Repr

/-- PORT_STATE (Table 5-3). -/
inductive PortState where
  | disabled | laneWait | align | up | fault
deriving DecidableEq, Repr

/-- A frame on its way to a client (R157). -/
structure EgrFrame where
  flow   : Nat := 0
  cls    : Nat := 0
  data   : List Byte := []
  fromCp : Bool := false
deriving DecidableEq, Repr

/-- One client port (R150 to R170). -/
structure PortS where
  /-- CLIENT_PORT_CFG words W0 to W4 (Table 5-11); 160; R150; defaults -/
  cfg : List Word := [0, 0, 0x2600, 0, 0]
  /-- CLIENT_PFC_CFG words W0 to W2 (Table 5-12); 96; R158; defaults -/
  pfc : List Word := [0x02000000, 0xFFFF, 0xFAC688]
  /-- PORT_STATE; 4; R153; DISABLED -/
  st : PortState := .disabled
  /-- Ticks alignment has held, and ticks without fault ordered sets; 3; R153; 0 -/
  ticks : Nat := 0
  /-- The condition on which the present state is left is met: the next boundary leaves it; 1; R153; 0 -/
  due : Bool := false
  /-- A fault ordered set has come in this tick; 1; R153; 0 -/
  faultTick : Bool := false
  /-- ALIGNED: PCS aligned; 1; R172; 0 -/
  aligned : Bool := false
  /-- Fault ordered sets sent: 0 none, 1 Remote Fault, 2 Local Fault; 2; R154; 0 -/
  sig : Nat := 0
  /-- PCS errors counted for received LPI ordered sets; 64; R151; 0 -/
  pcsErrs : Nat := 0
  /-- RX_LF; 1; R172; 0 -/
  rxLf : Bool := false
  /-- RX_RF; 1; R172; 0 -/
  rxRf : Bool := false
  /-- LF_SENT; 1; R154; 0 -/
  lfSent : Bool := false
  /-- Ticks in a row without a receiving line in frame; 8; R154; 0 -/
  noLine : Nat := 0
  /-- PFC_RX_PAUSED; 8; R160; 0 -/
  paused : BitVec 8 := 0
  /-- Pause timers in bit times left, per priority; 8 x 32; R160; 0 -/
  pause : Table Nat := .const 0
  /-- PFC_TX_XOFF; 8; R159; 0 -/
  xoff : BitVec 8 := 0
  /-- Ticks since the last PFC frame per class; 8 x 6; R159; 0 -/
  refresh : Table Nat := .const 0
  /-- INGRESS_ADJ and EGRESS_ADJ, ps; 2 x 32; R170; 0 -/
  inAdj : Int := 0
  /-- EGRESS_ADJ, ps; 32; R170; 0 -/
  outAdj : Int := 0
  /-- MARTEN_PTP_CFG word (Table 10-11); 32; R316; 0xC0000000 -/
  ptp : Word := 0xC0000000
  /-- Frames waiting for egress, in arrival order; list; R157; empty -/
  egr : List EgrFrame := []
  /-- Stamp queue (stamp, sequenceId), at most 64; list; R304; empty -/
  stamps : List (Nat × Nat) := []
deriving DecidableEq, Repr

/-- The open cell and the reassembly of one flow (R33, R35, R38). -/
structure FlowS where
  /-- SEQ of the next cell; 32; R168; 0 -/
  seq : Nat := 0
  /-- Payload bytes of the open cell; 248 bytes; R33; empty -/
  open_ : List Byte := []
  /-- FPTR of the open cell; 8; R32; 0xFF -/
  fptr : Nat := 255
  /-- Ticks its oldest byte has waited; 7; R35; 0 -/
  age : Nat := 0
  /-- The next boundary closes the cell; 1; R35; 0 -/
  due : Bool := false
  /-- Reassembly: bytes gathered and whether in step; list; R38; out of step -/
  rx : List Byte := []
  /-- In step with the frame delimiters; 1; R38; 0 -/
  inStep : Bool := false
  /-- SEQ expected next by reassembly; 32; R38; none -/
  rxSeq : Option Nat := none
  /-- SLOT of the cell in which the frame being gathered begins; 1; R184; 0 -/
  rxSlot : Bool := false
  /-- Cells of the flow dropped where the counter map has no event for it; 64; R38; 0 -/
  drops : Nat := 0
deriving DecidableEq, Repr

/-- Clients, classifier and flows (chapter 5). -/
structure ClientS where
  /-- Lanes HL0 to HL15, 16 (link A), 17 (link B); 18 records; R141; as LaneS -/
  lane : Table LaneS := .const {}
  /-- Ports P0 to P7; 8 records; R150; as PortS -/
  port : Table PortS := .const {}
  /-- Key table, four entries a bucket: key word and flow of each; 16,384 entries; R165; empty -/
  keys : Table (Option (BitVec 64 × Nat)) := .const none
  /-- Flow-table entries F0 to F8191 (Table 5-6); 8,192 x 32; R166; 0x100 -/
  flow : Table Word := .const 0x100
  /-- Cell builder and reassembly of each flow; 8,192 records; R33; as FlowS -/
  stream : Table FlowS := .const {}
  /-- CLIENT_REF_SEL word; 32; R171; 0 -/
  refSel : Word := 0
  /-- CL_LANE_LOS; 18; R172; 0 -/
  laneLos : BitVec 18 := 0
  /-- CL_LANE_ADAPT; 18; R172; 0 -/
  laneAdapt : BitVec 18 := 0
  /-- CL_PORT_FAULT; 24; R172; 0 -/
  portFault : BitVec 24 := 0
  /-- Frames trapped to the control processor (PTP_MODE 2): port, ingress stamp, data; list; R164; empty -/
  trapped : List (Nat × Nat × List Byte) := []
deriving DecidableEq, Repr

/-- One half of a key slot (R175). -/
structure HalfS where
  /-- Valid; 1; R180; 0 -/
  valid : Bool := false
  /-- AES-256 key; 256; R175; 0 -/
  key : BitVec 256 := 0
  /-- Salt; 32; R175; 0 -/
  salt : BitVec 32 := 0
  /-- Transmit: next PN. Receive: last accepted PN; 64; R175; 0 -/
  pn : Nat := 0
  /-- Replay bitmap: PNs seen, bit i for last - i; 64; R191; 0 -/
  seen : BitVec 64 := 0
deriving DecidableEq, Repr

/-- One security association (R175). -/
structure SaS where
  /-- SA_CFG word (Table 6-7): MARK, REPLAY_WIN, MODE; 32; R176; 0x03E80000 -/
  cfg : Word := 0x03E80000
  /-- Transmit current half; record; R175; empty -/
  txCur : HalfS := {}
  /-- Transmit next half; record; R175; empty -/
  txNxt : HalfS := {}
  /-- Receive current half; record; R175; empty -/
  rxCur : HalfS := {}
  /-- Receive next half; record; R175; empty -/
  rxNxt : HalfS := {}
  /-- Ticks left in TX_MARK, 0 = clear; 32; R183; 0 -/
  markLeft : Nat := 0
  /-- The marking period ends at the next boundary; 1; R183; 0 -/
  markDue : Bool := false
  /-- RX_ALIAS; 1; R186; 0 -/
  alias_ : Bool := false
  /-- REKEY_DUE; 1; R188; 0 -/
  rekeyDue : Bool := false
  /-- TX_EXH; 1; R188; 0 -/
  exhausted : Bool := false
  /-- FAULTED; 1; R199; 0 -/
  faulted : Bool := false
deriving DecidableEq, Repr

/-- DSTATE (R198, R202). -/
inductive DState where
  | selftest | run | degraded | failed
deriving DecidableEq, Repr

/-- A frame waiting at Nutmeg's input: transmit from a port, or receive from reassembly. -/
structure NutFrame where
  flow : Nat := 0
  cls  : Nat := 0
  slot : Bool := false
  data : List Byte := []
deriving DecidableEq, Repr

/-- A frame suspended for a C7 frame (R200): its direction and lane, the blocks it has left, and its counter and GHASH state. -/
structure SuspS where
  rx   : Bool := false
  lane : Nat := 0
  left : Nat := 0
  ctr  : BitVec 32 := 0
  hash : BitVec 128 := 0
deriving DecidableEq, Repr

/-- Nutmeg (chapter 6). -/
structure NutS where
  /-- Security associations SA0 to SA8191; 8,192 records; R175; as SaS -/
  sa : Table SaS := .const {}
  /-- Staging words NUT_KEY_0 to _7 and NUT_KEY_SALT; 288; R182; 0 -/
  stage : List Word := []
  /-- WR_MASK; 9; R182; 0 -/
  wrMask : BitVec 9 := 0
  /-- Ticks since the last write to a staging word; 7; R182; 0 -/
  stageTicks : Nat := 0
  /-- RESULT of the last GO; 3; R181; 0 -/
  result : Nat := 0
  /-- Time until which NUT_KEY_STAT.BUSY reads 1, 2^-16 ns; 96; R182, R205; 0 -/
  busyTill : Nat := 0
  /-- NUT_POLICY.BYPASS_ALLOW; 1; R177; 0 -/
  bypassAllow : Bool := false
  /-- NUT_POLICY.AUTH_ALLOW; 1; R177; 1 -/
  authAllow : Bool := true
  /-- NUT_POLICY.LOCKED; 1; R177; 0 -/
  locked : Bool := false
  /-- TX_DSTATE; 2; R202; SELFTEST -/
  txD : DState := .selftest
  /-- RX_DSTATE; 2; R202; SELFTEST -/
  rxD : DState := .selftest
  /-- NUT_FENCE_TX; 32; R198; 0 -/
  fenceTx : BitVec 32 := 0
  /-- NUT_FENCE_RX; 32; R198; 0 -/
  fenceRx : BitVec 32 := 0
  /-- Ticks of failed comparisons per pipeline (direction, redundant, number): the last one; 64 x 64; R198; none -/
  strike : Table (Option Nat) := .const none
  /-- Pipelines with two strikes, to be fenced; list; R198; empty -/
  fenceDue : List Nat := []
  /-- Pipelines that the next boundary fences; list; R198; empty -/
  fenceNow : List Nat := []
  /-- NUT_LAST_MISMATCH; 32; R205; 0 -/
  last : Word := 0
  /-- NUT_FAULT; 10; R205; 0 -/
  fault : BitVec 10 := 0
  /-- AUTH raised in this tick; 1; R192; 0 -/
  authTick : Bool := false
  /-- Suspended frames; list; R200; empty -/
  suspended : List SuspS := []
  /-- Frames at the transmit input, oldest first; list; R193; empty -/
  txQ : List NutFrame := []
  /-- Frames at the receive input, oldest first; list; R193; empty -/
  rxQ : List NutFrame := []
  /-- Ticks left of NUT_ZEROISE, none when idle; 5; R203; none -/
  zeroising : Option Nat := none
deriving DecidableEq, Repr

/-- SETT_STATE (Table 7-2). -/
inductive SettState where
  | off | train | clear | ready | selfRefresh | failed
deriving DecidableEq, Repr

/-- Slot states of a merge ring (Table 7-3). A slot that R219 marks DONE lies behind HEAD, where no copy can meet it before the
next lap: it is the empty slot. -/
inductive SlotState where
  | empty | held | weak
deriving DecidableEq, Repr

/-- A slot record (R214). -/
structure SlotS where
  /-- State; 2; R214; empty -/
  st : SlotState := .empty
  /-- SEQ; 32; R214; 0 -/
  seq : Nat := 0
  /-- Release tick; 32; R217; 0 -/
  rel : Nat := 0
  /-- Line that delivered the copy; 1; R214; 0 -/
  line : Nat := 0
  /-- Epoch of the flow; 16; R214; 0 -/
  epoch : Nat := 0
deriving DecidableEq, Repr

/-- The merge of one flow (R214 to R222). -/
structure MergeS where
  /-- Ring size in units of 256 slots, 0 = no ring; 22; R214; 0 -/
  ringU : Nat := 0
  /-- Ring base in units of 64 KB; 21; R214; 0 -/
  base : Nat := 0
  /-- HOLD; 16; R217; 0x0040 -/
  hold : Nat := 64
  /-- REPLACE; 1; R218; 1 -/
  replace : Bool := true
  /-- The flow is in RUN (otherwise SYNC); 1; R218; 0 -/
  run : Bool := false
  /-- HEAD; 32; R212; 0 -/
  head : Nat := 0
  /-- HEAD_IDX; 30; R218; 0 -/
  headIdx : Nat := 0
  /-- Slots; RING records; R214; empty -/
  slots : Table SlotS := .const {}
  /-- Epoch; 16; R214; 0 -/
  epoch : Nat := 0
  /-- Consecutive STALE copies from L0 and from L1; 2 x 4; R220; 0 -/
  stale0 : Nat := 0
  /-- Consecutive STALE copies from L1; 4; R220; 0 -/
  stale1 : Nat := 0
deriving DecidableEq, Repr

/-- A received copy at the Sett's input (R215 to R218). -/
structure Copy where
  line : Nat := 0
  ns   : Nat := 0
  weak : Bool := false
  cell : Cell := {}
deriving DecidableEq, Repr

/-- A cell on its way into, or in, an elastic region (R223). -/
structure ElCell where
  rx    : Bool := false
  cls   : Nat := 0
  port  : Nat := 0
  lines : List Nat := []
  addr  : Nat := 0
  cell  : Cell := {}
deriving DecidableEq, Repr

/-- Capture states (Table 7-9). -/
inductive CapState where
  | idle | armed | triggered | done
deriving DecidableEq, Repr

/-- One granule of the data space: eight words, each with its check field (R240). -/
abbrev Granule := List (BitVec 64 × BitVec 16)

/-- One (pseudo-channel, requester) pair of the arbiter (R230). -/
structure ArbS where
  /-- BAND, 4 = the default of Table 7-7; 3; R230; Table 7-7 -/
  band : Nat := 4
  /-- WEIGHT, 0 = the default of Table 7-7; 4; R230; Table 7-7 -/
  weight : Nat := 0
  /-- Transfers that hold an entry and wait for their grants; 14; R228, R230; 0 -/
  waiting : Nat := 0
  /-- Credit left in the round; 4; R230; 0 -/
  credit : Nat := 0
deriving DecidableEq, Repr

/-- An operation that asks for transaction entries, one per grant (R228): its requester of Table 7-7 and the pseudo-channels of its
transfers. -/
structure TxnOp where
  req : Nat := 0
  pcs : List Nat := []
deriving DecidableEq, Repr

/-- The Sett (chapter 7). -/
structure SettS where
  /-- SETT_STATE; 3; R211; TRAIN (from OFF at the release of reset) -/
  st : SettState := .train
  /-- Ticks in the present state; 16; R211; 0 -/
  ticks : Nat := 0
  /-- SETT_REGION_CFG words W0, W1 (Table 7-1); 64; R210; defaults -/
  region : List Word := [0x060000C0, 0x00C00080]
  /-- STACK_FAIL; 4; R211; 0 -/
  stackFail : BitVec 4 := 0
  /-- HOT; 4; R234; 0 -/
  hot : BitVec 4 := 0
  /-- REFX2; 4; R234; 0 -/
  refx2 : BitVec 4 := 0
  /-- SETT_TEMP; 4 x 8; R236; 0 -/
  temp : Table (BitVec 8) := .const 0
  /-- Merge state per flow; 8,192 records; R214; as MergeS -/
  merge : Table MergeS := .const {}
  /-- The data space of 2^31 granules; 2^37 bytes; R209; zero with zero checks -/
  mem : Table Granule := .const []
  /-- Copies waiting at the merge input; list; R218; empty -/
  inQ : List Copy := []
  /-- Cells waiting for admission to an elastic region; list; R224; empty -/
  elQ : List ElCell := []
  /-- Cells in the elastic regions, oldest first; list; R223; empty -/
  el : List ElCell := []
  /-- Transmit class table, RESERVE CEILING XOFF XON per class (Table 7-5); 8 x 80; R224; defaults -/
  clsTx : Table (List Word) := .const [0x200, 0x1000, 0xC00, 0x800]
  /-- Receive class table; 8 x 80; R224; defaults -/
  clsRx : Table (List Word) := .const [0x200, 0x1000, 0xC00, 0x800]
  /-- TX_XOFF; 8; R225; 0 -/
  txXoff : BitVec 8 := 0
  /-- RX_HIGH; 8; R225; 0 -/
  rxHigh : BitVec 8 := 0
  /-- SETT_CAP_CFG words W0 to W4 (Table 7-6); 160; R226; defaults -/
  capCfg : List Word := [0, 0, 0, 0, 0x1000000]
  /-- Capture state; 2; R226; IDLE -/
  cap : CapState := .idle
  /-- Records written since arming (the ring holds the last of them); 64; R226; 0 -/
  recs : Nat := 0
  /-- Records still to be written after the trigger; 27; R226; 0 -/
  capLeft : Nat := 0
  /-- SETT_CAP_STAT.GAP; 1; R227; 0 -/
  capGap : Bool := false
  /-- A record has been skipped since the last one stored; 1; R227; 0 -/
  capSkip : Bool := false
  /-- Arbiter pairs, 16 x pseudo-channel + requester; 64 x 9 records; R230; Table 7-7 -/
  arb : Table ArbS := .const {}
  /-- Last requester served per pseudo-channel and band, 4 x pseudo-channel + band; 256 x 4; R230; 8 -/
  lastReq : Table Nat := .const 8
  /-- Operations that wait for transaction entries, in the order of request; list; R229; empty -/
  txnQ : List TxnOp := []
  /-- Capture transfers of an earlier tick still wait; 1; R227; 0 -/
  capBehind : Bool := false
  /-- The state that the next boundary enters; 3; R211; none -/
  due : Option SettState := none
  /-- The stacks for which the next boundary enters FAILED, and the reason; 4 + 2; R211; none -/
  failDue : Option (List Nat × Nat) := none
  /-- Delay D_i valid in the Sett, and the value is Marten's; 2; R216; 0 -/
  dlyValid : Table Bool := .const false
  /-- SETT_FAULT; 10; R236; 0 -/
  fault : BitVec 10 := 0
deriving DecidableEq, Repr

/-- A correction-tracker entry (R246). -/
structure TrackS where
  addr  : Nat
  tick  : Nat
  count : Nat
deriving DecidableEq, Repr

/-- A pending write-back (R241): of a data granule (inst 16), of a metadata granule (8 to 10), or of an SRAM's word (0 to 7). -/
structure WbS where
  inst  : Nat := 16
  /-- Granule, or word of an SRAM. -/
  addr  : Nat := 0
  /-- The words that it stores, with their checks; for a metadata granule the errors left in its words. -/
  words : List (BitVec 64 × BitVec 16) := []
  /-- It holds a reserved transaction entry (R229). -/
  held  : Bool := false
deriving DecidableEq, Repr

/-- A spare record (Table 8-4) held by a stack or an SRAM instance. -/
structure SpareS where
  origin : Nat := 0
  target : Nat := 0
  pc     : Nat := 0
  bank   : Nat := 0
  row    : Nat := 0
  spare  : Nat := 0
  valid  : Bool := false
deriving DecidableEq, Repr

/-- One protected target: a stack (16 to 19) or an SRAM instance (0 to 7). -/
structure EccT where
  /-- Correction tracker, oldest first; 256 or 8 entries; R246; empty -/
  track : List TrackS := []
  /-- Pending write-backs, oldest first; 256 of a stack; R241, R243; empty -/
  wb : List WbS := []
  /-- Spares in force or being copied; 1,024 or 4; R247; empty -/
  spares : List SpareS := []
  /-- Hard faults waiting for the row remap under way; 8; R247; empty -/
  queue : List Nat := []
  /-- Ticks of the row copy under way; 8; R247; none -/
  copying : Option Nat := none
  /-- Fuse-map spares in use, applied at every reset; list; R247, R255; empty (fuse, DESIGN CHOICE) -/
  fuses : List SpareS := []
  /-- The scrubber carried in the last tick; 1; R253; 0 -/
  carried : Bool := false
  /-- Scrub position; 40; R245; 0 -/
  pos : Nat := 0
  /-- Completed passes; 16 or 32; R245; 0 -/
  passes : Nat := 0
  /-- Corrections and latent words of the pass under way; 2 x 32; R245; 0 -/
  passCorr : Nat := 0
  /-- Latent words of the pass under way; 32; R245; 0 -/
  passLatent : Nat := 0
  /-- ECC_LATENT raised in this tick; 1; R250; 0 -/
  latentTick : Bool := false
  /-- Row copies finished, valid from the next boundary; 1; R247; 0 -/
  copyDone : Bool := false
deriving DecidableEq, Repr

/-- Stored-data protection (chapter 8). -/
structure EccS where
  /-- Targets 0 to 7 (SRAMs) and 16 to 19 (stacks); 12 records; R240; as EccT -/
  tgt : Table EccT := .const {}
  /-- Error masks of SRAM and metadata words, key 2^40 x instance + index (8 and 9 the two copies of the free map and class
  accounting, 10 the slot records); 80 per word; R240; none -/
  sram : Table (BitVec 64 × BitVec 16) := .const (0, 0)
  /-- PASS in s; 17; R244; 3,600 -/
  pass : Nat := 3600
  /-- Scrub ENABLE; 1; R245; 1 -/
  enable : Bool := true
  /-- The Sett scrubber has started; 1; R255; 0 -/
  started : Bool := false
  /-- Scrub reads that the quotas have given each pseudo-channel so far; 64; R244; 0 -/
  quota : Nat := 0
  /-- Ticks for which the SRAM scrubber has been given its words; 64; R244; 0 -/
  sramTicks : Nat := 0
  /-- Granules scrubbed so far per pseudo-channel, and words per SRAM instance (from key 64); 72 x 64; R244; 0 -/
  scrubbed : Table Nat := .const 0
  /-- ECC cycles used in this tick per pseudo-channel; 64 x 7; R231; 0 -/
  used : Table Nat := .const 0
  /-- Parity errors that no access has met yet, by address; list; R240; empty -/
  parity : List Nat := []
  /-- ECC_LAST_0 to _2: kind, target, syndrome; 32; R253; 0 -/
  last0 : Word := 0
  /-- ECC_LAST_1 and _2: address; 64; R253; 0 -/
  lastAddr : Nat := 0
  /-- ECC_FLIP_DATA; 64; R251; 0 -/
  flipData : BitVec 64 := 0
  /-- ECC_FLIP_CHK; 16; R251; 0 -/
  flipChk : BitVec 16 := 0
  /-- ECC_FLIP_ADDR; 64; R251; 0 -/
  flipAddr : BitVec 64 := 0
  /-- ECC_FLIP_CTL; 32; R251; 0 -/
  flipCtl : Word := 0
  /-- Soft-spare records saved across P3; list; R248; empty -/
  saved : List SpareS := []
  /-- Spare records of ECC_SPARE_LOAD or the boot table still to be applied; list; R248; empty -/
  loading : List SpareS := []
  /-- Spare records applied by the load under way; 8; R254; 0 -/
  loaded : Nat := 0
  /-- The load under way ran out of spares; 1; R254; 0 -/
  loadFull : Bool := false
  /-- ECC_FAULT; 8; R253; 0 -/
  fault : BitVec 8 := 0
deriving DecidableEq, Repr

/-- Reference states (R260). -/
inductive RefState where
  | disabled | failed | wait | qualified
deriving DecidableEq, Repr

/-- One timing reference (R256 to R260). -/
structure RefS where
  /-- TIM_REF_CFG words W0 to W3 (Table 9-9); 128; R286; defaults -/
  cfg : List Word := [0x00040000, 0x989680, 0, 0x64]
  /-- STATE; 2; R260; DISABLED -/
  st : RefState := .disabled
  /-- LOS flag; 1; R258; 0 -/
  los : Bool := false
  /-- FREQ flag; 1; R258; 0 -/
  freq : Bool := false
  /-- PHASE flag; 1; R258; 0 -/
  phase : Bool := false
  /-- Measured offset, 10^-12, none before a measurement; 64; R285; none -/
  offset : Option Int := none
  /-- STRICT; 1; R266; 0 -/
  strict : Bool := false
  /-- Ticks of WAIT left (WTR_LEFT in seconds); 27; R260; 0 -/
  wtrLeft : Nat := 0
  /-- Ticks without activity; 16; R258; 0 -/
  quiet : Nat := 0
  /-- Expected PPS edge position, 2^-16 ns; 96; R258; none -/
  expect : Option Nat := none
  /-- An in-window edge followed the anchor; 1; R258; 0 -/
  seen : Bool := false
  /-- Seconds without an edge in the window; 2; R258; 0 -/
  missed : Nat := 0
  /-- Seconds with edges outside the window; 2; R258; 0 -/
  outside : Nat := 0
  /-- An edge has come outside the window in the second under way; 1; R258; 0 -/
  outEdge : Bool := false
  /-- TIM_REF_PH, ps; 32; R257; 0x8000_0000 (none) -/
  ph : Option Int := none
deriving DecidableEq, Repr

/-- DPLL_STATE (Table 9-3). -/
inductive DpllState where
  | freerun | acquire | locked | switch | holdover | chain
deriving DecidableEq, Repr

/-- A one-second mean of the control word (R270). -/
structure HistS where
  sec   : Nat
  mean  : Int
  valid : Bool
deriving DecidableEq, Repr

/-- One output (R277 to R279). -/
structure OutS where
  /-- TIM_OUT_CFG words W0 to W4 (Table 9-12); 160; R277; defaults -/
  cfg : List Word := [0x20000000, 0, 0x64000, 1, 0xA0]
  /-- Settings that take over at the next TAI second; 160; R279; none -/
  next : Option (List Word) := none
  /-- Running at the pin; 1; R279; 0 -/
  on : Bool := false
  /-- Waits for the first TAI second after its boundary; 1; R279; 0 -/
  due : Bool := false
  /-- FLY; 1; R278; 0 -/
  fly : Bool := false
  /-- Last measured offset of the chosen input, ps; 64; R278; 0 -/
  ofs : Int := 0
  /-- An in-window edge of the input in this second; 1; R278; 0 -/
  edge : Bool := false
  /-- The second that ended had no in-window edge of the input; 1; R278; 0 -/
  missed : Bool := false
deriving DecidableEq, Repr

/-- Chain link states (R281, Table 9-7). -/
inductive LinkState where
  | down | align | up
deriving DecidableEq, Repr

/-- One chain link (R281, R282). -/
structure LinkS where
  /-- State; 2; R281; DOWN -/
  st : LinkState := .down
  /-- TIM_CHAIN_DLY, 10 ps; 16; R285; 0 -/
  dly : Int := 0
  /-- Declared ASYM, ps; 32; R282; 0 -/
  asym : Int := 0
  /-- t1, t2 of the last exchange, 2^-16 ns; 2 x 96; R282; none -/
  t1 : Option Nat := none
  /-- t2; 96; R282; none -/
  t2 : Option Nat := none
  /-- t3 and t4 of the last TIME word received; 2 x 96; R282; none -/
  t3 : Option Nat := none
  /-- t4; 96; R282; none -/
  t4 : Option Nat := none
  /-- A TIME word has been received and an ECHO of it is due; 1; R280; 0 -/
  heard : Bool := false
  /-- TICK_NUM of the last TIME word received; 64; R280; 0 -/
  farTick : Nat := 0
  /-- Local tick in which it was received; 64; R280; 0 -/
  rxTick : Nat := 0
  /-- RX_OFS of the last TIME word received; 32; R280; 0 -/
  rxOfs : Nat := 0
  /-- flags of the last TIME word received; 16; R280; 0 -/
  flags : Nat := 0
  /-- A TIME word has been received since the link came up and since the master changed: `flags` tell the path; 1; R282; 0 -/
  got : Bool := false
  /-- Boundaries for which exchanges that mix tick numbers of before and after a renumbering are left out; 2; R282; 0 -/
  skip : Nat := 0
  /-- Forwarded command words that wait for their place on the link, oldest first; list; R45; empty -/
  q : List ChainWord := []
  /-- Words that the link can still send in this tick; 11; R280; 0 -/
  room : Nat := 0
  /-- Words sent since the last FILL word; 10; R281; 0 -/
  sinceFill : Nat := 0
  /-- Word boundary of the receiver, in bits; 7; R281; 0 -/
  slip : Nat := 0
  /-- theta toward the neighbour, 2^-16 ns, none before an exchange; 64; R282; none -/
  theta : Option Int := none
deriving DecidableEq, Repr

/-- Timing (chapter 9). -/
structure TimS where
  /-- References REF0 to REF7; 8 records; R256; as RefS -/
  ref : Table RefS := .const {}
  /-- TIM_DPLL_CFG words W0 to W3 (Table 9-10); 128; R286; defaults -/
  cfg : List Word := [0x4000000A, 0x01CC03E8, 0x012C003C, 0x03E80032]
  /-- DPLL_STATE; 3; R262; FREERUN -/
  st : DpllState := .freerun
  /-- SEL_REF in use: 0 to 7, 8 chain, 15 none; 4; R285; 15 -/
  sel : Nat := 15
  /-- Target of a switch; 4; R267; 15 -/
  target : Nat := 15
  /-- Ticks in the present DPLL state; 64; R264; 0 -/
  ticks : Nat := 0
  /-- Ticks (edges for PPS) in a row within the lock condition; 32; R264; 0 -/
  lockRun : Nat := 0
  /-- Ticks of the switch measurement (frequency) or edges (PPS); 8; R267; 0 -/
  meas : Nat := 0
  /-- TIM_PH_ERR, ps; 32; R285; 0 -/
  phErr : Int := 0
  /-- TIM_PBO_LAST, ps; 32; R267; 0 -/
  pbo : Int := 0
  /-- FCW, 10^-15; 48; R270; 0 -/
  fcw : Int := 0
  /-- Sum and number of the samples of the second under way; 64 + 17; R270; 0 -/
  fcwSum : Int := 0
  /-- Number of samples; 17; R270; 0 -/
  fcwCnt : Nat := 0
  /-- The second under way is still valid for the history; 1; R270; 0 -/
  secValid : Bool := false
  /-- The second under way has been spent in LOCKED so far; 1; R259; 0 -/
  secLocked : Bool := false
  /-- The tick that ended was spent in LOCKED; 1; R259; 0 -/
  wasLocked : Bool := false
  /-- The tick that ended was spent locked to a reference or to the chain; 1; R270; 0 -/
  wasValid : Bool := false
  /-- The tick under way is stretched; 1; R270; 0 -/
  tickBroken : Bool := false
  /-- Frequency held by the switch under way, 10^-15; 48; R267; 0 -/
  held : Int := 0
  /-- Bandwidth code of the loop in force, 0 with no loop; 4; R263; 0 -/
  bw : Nat := 0
  /-- State that the DPLL takes at the next boundary, with the phase to absorb, ps; 3 + 32; R262; none -/
  due : Option (DpllState × Int) := none
  /-- History of one-second means, newest first, at most 1,024; list; R270; empty -/
  hist : List HistS := []
  /-- TIM_HO, 10^-15; 48; R271; 0 -/
  ho : Int := 0
  /-- HO_QUAL; 2; R271; 0 -/
  hoQual : Nat := 0
  /-- BASE: OCXO; 1; R261; XO -/
  ocxo : Bool := false
  /-- The base has been decided (selection enabled); 1; R261; 0 -/
  baseDone : Bool := false
  /-- Ticks of the OCXO measurement under way; 17; R261; none -/
  ocxoMeas : Option Nat := none
  /-- Last measured OCXO offset against the XO, 10^-12; 64; R261; 0 -/
  ocxoOfs : Int := 0
  /-- The OCXO has lost its activity in service; 1; R261; 0 -/
  ocxoDead : Bool := false
  /-- XO_CORR, 10^-15; 64; R259; 0 -/
  xoCorr : Int := 0
  /-- XO_CORR_OK; 1; R259; 0 -/
  xoCorrOk : Bool := false
  /-- REF_DISAGREE held raised; 1; R266; 0 -/
  disagree : Bool := false
  /-- Ticks in agreement since; 32; R266; 0 -/
  agreeTicks : Nat := 0
  /-- Offset still to be removed by slew, 2^-16 ns; 64; R275; 0 -/
  slew : Int := 0
  /-- SLEWING; 1; R275; 0 -/
  slewing : Bool := false
  /-- Outputs CLKOUT0 to 3, PPS_OUT0 and 1; 6 records; R277; as OutS -/
  out : Table OutS := .const {}
  /-- Chain link A; record; R281; DOWN -/
  linkA : LinkS := {}
  /-- Chain link B; record; R281; DOWN -/
  linkB : LinkS := {}
  /-- MASTER; 2; R285; 0 -/
  master : Nat := 0
  /-- New master and the boundaries left to its application; 2 + 5; R283; none -/
  newMaster : Option (Nat × Nat) := none
  /-- Both links have failed: the device is its own timing source; 1; R48; 0 -/
  isolated : Bool := false
  /-- IDs of masters that the chain has lost; 4; R48; 0 -/
  lost : BitVec 4 := 0
  /-- CHAIN lock held; 1; R285; 0 -/
  chainLock : Bool := false
  /-- The chain has locked once since CHAIN was entered; 1; R282; 0 -/
  chainOnce : Bool := false
  /-- TIM_FAULT; 8; R285; 0 -/
  fault : BitVec 8 := 0
  /-- Change of the time of day that the DPLL asks of the next boundary, 2^-16 ns; 96; R269; 0 -/
  retime : Int := 0
  /-- The XO oscillates; 1; R383; 1 -/
  xoActive : Bool := true
deriving DecidableEq, Repr

/-- A posted time-transfer result (Table 10-8). -/
structure PostS where
  appIn   : Int := 0
  appOut  : Int := 0
  theta   : Int := 0
  asym    : Int := 0
  valid   : Bool := false
  samples : Nat := 0
deriving DecidableEq, Repr

/-- The TT field of a header (Table 10-1), as received. -/
structure FarTT where
  ttx      : Nat := 0
  cd       : Option Int := none
  ftx      : Nat := 0
  asym     : Int := 0
  aligned  : Bool := false
  mode     : Nat := 0
  steering : Bool := false
  dpll     : Nat := 0
deriving DecidableEq, Repr

/-- A hub's record of one leaf (R314). -/
structure LeafS where
  ranged   : Bool := false
  dUp      : Int := 0
  theta    : Int := 0
  strength : Int := 0
  empty    : Nat := 0
  lost     : Bool := false
deriving DecidableEq, Repr

/-- MC receiver states (Table 10-6). -/
inductive McState where
  | search | pre | sync | body
deriving DecidableEq, Repr

/-- A time-transfer window (R292, R299, R301). -/
structure TtWin where
  /-- The window is under way (none between a renumbering and the next window's first tick); 1; R292; 1 -/
  isOpen : Bool := true
  /-- Sum of a_out, 2^-16 ns; 64; R292; 0 -/
  sumOut : Int := 0
  /-- Sum of a_in; 64; R292; 0 -/
  sumIn : Int := 0
  /-- Number of samples; 17; R292; 0 -/
  cnt : Nat := 0
  /-- Two consecutive samples differ by more than JUMP_THR; 1; R292; 0 -/
  jump : Bool := false
  /-- IN_FRAME in every tick so far; 1; R292; 1 -/
  allIn : Bool := true
  /-- A slew or step ran in the window; 1; R301; 0 -/
  moved : Bool := false
  /-- Cut short by a renumbering; 1; R292; 0 -/
  broken : Bool := false
  /-- |Delta + ASYM_far| above 2 ns in every good frame so far; 1; R299; 1 -/
  conflict : Bool := true
  /-- RENUM at the end of the window; 32; R293; 0 -/
  renum : Int := 0
  /-- SL of the delay in force at the end of the window, 2^-16 ns; 64; R293; 0 -/
  sl0 : Int := 0
deriving DecidableEq, Repr

/-- Marten on one line (chapter 10). -/
structure MartenL where
  /-- MARTEN_LINE_CFG words W0 to W6 (Table 10-10); 224; R316; defaults -/
  cfg : List Word := [0x030D4000, 0, 0, 0, 0, 0xF7040E10, 0x64]
  /-- Last good frame's T_TX and receive stamp (the echo), 2^-16 ns; 2 x 96; R290; none -/
  echo : Option (Nat × Nat) := none
  /-- The time-transfer window under way; record; R292; empty -/
  win : TtWin := {}
  /-- The window that ended and waits to be posted; record; R292; empty -/
  dueWin : TtWin := {}
  /-- Last sample (a_out, a_in); 2 x 64; R292; none -/
  lastS : Option (Int × Int) := none
  /-- A window has ended and waits to be posted; 1; R292; 0 -/
  due : Bool := false
  /-- MARTEN_POST; 256; R315; 0 -/
  post : PostS := {}
  /-- Latest valid post's a_in and the value of RENUM at its end; 2 x 64; R293; 0 -/
  appW : Int := 0
  /-- RENUM at the end of that window; 32; R293; 0 -/
  renumW : Int := 0
  /-- Change of local time by slew since, 2^-16 ns; 64; R293; 0 -/
  sl : Int := 0
  /-- Asymmetry Delta in force, ps; 32; R295; 0 -/
  delta : Int := 0
  /-- DRIFT, ps; 32; R297; 0 -/
  drift : Int := 0
  /-- CD_in samples, newest first; list; R298; empty -/
  cdIn : List Int := []
  /-- CD_out samples, newest first; list; R298; empty -/
  cdOut : List Int := []
  /-- CD estimate posts and CD_RX fields of the second under way; 2 lists; R298; empty -/
  secIn : List Int := []
  /-- CD_RX fields of the second under way; list; R298; empty -/
  secOut : List Int := []
  /-- CD_in,cal in 0.1 ps/nm; 32; R297; 0x8000_0000 (none) -/
  calIn : Option Int := none
  /-- CD_out,cal; 32; R297; 0x8000_0000 (none) -/
  calOut : Option Int := none
  /-- CAL_PEND; 1; R297; 0 -/
  calPend : Bool := false
  /-- The pending capture is taken at the next boundary; 1; R297; 0 -/
  calDue : Bool := false
  /-- The far end's TT of the last good frame; record; R289; none -/
  far : FarTT := {}
  /-- MC_CFG words W0, W1 (Table 10-12); 64; R307; 0x003C0000, 0x0064007D -/
  mc : List Word := [0x003C0000, 0x0064007D]
  /-- MC receiver state; 2; R309; SEARCH -/
  mcSt : McState := .search
  /-- Peak of the preamble being followed; 16; R309; 0 -/
  mcPeak : Nat := 0
  /-- A slew or step ran since the last MC post; 1; R301; 0 -/
  mcMoved : Bool := false
  /-- Tick count plus one of the last burst sent; 64; R312; 0 -/
  mcSent : Nat := 0
  /-- F_TX of the last burst received, MHz; 32; R311; 0 -/
  mcFtx : Nat := 0
  /-- MC_STRENGTH, 0.1 dB; 16; R315; 0x8000 (none) -/
  strength : Option Int := none
  /-- Last burst received from the far end: T_TX and stamp (echo); 2 x 96; R308; none -/
  mcEcho : Option (Nat × Nat) := none
  /-- Samples for MC_POST: sums and count; 3 x 64; R311; 0 -/
  mcOut : Int := 0
  /-- Sum of a_in over MC samples; 64; R311; 0 -/
  mcIn : Int := 0
  /-- MC samples gathered; 11; R311; 0 -/
  mcCnt : Nat := 0
  /-- Every burst so far passed R310; 1; R311; 1 -/
  mcGood : Bool := true
  /-- MC_POST; 256; R311; 0 -/
  mcPost : PostS := {}
  /-- Host bytes queued by MC_SEND (DST, bytes), at most 16; list; R312; empty -/
  sendQ : List (Nat × List Byte) := []
  /-- Mailbox (SRC, STRENGTH, bytes), at most 16; list; R312; empty -/
  mail : List (Nat × Int × List Byte) := []
  /-- Hub: leaves 0 to 15; 16 records; R314; unranged -/
  leaf : Table LeafS := .const {}
  /-- Hub: discovery echoes to send (leaf, T_TX, stamp); list; R313; empty -/
  disc : List (Nat × Nat × Nat) := []
  /-- Hub: leaf bursts to echo in this superframe (leaf, T_TX, stamp, ADJ); list; R313; empty -/
  leafEcho : List (Nat × Nat × Nat × Int) := []
  /-- Leaf: ranged; 1; R314; 0 -/
  ranged : Bool := false
  /-- Leaf: time set from a beacon; 1; R314; 0 -/
  timed : Bool := false
  /-- Leaf: superframes without an echo; 5; R314; 0 -/
  noEcho : Nat := 0
  /-- Leaf: send time correction, ns; 32; R314; 0 -/
  adj : Int := 0
  /-- Leaf: delay toward the hub, 2^-16 ns; 64; R314; 0 -/
  dUp : Int := 0
  /-- Leaf: a discovery burst was sent in this superframe; 1; R314; 0 -/
  sentDisc : Bool := false
deriving DecidableEq, Repr

/-- Marten (chapter 10). -/
structure MartenS where
  /-- Lines L0 and L1; 2 records; R287; as MartenL -/
  line : Table MartenL := .const {}
  /-- MARTEN_STEER word; 32; R300; 0x00050100 -/
  steer : Word := 0x00050100
  /-- SRC 3 uses L1 at present; 1; R300; 0 -/
  onL1 : Bool := false
  /-- Consecutive valid posts of L0, at most 10; 4; R300; 0 -/
  l0Good : Nat := 0
  /-- L0 has posted invalid: the next valid post of L1 moves to L1; 1; R300; 0 -/
  l0Bad : Bool := false
  /-- RENUM, ticks; 32; R293; 0 -/
  renum : Int := 0
  /-- Services stopped (P2, P3); 1; R317; 0 -/
  stopped : Bool := false
  /-- MARTEN_FAULT; 10; R315; 0 -/
  fault : BitVec 10 := 0
deriving DecidableEq, Repr

/-- CLOVE_STATE (Table 11-1). -/
inductive CloveState where
  | off | cal | run | degraded | fallback | failed
deriving DecidableEq, Repr

/-- A posted result (CLOVE_RES fields, Table 11-7). -/
structure ResS where
  valid : Bool := false
  ovr   : Bool := false
  uns   : Bool := false
  fb    : Bool := false
  tst   : Bool := false
  lane  : Nat := 0
  data  : Int := 0
deriving DecidableEq, Repr

/-- One detector (R336, R337). -/
structure DetS where
  /-- CLOVE_DET_CFG words W0 to W2 (Table 11-10); 96; R336; defaults -/
  cfg : List Word := [0x007D0000, 0x087FFFFF, 0x00800000]
  /-- Results of the window: list of values; list; R336; empty -/
  win : List Int := []
  /-- An OVR result entered the window; 1; R336; 0 -/
  ovr : Bool := false
  /-- Results of the window that ended and waits to be posted; list; R336; empty -/
  dueWin : List Int := []
  /-- An OVR result entered that window; 1; R336; 0 -/
  dueOvr : Bool := false
  /-- Envelope value, none before a first result; 24; R336; none -/
  env : Option Int := none
  /-- Posted words: VALID, OVR, HI, LO, VALUE, VALUE2; 2 x 32; R343; 0 -/
  valid : Bool := false
  /-- Posted OVR; 1; R343; 0 -/
  pOvr : Bool := false
  /-- Posted HI; 1; R337; 0 -/
  hi : Bool := false
  /-- Posted LO; 1; R337; 0 -/
  lo : Bool := false
  /-- Posted VALUE; 24; R343; 0 -/
  value : Int := 0
  /-- Posted VALUE2; 24; R343; 0 -/
  value2 : Int := 0
  /-- Window ended, waits to be posted; 1; R336; 0 -/
  due : Bool := false
  /-- The next boundary with an ended window posts it; 1; R336; 0 -/
  go : Bool := false
deriving DecidableEq, Repr

/-- LOOP codes (Table 11-7). -/
inductive LoopState where
  | off | hold | running | paused | starved | safe
deriving DecidableEq, Repr

/-- One bias output (R339 to R341). -/
structure BiasS where
  /-- CLOVE_BIAS_CFG words W0 to W5 (Table 11-11); 192; R339; defaults -/
  cfg : List Word := [0x00000400, 0xFFFF0000, 0x00008000, 0x00800000, 0x01000010, 0]
  /-- BASE in force; 16; R339; 0 (Table 11-7) -/
  base : Nat := 0
  /-- Output code at the pin, none = high impedance; 16; R339; none -/
  code : Option Nat := none
  /-- LOOP; 3; R343; off -/
  loop : LoopState := .off
  /-- LIMIT; 1; R341; 0 -/
  limit : Bool := false
  /-- Results of CH in halves with s = +1 and s = -1 since the last update; 2 lists; R340; empty -/
  hi : List Int := []
  /-- Results in halves with s = -1; list; R340; empty -/
  lo : List Int := []
  /-- A result with OVR since the last update; 1; R340; 0 -/
  ovr : Bool := false
  /-- STARVED raised in this episode; 1; R341; 0 -/
  starved : Bool := false
  /-- The firmware updates BASE at the boundary that ends the periods under way; 1; R340; 0 -/
  due : Bool := false
  /-- Held at SAFE in P2; 1; R342; 0 -/
  atSafe : Bool := false
deriving DecidableEq, Repr

/-- A step of conversions under way (R325, R328): the modulator clock on which it started, counted from the release of
reset at 160 a tick, and the settings that hold for it. -/
structure CvStep where
  /-- Modulator clock of its start; 64; R318; 0 -/
  clk : Nat := 0
  /-- CLOVE_TDAC word in force at its start; 32; R338; 0 -/
  tdac : Word := 0
  /-- It runs on the fall-back engine; 1; R323; 0 -/
  fb : Bool := false
deriving DecidableEq, Repr

/-- Clove (chapter 11). -/
structure CloveS where
  /-- CLOVE_STATE; 3; R322; CAL (from the release of reset) -/
  st : CloveState := .cal
  /-- Ticks in CAL; 8; R342; 0 -/
  ticks : Nat := 0
  /-- LANE_MAP: slice of lane j, as 4 values; 12; R318; 0,1,2,3 -/
  map : Table Nat := .const 8
  /-- OFFLINE, 7 = none; 3; R318; 4 -/
  offline : Nat := 4
  /-- NEXT_LANE; 2; R319; 0 -/
  nextLane : Nat := 0
  /-- Retired slices; 5; R319; 0 -/
  retired : BitVec 5 := 0
  /-- SPARE_OK; 1; R343; 0 -/
  spareOk : Bool := false
  /-- Slice trims (offset ppm, gain ppm) of CS0 to CS4; 5 records; R319; 0 -/
  trims : Table (Int × Int) := .const (0, 0)
  /-- Ticks of the dwell under way; 16; R319; 0 -/
  dwell : Nat := 0
  /-- Length in force of that dwell; 14; R319; 1,250 -/
  dwellLen : Nat := 1250
  /-- What the next boundary does with the offline slice: true takes it into service, false retires it; 2; R319; none -/
  dwellDue : Option Bool := none
  /-- Outcome of the start-up calibration (slices that failed, the fall-back engine failed), for the next boundary; 6; R342; none -/
  calDue : Option (List Nat × Bool) := none
  /-- CLOVE_CAL_CFG word; 32; R344; 0x800404E2 -/
  cal : Word := 0x800404E2
  /-- Consecutive failed checks per lane, and of the fall-back engine (4); 5 x 2; R320; 0 -/
  checkBad : Table Nat := .const 0
  /-- Lanes whose slice is suspect, to be handled at the next boundary; list; R320; empty -/
  suspects : List Nat := []
  /-- The fall-back engine has failed its check: FAILED at the next boundary; 1; R323; 0 -/
  failDue : Bool := false
  /-- RANGE of MON0 to MON31; 32 x 2; R324; 0 -/
  range : Table Nat := .const 0
  /-- Regular sequence words W0 to W9 (Table 11-9); 320; R328; MON32 to MON43 -/
  seq : List Word := [0x140C007D, 0, 0x23222120, 0x27262524, 0x2B2A2928]
  /-- Injected sequence words; 320; R330; disabled -/
  inj : List Word := [0x80000000, 0]
  /-- Step of the regular scan under way, none = waiting; 3; R328; none -/
  step : Option Nat := none
  /-- The regular step under way; record; R328; none -/
  reg : CvStep := {}
  /-- New regular sequence, in force from the next step start; 320; R329; none -/
  seqNext : Option (List Word) := none
  /-- A paced scan is due at the boundary that began this tick; 1; R328; 0 -/
  paceDue : Bool := false
  /-- Step of the injected run under way; 2; R330; none -/
  injStep : Option Nat := none
  /-- The injected step under way; record; R330; none -/
  run : CvStep := {}
  /-- New injected sequence, in force from the end of the run; 320; R330; none -/
  injNext : Option (List Word) := none
  /-- Results of the injected run so far; list; R331; empty -/
  injRes : List ResS := []
  /-- An injected run has ended and is not posted yet; 1; R331; 0 -/
  injDone : Bool := false
  /-- The next boundary posts it; 1; R331; 0 -/
  injDue : Bool := false
  /-- Sources and time of the run under way; 8 + 96; R331; 0 -/
  injSrc : Nat := 0
  /-- Trigger time, 2^-16 ns; 96; R331; 0 -/
  injTime : Nat := 0
  /-- CLOVE_INJ posted: sources; 8; R331; 0 -/
  pInjSrc : Nat := 0
  /-- CLOVE_INJ posted: time; 96; R331; 0 -/
  pInjTime : Nat := 0
  /-- CLOVE_INJ posted: LEN; 4; R331; 0 -/
  pInjLen : Nat := 0
  /-- CLOVE_INJ posted: RUNS; 16; R331; 0 -/
  runs : Nat := 0
  /-- CLOVE_INJ_4 to _11; 8 x 32; R331; 0 -/
  pInjRes : List ResS := []
  /-- Regular results of the tick under way (channel, result); list; R327; empty -/
  fresh : List (Nat × ResS) := []
  /-- CLOVE_RES; 48 x 32; R327; 0 -/
  res : Table ResS := .const {}
  /-- CLOVE_SUP; 11 x 32; R321; 0 -/
  sup : Table ResS := .const {}
  /-- Supervisor set in progress and done, to be posted; list; R321; empty -/
  supNew : List ResS := []
  /-- Supervisor set due; 1; R321; 0 -/
  supDue : Bool := false
  /-- Check step due; 1; R320; 0 -/
  checkDue : Bool := false
  /-- Extra step on the lanes in place of the regular one: 0 the check step, 1 supervisor steps; 2; R320; none -/
  xstep : Option Nat := none
  /-- Modulator clock on which it started, or went on after an injected run; 64; R321; 0 -/
  xclk : Nat := 0
  /-- Modulator clocks of one such step; 15; R320; 0 -/
  xlen : Nat := 0
  /-- Supervisor steps that an injected run found completed; 2; R321; 0 -/
  xdone : Nat := 0
  /-- Internal trigger sources whose event has come in this tick (Table 11-5); 6; R330; 0 -/
  trig : BitVec 6 := 0
  /-- Results still to be marked UNS per lane; 4 x 4; R333; 0 -/
  settle : Table Nat := .const 0
  /-- Sync deferred; 1; R335; 0 -/
  syncDue : Bool := false
  /-- Modulator clock on which the injected run ended that deferred it; 64; R335; 0 -/
  syncAt : Nat := 0
  /-- Detectors DET0 to DET15; 16 records; R336; as DetS -/
  det : Table DetS := .const {}
  /-- CLOVE_TDAC word; 32; R338; 0 -/
  tdac : Word := 0
  /-- Outputs BIAS0 to BIAS15; 16 records; R339; as BiasS -/
  bias : Table BiasS := .const {}
  /-- CLOVE_FAULT; 10; R343; 0 -/
  fault : BitVec 10 := 0
deriving DecidableEq, Repr

/-- Ring states (Table 12-3). -/
inductive RingState where
  | off | run | drain | halted
deriving DecidableEq, Repr

/-- One ring pair (R347 to R352). -/
structure RingS where
  /-- CMD_SQ_BASE; 64; R348; 0 -/
  sqBase : BitVec 64 := 0
  /-- CMD_CQ_BASE; 64; R348; 0 -/
  cqBase : BitVec 64 := 0
  /-- CMD_RING_CTL.EN; 1; R348; 0 -/
  en : Bool := false
  /-- IRQ_EN; 1; R348; 0 -/
  irqEn : Bool := false
  /-- CQ_SIZE; 4; R348; 0 -/
  cqSize : Nat := 0
  /-- SQ_SIZE; 4; R348; 0 -/
  sqSize : Nat := 0
  /-- CMD_SQ_TAIL; 16; R347; 0 -/
  sqTail : Nat := 0
  /-- SQ_HEAD; 16; R348; 0 -/
  sqHead : Nat := 0
  /-- CMD_CQ_HEAD; 16; R348; 0 -/
  cqHead : Nat := 0
  /-- CMD_CQ_TAIL.TAIL; 16; R348; 0 -/
  cqTail : Nat := 0
  /-- CQ pass count (PASS is its parity); 32; R350; 0 -/
  pass : Nat := 0
  /-- Slots written and not yet released; 17; R347; 0 -/
  cqUsed : Nat := 0
  /-- STATE; 2; R348; OFF -/
  st : RingState := .off
  /-- HALT_CAUSE; 4; R352; 0 -/
  halt : Nat := 0
  /-- Command fetched and not yet replied to, with the reply firmware has made of it; record; R351; none -/
  flight : Option Reply := none
  /-- Firmware has not executed the command in flight (it hangs); 1; R351; 0 -/
  noFw : Bool := false
  /-- Ticks since the fetch; 11; R357; 0 -/
  age : Nat := 0
  /-- A late reply of firmware is still to come (the ring engine posted TIMEOUT); 8; R357; 0 -/
  late : Nat := 0
deriving DecidableEq, Repr

/-- What a result-store entry waits for (R360). -/
inductive AsyncKind where
  | plain | conv (line : Nat) | zeroise | spareLoad | bootCfg | fwActivate (mode : Nat) | forward (msg : Nat)
deriving DecidableEq, Repr

/-- A result-store entry (R359 to R361). -/
structure ResEnt where
  ring   : Nat
  tag    : BitVec 16
  kind   : AsyncKind
  final  : Reply
  done   : Bool := false
  given  : Bool := false
deriving DecidableEq, Repr

/-- A forwarded message being reassembled or awaited (R363 to R367). -/
structure FwdMsg where
  src   : Nat
  msg   : Nat
  reply : Bool
  next  : Nat
  bytes : List Byte
  linkB : Bool
  age   : Nat := 0
deriving DecidableEq, Repr

/-- A command in the remote queue (R366). -/
structure RemoteCmd where
  src   : Nat
  msg   : Nat
  linkB : Bool
  bytes : List Byte
deriving DecidableEq, Repr

/-- A log entry (Table 12-15). -/
structure LogEnt where
  time    : Nat := 0
  seq     : Nat := 0
  cls     : Nat := 0
  carried : Bool := false
  fw      : Bool := false
  src     : Nat := 511
  code    : Nat := 0
  data    : List Word := []
  tick    : Nat := 0
  poison  : Bool := false
deriving DecidableEq, Repr

/-- GLOBAL_BOOT_STAT.STATE (Table 12-13). -/
inductive BootState where
  | rom | load | waitPcie | runNoCfg | run | restart
deriving DecidableEq, Repr

/-- Identity, boot, rings, result store and log (chapters 0 and 12). -/
structure CmdS where
  /-- GLOBAL_UID; 64; R6; 0 (DESIGN CHOICE: fused per die) -/
  uid : BitVec 64 := 0
  /-- GLOBAL_FWVER; 32; R5; 0 -/
  fwver : Word := 0
  /-- CHAIN_ID; 2; R3; 0 (strap) -/
  id : Nat := 0
  /-- SRC: BOOT_SEL; 1; R368; 0 (strap) -/
  bootSel : Bool := false
  /-- STATE of GLOBAL_BOOT_STAT; 3; R368; ROM -/
  boot : BootState := .rom
  /-- RESTARTS; 8; R375; 0 -/
  restarts : Nat := 0
  /-- ERR; 8; Table 12-13 (R373); 0 -/
  err : Nat := 0
  /-- CFG_SRC; 2; R371; 0 -/
  cfgSrc : Nat := 0
  /-- SLOT; 2; R368; 3 -/
  slot : Nat := 3
  /-- GLOBAL_RST_CAUSE; 5; R428; 0b00001 after power-on -/
  rstCause : BitVec 5 := 1
  /-- REVOKED; 4; R369; 0 (fuse, DESIGN CHOICE) -/
  revoked : BitVec 4 := 0
  /-- FUSED SVN; 8; R369; 0 (fuse, DESIGN CHOICE) -/
  fusedSvn : Nat := 0
  /-- IMAGE SVN; 8; R373; 0 -/
  imageSvn : Nat := 0
  /-- ROM key of the running image; 2; R369; none -/
  imageKey : Option Nat := none
  /-- GLOBAL_SCRATCH_0 to _3; 128; Table 12-13 (R373); 0 at power-on -/
  scratch : Table Word := .const 0
  /-- Flash image slot A; 1 MB; R368; empty (DESIGN CHOICE) -/
  slotA : List Byte := []
  /-- Flash image slot B; 1 MB; R368; empty (DESIGN CHOICE) -/
  slotB : List Byte := []
  /-- Verdict of the last signature check of slot A; 1; R369; 0 (DESIGN CHOICE) -/
  sigA : Bool := false
  /-- Verdict of the last signature check of slot B; 1; R369; 0 (DESIGN CHOICE) -/
  sigB : Bool := false
  /-- End of the image pieces staged so far; 20; R373; none -/
  stageEnd : Option Nat := none
  /-- Flash boot configuration table; 64 KB; R368; empty (DESIGN CHOICE) -/
  flashTable : List Byte := []
  /-- Boot table pieces received; 64 KB; R371; empty -/
  table : List Byte := []
  /-- Acceptance under way; 1; R371; 0 -/
  acceptDue : Bool := false
  /-- The table under acceptance came from the host (else from flash); 1; R371; 0 -/
  fromHost : Bool := false
  /-- Records are being tried or taken (the model's own, true only inside one step); 1; R372; 0 -/
  accepting : Bool := false
  /-- The table has been accepted; 1; R356; 0 -/
  accepted : Bool := false
  /-- Accepted table that is in force from the next boundary, with the VOUT_MODE answers (the model's own); 64 KB; R372; none -/
  tableDue : Option (List Byte × List (Fin 8 × BitVec 8)) := none
  /-- Records of the accepted table (opcode, words), for the exit from P3; list; R425; empty -/
  records : List (Nat × List Word) := []
  /-- Spare records of the accepted table; list; R248; empty -/
  tableSpares : List SpareS := []
  /-- CHAIN_DEVS; 3; R44; 1 -/
  devs : Nat := 1
  /-- BOOT_DL_BASE_LO and _HI; 64; R370; 0 -/
  dlBase : BitVec 64 := 0
  /-- BOOT_DL_LEN; 32; R370; 0 -/
  dlLen : Word := 0
  /-- Rings 0 to 15 and the remote queue's ring 16; 17 records; R347; as RingS -/
  ring : Table RingS := .const {}
  /-- Ring last served by the round robin; 5; R351; 16 (DESIGN CHOICE) -/
  turn : Nat := 16
  /-- Result store, at most 64; list; R359; empty -/
  store : List ResEnt := []
  /-- Next MSG number; 16; R364; 0 (DESIGN CHOICE) -/
  nextMsg : Nat := 0
  /-- Own forwarded commands awaiting reply, at most 8 (MSG, age in ticks); list; R363; empty -/
  fwdOut : List (Nat × Nat) := []
  /-- Messages being reassembled; list; R366; empty -/
  fwdIn : List FwdMsg := []
  /-- Remote queue, at most 4; list; R366; empty -/
  remote : List RemoteCmd := []
  /-- Reply of the command executed last (the answer of the ring commands); record; R353; none -/
  last : Option Reply := none
  /-- Device reset scheduled by SYS_RESET; 1; R428; 0 -/
  resetDue : Bool := false
  /-- Log entries, oldest first, at most 4,096; list; R376; empty -/
  log : List LogEnt := []
  /-- Entries awaiting their SRAM write; list; R376; empty -/
  logQ : List LogEnt := []
  /-- Next SEQ; 32; R376; 0 -/
  logSeq : Nat := 0
  /-- LOG_LOST; 32; R377; 0 -/
  logLost : Nat := 0
  /-- LOG_CFG word: MODE, AUDIT, IRQ_CLASS; 32; R377; 0x20 -/
  logCfg : Word := 0x20
deriving DecidableEq, Repr

/-- The identification registers of a function's PCIe configuration space (R7). -/
structure PcieId where
  vendor   : BitVec 16 := 0x1F4E
  device   : BitVec 16 := 0x3216
  revision : BitVec 8 := 0x21
deriving DecidableEq, Repr

/-- MSI-X and configuration space (R7, R345, R346). -/
structure PcieS where
  /-- Vendor ID, Device ID and Revision ID of PF0; 16 + 16 + 8; R7; 0x1F4E, 0x3216, 0x21 -/
  id0 : PcieId := {}
  /-- Vendor ID, Device ID and Revision ID of PF1; 16 + 16 + 8; R7; 0x1F4E, 0x3217, 0x21 -/
  id1 : PcieId := { device := 0x3217 }
  /-- PF0 vector masks; 32; R346; all 1 (masked, PRESUMED, log entry 112) -/
  mask0 : BitVec 32 := BitVec.allOnes 32
  /-- PF1 vector masks; 2; R346; all 1 (masked, PRESUMED, log entry 112) -/
  mask1 : BitVec 2 := 3
  /-- PF0 pending-bit array; 32; R346; 0 -/
  pend0 : BitVec 32 := 0
  /-- PF1 pending-bit array; 2; R346; 0 -/
  pend1 : BitVec 2 := 0
  /-- Link up; 1; R383; 1 -/
  link : Bool := true
  /-- Snapshots of RS registers held by PF0, by address; list; R12; reset values -/
  snap0 : Table (Option Word) := .const none
  /-- Snapshots held by PF1; list; R12; reset values -/
  snap1 : Table (Option Word) := .const none
  /-- Data of the last BAR0 read answered; 32; R12; 0 -/
  rdata : Word := 0
deriving DecidableEq, Repr

/-- One messenger's queue (R383). -/
structure MsgQ where
  /-- Stored messages with their OVF, at most 16; list; R383; empty -/
  q : List (Msg × Bool) := []
  /-- A message was lost since the last one stored; 1; R383; 0 -/
  lost : Bool := false
deriving DecidableEq, Repr

/-- The fault collector (chapter 13). -/
structure FltS where
  /-- Configuration words (Table 13-3), none = Table 13-6's default; 512 x 32; R384; Table 13-6 -/
  cfg : Table (Option Word) := .const none
  /-- FLT_PEND; 512; R381; 0 -/
  pend : BitVec 512 := 0
  /-- FLT_BROKEN; 512; R380; 0 -/
  broken : BitVec 512 := 0
  /-- FLT_ESC; 512; R385; 0 -/
  esc : BitVec 512 := 0
  /-- Window timers: units left of a running window; 512 x 24; R385; none -/
  win : Table (Option Nat) := .const none
  /-- FLT_FIRST.VALID; 1; R387; 0 -/
  first : Bool := false
  /-- FLT_FIRST.OVF; 1; R387; 0 -/
  ovf : Bool := false
  /-- FLT_FIRST.CLASS; 2; R387; 0 -/
  firstCls : Nat := 0
  /-- FLT_FIRST.FS; 9; R387; 0 -/
  firstFs : Nat := 0
  /-- FLT_FIRST_TICK; 64; R387; 0 -/
  firstTick : Nat := 0
  /-- FLT_STAT.LOCKED; 1; R390; 0 -/
  locked : Bool := false
  /-- Messenger queues M0 to M7; 8 records; R383; empty -/
  msg : Table MsgQ := .const {}
  /-- Messages sent by their units and not yet at the collector; list; R383; empty -/
  sent : List Msg := []
  /-- Sources signalled by their blocks and not yet at the collector; list; R381; empty -/
  raised : List Nat := []
  /-- FLT_CHAIN_LAST; 32; R393; 0 -/
  chainLast : Word := 0
  /-- BSEQ of the next broadcast; 8; R392; 0 -/
  bseq : Nat := 0
  /-- Sender and BSEQ of the last 16 FAULT words received; list; R393; empty -/
  seen : List (Nat × Nat) := []
  /-- FLT_WIN_0 to _3; 4 x 24; R385; 12,500, 125,000, 1,250,000, 7,500,000 -/
  wins : List Nat := [12500, 125000, 1250000, 7500000]
  /-- FLT_WD.PERIOD, ms; 14; R389; 100 -/
  wd : Nat := 100
  /-- Watchdog: ticks left of its period, none = disarmed or held; 24; R389; none -/
  wdLeft : Option Nat := none
  /-- Rails of a source held low for test cycles; 512; R395; none -/
  rails : List Nat := []
deriving DecidableEq, Repr

/-- One performance counter (R396 to R400). -/
structure CntC where
  /-- Configuration word (Table 13-8); 32; R396; 0 -/
  cfg : Word := 0
  /-- Value; 48; R397; 0 -/
  val : Nat := 0
  /-- OVF; 1; R398; 0 -/
  ovf : Bool := false
  /-- Configuration word stored for the high half of a chain; 32; R399; none -/
  later : Option Word := none
deriving DecidableEq, Repr

/-- Dump states (Table 13-11). -/
inductive DumpState where
  | off | idle | writing | stopped
deriving DecidableEq, Repr

/-- The performance counters (chapter 13). -/
structure CntS where
  /-- CNT0 to CNT4095; 4,096 records; R396; off, 0 -/
  cnt : Table CntC := .const {}
  /-- Snapshot of the array; 4,096 records; R397; off, 0 -/
  snap : Table CntC := .const {}
  /-- CNT_SNAP_TICK; 64; R400; 0 -/
  snapTick : Nat := 0
  /-- Time of day of the snapshot's boundary; 96; R403; 0 -/
  snapTod : Nat := 0
  /-- CNT_DUMP_CFG words W0 to W4 (EN, NBUF, PERIOD, FIRST, COUNT, BASE); 160; R402; 0 -/
  dumpCfg : List Word := []
  /-- Dump STATE; 2; R408; off -/
  dump : DumpState := .off
  /-- CNT_DUMP_SEQ; 32; R402; 0 -/
  seq : Nat := 0
  /-- CNT_DUMP_HEAD; 32; R404; 0 -/
  head : Nat := 0
  /-- Dumps skipped since the previous dump written; 32; R403; 0 -/
  skipped : Nat := 0
  /-- The dump being written, and whether it has been carried; list; R403; none -/
  buf : Option (List Word) := none
  /-- The dump being written was carried; 1; R404; 0 -/
  carried : Bool := false
  /-- User window EN; 1; R406; 0 -/
  uwEn : Bool := false
  /-- User window slots: mapped counter; 256 x 12; R406; none -/
  uw : Table (Option Nat) := .const none
deriving DecidableEq, Repr

/-- Power states (Table 14-4). -/
inductive PwrState where
  | p0 | p1 | p2 | p3
deriving DecidableEq, Repr

/-- One regulator (R415 to R417). -/
structure RegS where
  /-- PWR_REG_CFG words W0, W1 (Table 14-3); 64; R415; disabled -/
  cfg : List Word := [0, 0x4E2]
  /-- STATUS_WORD of the last poll; 16; R438; 0 -/
  status : BitVec 16 := 0
  /-- VOUT, mV; 16; R438; 0 -/
  vout : Nat := 0
  /-- IOUT, 10 mA; 16; R438; 0 -/
  iout : Nat := 0
  /-- TEMP; 8; R438; 0 -/
  temp : Int := 0
  /-- Ticks since the last poll; 16; R417; 0 -/
  age : Nat := 0
  /-- VOUT_MODE exponent; 5; R416; 0 -/
  expo : Int := 0
  /-- Turned off by OPERATION 0x00; 1; R424; 0 -/
  off : Bool := false
deriving DecidableEq, Repr

/-- Power management (chapter 14). -/
structure PwrS where
  /-- STATE; 2; R430; P0 -/
  st : PwrState := .p0
  /-- CHANGING; 1; R430; 0 -/
  changing : Bool := false
  /-- TARGET; 2; R438; 0 -/
  target : PwrState := .p0
  /-- P1_LINE; 1; R438; 0 -/
  p1Line : Nat := 0
  /-- Step of the entry to P2 that runs next (Table 14-5); 2; R422; none -/
  p2Step : Option Nat := none
  /-- That step is due in this tick; 1; R422; 0 -/
  p2Due : Bool := false
  /-- Leaving P2: STATE reads the new state at the next boundary; 1; R423; 0 -/
  leaving : Bool := false
  /-- Exit from P3 under way (waiting for POWER_GOOD); 1; R425; 0 -/
  p3Exit : Bool := false
  /-- Records of the boot table still to be replayed after P3; 1; R425; 0 -/
  replay : Bool := false
  /-- Regulators REG0 to REG7; 8 records; R415; disabled -/
  reg : Table RegS := .const {}
  /-- V_FUSE code; 8; R438; 0 (fuse, DESIGN CHOICE) -/
  vFuse : Nat := 0
  /-- K_T code; 4; R438; 0 (fuse, DESIGN CHOICE) -/
  kT : Nat := 0
  /-- MARGIN, 5 mV; 4; R430; 0 -/
  margin : Int := 0
  /-- AVS TARGET, mV; 16; R418; 750 -/
  avs : Nat := 750
  /-- VOUT_COMMAND value in force, mV; 16; R418; 750 -/
  vcmd : Nat := 750
  /-- Ticks since the last AVS step; 7; R418; 125 -/
  avsTicks : Nat := 125
  /-- Polls in a row off the commanded value; 5; R418; 0 -/
  avsOff : Nat := 0
  /-- T_HOT, 0.1 degC, none = no supervisor result; 16; R438; 0 -/
  tHot : Option Int := some 0
  /-- Supervisor temperatures of the second: sum and count per channel MON32 to MON36; 5 records; R418; 0 -/
  tSum : Table (Int × Nat) := .const (0, 0)
  /-- Ticks since a complete supervisor set was posted; 16; R419; 0 -/
  supAge : Nat := 0
  /-- A second has ended and the AVS target is to be computed; 1; R418; 0 -/
  avsDue : Bool := false
  /-- SUP_LOST in force; 1; R419; 0 -/
  supLost : Bool := false
  /-- Last usable value and its age in periods per channel MON32 to MON42; 11 records; R419; none -/
  usable : Table (Option (Int × Nat)) := .const none
  /-- Consecutive supervisor results more than 5 % off, MON37 to MON42; 6 x 2; R437; 0 -/
  railOff : Table Nat := .const 0
  /-- Consecutive polls above PWR_LIMIT; 2; R437; 0 -/
  highPolls : Nat := 0
  /-- PWR_POLICY words W0, W1 (Table 14-17); 64; R439; 0x80006E64, 0x398 -/
  policy : List Word := [0x80006E64, 0x398]
  /-- PIN_CFG word; 32; R439; 0 -/
  pin : Word := 0
  /-- PWR_FAULT_0; 16; R438; 0 -/
  fault0 : BitVec 16 := 0
  /-- PWR_FAULT_1; 10; R438; 0 -/
  fault1 : BitVec 10 := 0
  /-- PMB_ALERT_N low; 1; R417; 0 -/
  alert : Bool := false
deriving DecidableEq, Repr

/-- TAP instructions (R432). -/
inductive TapIr where
  | extest | idcode | sample | highz | clamp | devReset | bypass
deriving DecidableEq, Repr

/-- Reset, straps and TAP (chapter 14). -/
structure RstS where
  /-- The internal reset is held; 1; R429; 0 (State.reset is the release) -/
  held : Bool := false
  /-- Rails down; 1; R414; 0 -/
  unpowered : Bool := false
  /-- TEST_MODE: every block except the TAP stays in reset; 1; R431; 0 (strap) -/
  testMode : Bool := false
  /-- TAP instruction register; 8; R432; IDCODE -/
  ir : TapIr := .idcode
  /-- Boundary-scan register; one bit per scanned ball; R432; 0 -/
  bsr : Nat := 0
  /-- Values of the scanned balls captured last; one bit per scanned ball; R432; 0 -/
  captured : Nat := 0
  /-- Boundary-scan outputs drive the balls; 1; R432; 0 -/
  drive : Bool := false
  /-- Scanned outputs in high impedance; 1; R432; 0 -/
  highz : Bool := false
  /-- Data register between TDI and TDO: 0 bypass, 1 IDCODE, 2 boundary; 2; R432; 1 -/
  dr : Nat := 1
  /-- Value that this data register captured and shifts out at TDO; one bit per cell; R8, R432; 0x5321_658B (IDCODE) -/
  tdo : Nat := 0x5321658B
deriving DecidableEq, Repr

/-- The whole device. -/
structure State where
  /-- Commands that wait, first in first out (the block's form). -/
  pending : List Instr := []
  /-- Tick and staged configuration. -/
  tick : TickS := {}
  /-- Line converters, one record per line. -/
  conv : Table ConvS := .const {}
  /-- Line DSP, one record per line. -/
  dsp : Table DspS := .const {}
  /-- Line frame and FEC, one record per line. -/
  frm : Table FrameS := .const {}
  /-- Clients, classifier, flows. -/
  cl : ClientS := {}
  /-- Nutmeg. -/
  nut : NutS := {}
  /-- The Sett. -/
  sett : SettS := {}
  /-- Stored-data protection. -/
  ecc : EccS := {}
  /-- Timing. -/
  tim : TimS := {}
  /-- Marten. -/
  mar : MartenS := {}
  /-- Clove. -/
  clv : CloveS := {}
  /-- Commands, boot and log. -/
  cmd : CmdS := {}
  /-- PCIe function state. -/
  pci : PcieS := {}
  /-- Fault collector. -/
  flt : FltS := {}
  /-- Counters. -/
  cnt : CntS := {}
  /-- Power management. -/
  pwr : PwrS := {}
  /-- Reset and TAP. -/
  rst : RstS := {}
  /-- Everything sent out so far, newest first (the model's own record). -/
  out : List Out := []
  /-- Free values taken so far (the model's own counter, Config.freeNat). -/
  free : Nat := 0
deriving DecidableEq, Repr

/-- The device right after the release of reset that follows power-on, straps at 0: tick 0 (R19, R429). -/
def State.reset : State := {}

/-- Faults of the model. -/
inductive Fault where
  /-- Raised by no command of the table: outside the absolute limits of Table 14-11 no rule binds (R433), and no
  command takes the device there. It would be safe. -/
  | absoluteLimit
deriving DecidableEq, Repr

/-- Refusals of the model. -/
inductive Refusal where
  /-- An arm of exec whose instruction has no meaning yet. Raised by no arm of the finished model. Safe. -/
  | notModelled (mnemonic : String)
deriving DecidableEq, Repr

end Sys2Proof.Machine
end

