-- ==== Sys2Proof/Machine/Operands.lean ====
section
/-! DEFINITION. Bit fields, signed readings and byte orders: the reading of parameter words and packet bytes that every
command shares (R11, R353). -/

namespace Sys2Proof.Machine

/-- Bits msb down to lsb of a number. -/
def bitsOf (n msb lsb : Nat) : Nat := n / 2 ^ lsb % 2 ^ (msb + 1 - lsb)

/-- Field [msb:lsb] of a word. -/
def fld (w : Word) (msb lsb : Nat) : Nat := bitsOf w.toNat msb lsb

/-- Bit i of a word. -/
def flag (w : Word) (i : Nat) : Bool := w.toNat.testBit i

/-- The number of `bits` bits read as two's complement. -/
def signed (bits n : Nat) : Int := if n < 2 ^ (bits - 1) then (n : Int) else (n : Int) - (2 ^ bits : Nat)

/-- Field [msb:lsb] read as two's complement. -/
def sfld (w : Word) (msb lsb : Nat) : Int := signed (msb + 1 - lsb) (fld w msb lsb)

/-- A whole word read as two's complement. -/
def sword (w : Word) : Int := w.toInt

/-- The i-th parameter word, 0 when absent. -/
def wd (ws : List Word) (i : Nat) : Word := ws.getD i 0

/-- An integer as a field of `bits` bits, two's complement, modulo 2^bits. -/
def wrapInt (bits : Nat) (x : Int) : Nat := (x % ((2 ^ bits : Nat) : Int)).toNat

/-- An integer held within limits. -/
def clamp (lo hi x : Int) : Int := max lo (min hi x)

/-- A Boolean as one bit at place i. -/
def bitAt (b : Bool) (i : Nat) : Nat := if b then 2 ^ i else 0

/-- A register word from a number, modulo 2^32. -/
def mkWord (n : Nat) : Word := BitVec.ofNat 32 n

/-- The low and high words of a 64-bit number. -/
def lohi (n : Nat) : List Word := [mkWord n, mkWord (n / 2 ^ 32)]

/-- A 64-bit number from its low and high words. -/
def ofLohi (lo hi : Word) : Nat := lo.toNat + 2 ^ 32 * hi.toNat

/-- The four bytes of a word, lowest first (R11). -/
def wordBytes (w : Word) : List Byte := [w.extractLsb' 0 8, w.extractLsb' 8 8, w.extractLsb' 16 8, w.extractLsb' 24 8]

/-- The bytes of words, in address order. -/
def bytesOf (ws : List Word) : List Byte := ws.flatMap wordBytes

/-- A little-endian number from bytes. -/
def leNat : List Byte → Nat
  | [] => 0
  | b :: bs => b.toNat + 256 * leNat bs

/-- A big-endian number from bytes. -/
def beNat (bs : List Byte) : Nat := bs.foldl (fun n b => 256 * n + b.toNat) 0

/-- A number as k bytes, least significant first. -/
def leBytes : Nat → Nat → List Byte
  | 0, _ => []
  | k + 1, n => BitVec.ofNat 8 n :: leBytes k (n / 256)

/-- A number as k bytes, most significant first. -/
def beBytes (k n : Nat) : List Byte := (leBytes k n).reverse

/-- Words from bytes, little-endian, the last one padded with zero bytes; structural on a word count. -/
def wordsOfN : Nat → List Byte → List Word
  | 0, _ => []
  | k + 1, bs => mkWord (leNat (bs.take 4)) :: wordsOfN k (bs.drop 4)

/-- All the words of a byte list. -/
def wordsOf (bs : List Byte) : List Word := wordsOfN ((bs.length + 3) / 4) bs

/-- No bit of the word outside the mask of its fields: reserved fields are 0. -/
def onlyBits (w : Word) (mask : Nat) : Bool := w &&& ~~~(mkWord mask) == 0

/-- The number of ones among the low `n` bits. -/
def popcount (n : Nat) (x : Nat) : Nat := (List.range n).countP x.testBit

/-- The index of the lowest one among the low `n` bits. -/
def lowestBit (n : Nat) (x : Nat) : Option Nat := (List.range n).find? x.testBit

/-- The numbers whose bits are one among the low `n`. -/
def onesOf (n : Nat) (x : Nat) : List Nat := (List.range n).filter x.testBit

/-- Quotient of integers rounded to the nearest, halves away from zero. -/
def roundDiv (a : Int) (b : Nat) : Int :=
  if b = 0 then 0 else if 0 ≤ a then (2 * a + b) / (2 * b : Nat) else -((2 * -a + b) / (2 * b : Nat))

/-- One step of the CRC-32 of R122: polynomial 0x04C1_1DB7, msb first. -/
def crcShift (c : Nat) : Nat := if c < 2 ^ 31 then 2 * c else (2 * c % 2 ^ 32) ^^^ 0x04C11DB7

/-- One byte into the CRC register. -/
def crcByte (c : Nat) (b : Byte) : Nat :=
  crcShift (crcShift (crcShift (crcShift (crcShift (crcShift (crcShift (crcShift (c ^^^ (b.toNat * 2 ^ 24)))))))))

/-- The CRC-32 of R122 over bytes in order, each msb first: starts at all ones, result complemented. -/
def crc32 (bs : List Byte) : Nat := bs.foldl crcByte 0xFFFFFFFF ^^^ 0xFFFFFFFF

/-- The low n bits of a number in the reverse order. -/
def revBits (n x : Nat) : Nat := ((List.range n).map fun i => if x.testBit i then 2 ^ (n - 1 - i) else 0).sum

/-- The client FCS over a frame from its destination address on (R34): the CRC-32 of IEEE 802.3 (Table 0-3), which takes each
byte least significant bit first. PRESUMED (IEEE 802.3; the manual names the standard, log entry 52). -/
def fcs32 (bs : List Byte) : Nat := revBits 32 (crc32 (bs.map fun b => BitVec.ofNat 8 (revBits 8 b.toNat)))

/-- A time in 2^-16 ns as the 96-bit field of 48-bit seconds, 32-bit ns and a 16-bit fraction (R289). -/
def timeField (t : Nat) : Nat := t / 65536000000000 % 2 ^ 48 * 2 ^ 48 + t % 65536000000000

/-- The time in 2^-16 ns that such a field says. -/
def fieldTime (f : Nat) : Nat := f / 2 ^ 48 % 2 ^ 48 * 65536000000000 + f % 2 ^ 48

/-- Set or clear bit i of a bit vector. -/
def putBit {n : Nat} (x : BitVec n) (i : Nat) (b : Bool) : BitVec n :=
  let m : BitVec n := BitVec.ofNat n (2 ^ i)
  if b then x ||| m else x &&& ~~~m

/-- Insert into a list that rises in a key. -/
def insertBy {α : Type} (key : α → Nat) (a : α) : List α → List α
  | [] => [a]
  | b :: bs => if key a ≤ key b then a :: b :: bs else b :: insertBy key a bs

/-- A list in rising order of a key. -/
def sortBy {α : Type} (key : α → Nat) (xs : List α) : List α := xs.foldr (insertBy key) []

end Sys2Proof.Machine

namespace Sys2Proof

/-- The ingress MAC finds the frame's FCS right (R34). -/
def EthFrame.fcsOk (f : EthFrame) : Bool := f.fcs.toNat == Machine.fcs32 f.data

end Sys2Proof
end

