-- ==== Sys2Proof/Machine/Bch.lean ====
section
/-! DEFINITION. The outer code of chapter 4 (R125, R132): the BCH component codes, the product array and its decoder. The decoder
of a linear code acts on the errors alone, so a received block is given by the places of its wrong bits. -/

namespace Sys2Proof.Machine

/-! ### The component codes (R125) -/

/-- One step of the parity register: division by g(x), of degree 20, the product of the minimal polynomials of a and a^3 in GF(2^10)
with the primitive polynomial x^10 + x^3 + 1. PRESUMED (the manual names the narrow-sense BCH code of length 1,023 and not its field,
log entry 68). -/
def bchShift (r : Nat) (b : Bool) : Nat :=
  let top := decide (2 ^ 19 ≤ r) != b
  let r := 2 * r % 2 ^ 20
  if top then r ^^^ 0x1877 else r

/-- The 20 parity bits that follow a systematic codeword's information bits, first bit first. -/
def bchParity (bits : List Bool) : List Bool :=
  let r := bits.foldl bchShift 0
  (List.range 20).map fun i => r.testBit (19 - i)

/-- A row or a column with its parity bits. -/
def bchEncode (bits : List Bool) : List Bool := bits ++ bchParity bits

/-- The bits of bytes in order, each msb first. -/
def bitsOfBytes (bs : List Byte) : List Bool := bs.flatMap fun b => (List.range 8).map fun i => b.toNat.testBit (7 - i)

/-- The information rows of a block (R125): four rows of 512 bits for each cell position. -/
def infoArray (cells : List (List Byte)) : List (List Bool) :=
  cells.flatMap fun c => (List.range 4).map fun k => bitsOfBytes ((c.drop (64 * k)).take 64)

/-- The column parity rows of an array of information rows (R125). -/
def columnParity (rows : List (List Bool)) : List (List Bool) :=
  let cols := (List.range 512).map fun j => bchParity (rows.map fun r => r.getD j false)
  (List.range 20).map fun i => cols.map fun c => c.getD i false

/-- A block as it is serialised (R125, R126): its information rows and the column parity rows, each with its row parity. A short
block has fewer information rows. -/
def outerBlock (cells : List (List Byte)) : List Bool :=
  let rows := infoArray cells
  (rows ++ columnParity rows).flatMap bchEncode

/-! ### Decoding (R132) -/

/-- Product in GF(2^10). -/
def gfMul10 (a b : Nat) : Nat :=
  (List.range 10).foldr (fun i r => let d := 2 * r; (if d < 1024 then d else d ^^^ 0x409) ^^^ (if b.testBit i then a else 0)) 0

/-- The powers of a from a^0 on. -/
def gfPowers : Nat → Nat → List Nat
  | 0, _ => []
  | n + 1, x => x :: gfPowers n (gfMul10 x 2)

/-- The exponent of a nonzero element among the first n powers. -/
def gfLog (n x : Nat) : Option Nat := (gfPowers n 1).findIdx? (· == x)

/-- Power of an element by repeated product. -/
def gfCube (x : Nat) : Nat := gfMul10 x (gfMul10 x x)

/-- The syndromes of a pattern of wrong bits in a codeword of n bits: bit i is the coefficient of x^(n-1-i). -/
def bchSyndromes (n : Nat) (errs : List Nat) : Nat × Nat :=
  let ps := gfPowers n 1
  errs.foldl (fun s i => let x := ps.getD (n - 1 - i) 0; (s.1 ^^^ x, s.2 ^^^ gfCube x)) (0, 0)

/-- The bits that the two-error-correcting decoder inverts in a codeword of n bits with these wrong bits; none where it finds no
pattern of at most two errors within the shortened code. -/
def bchFlips (n : Nat) (errs : List Nat) : Option (List Nat) :=
  let s := bchSyndromes n errs
  if s.1 = 0 ∧ s.2 = 0 then some []
  else if s.2 = gfCube s.1 then (gfLog n s.1).map fun e => [n - 1 - e]
  else
    let ps := gfPowers n 1
    ((List.range n).findSome? fun e =>
      let x := ps.getD e 0
      let y := s.1 ^^^ x
      if y != 0 && y != x && (gfCube x ^^^ gfCube y) == s.2 then (ps.findIdx? (· == y)).map fun f => [n - 1 - e, n - 1 - f] else none)

/-- Wrong bits of a block after some are inverted. -/
def toggle (errs flips : List (Nat × Nat)) : List (Nat × Nat) :=
  (errs.filter fun e => !flips.contains e) ++ flips.filter fun e => !errs.contains e

/-- All the rows of a block decoded: the wrong bits left and the number of bits inverted. -/
def decodeRows (rows : Nat) (a : List (Nat × Nat) × Nat) : List (Nat × Nat) × Nat :=
  ((List.range rows).filter fun r => a.1.any fun e => e.1 == r).foldl (fun a r =>
    match bchFlips 532 ((a.1.filter fun e => e.1 == r).map (·.2)) with
    | some fl => (toggle a.1 (fl.map fun c => (r, c)), a.2 + fl.length)
    | none => a) a

/-- All the columns of a block decoded. -/
def decodeColumns (rows : Nat) (a : List (Nat × Nat) × Nat) : List (Nat × Nat) × Nat :=
  ((List.range 532).filter fun c => a.1.any fun e => e.2 == c).foldl (fun a c =>
    match bchFlips rows ((a.1.filter fun e => e.2 == c).map (·.1)) with
    | some fl => (toggle a.1 (fl.map fun r => (r, c)), a.2 + fl.length)
    | none => a) a

/-- Four iterations on a block of so many rows, each all rows and then all columns (R132). -/
def decodeBlock (rows : Nat) (errs : List (Nat × Nat)) : List (Nat × Nat) × Nat :=
  (List.range 4).foldl (fun a _ => decodeColumns rows (decodeRows rows a)) (errs, 0)

/-- The rows whose syndrome stays nonzero. -/
def badRows (rows : Nat) (errs : List (Nat × Nat)) : List Nat :=
  ((List.range rows).filter fun r => errs.any fun e => e.1 == r).filter fun r =>
    bchSyndromes 532 ((errs.filter fun e => e.1 == r).map (·.2)) != (0, 0)

/-- Some column syndrome stays nonzero. -/
def badColumn (rows : Nat) (errs : List (Nat × Nat)) : Bool :=
  ((List.range 532).filter fun c => errs.any fun e => e.2 == c).any fun c =>
    bchSyndromes rows ((errs.filter fun e => e.2 == c).map (·.1)) != (0, 0)

/-! ### Q_DB (R137) -/

/-- exp of a number of either sign, both scaled by 2^128: n terms of the series. -/
def expScaled (n : Nat) (x : Int) : Int :=
  ((List.range n).foldl (fun (a : Int × Int) i => let t := a.2 * x / (2 ^ 128 * (i + 1 : Nat)); (a.1 + t, t)) ((2 ^ 128, 2 ^ 128) : Int × Int)).1

/-- The bit error ratio, scaled by 2^128, at a Q of d two-hundredths of a dB: erfc(Q / sqrt 2) / 2 by the series of erf. The
constants are ln 10 / 4000 and 1 / sqrt(2 pi), both scaled by 2^128. -/
def berAt (d : Int) : Int :=
  let q := expScaled 120 (d * 391764552740441533402669241351723684 / 2)
  let q2 := q * q / 2 ^ 128
  let sum := (List.range 260).foldl (fun (a : Int × Int) n =>
    (a.1 + a.2 / (2 * n + 1 : Nat), -(a.2 * q2 / (2 ^ 128 * (2 * (n + 1) : Nat))))) ((0, q) : Int × Int)
  2 ^ 127 - sum.1 * 135753023439836232162591007175785461951 / 2 ^ 128

/-- The value of Q_DB where the formula of R137 gives one: hundredths of a dB, to the nearest (DESIGN CHOICE, log entry 69: no rounding
is stated), found by halving between -40 and 20 dB. -/
def qSearch (pre bits : Nat) : Int :=
  ((List.range 13).foldl (fun (a : Int × Int) _ =>
    let m := (a.1 + a.2) / 2
    if (pre * 2 ^ 128 : Nat) < berAt (2 * m + 1) * bits then (m + 1, a.2) else (a.1, m)) ((-4000, 2000) : Int × Int)).1

/-- Q_DB of a window (R137). Where at least half the bits are wrong the formula has no value: a free one of the counts (log entry 69). -/
def qDbOf (pre bits : Nat) : Nat :=
  if pre = 0 then 0xFFFF
  else if bits ≤ 2 * pre then Config.qDbOpen pre bits % 2 ^ 16
  else wrapInt 16 (qSearch pre bits)

end Sys2Proof.Machine
end

