-- ==== Sys2Proof/Machine/Ops.lean ====
section
/-! DEFINITION. The operations that every block's meanings share: reading and writing the per-line and per-unit records,
time, interrupts, counters, log entries, messages, fault signals, staging, and the running of a command with its
reply. -/

namespace Sys2Proof.Machine

/-! ### Records of a line or a unit -/

/-- The converters of line l. -/
def State.cv (s : State) (l : Nat) : ConvS := s.conv.get l
/-- The line DSP of line l. -/
def State.ds (s : State) (l : Nat) : DspS := s.dsp.get l
/-- The framer of line l. -/
def State.fr (s : State) (l : Nat) : FrameS := s.frm.get l
/-- Marten on line l. -/
def State.ml (s : State) (l : Nat) : MartenL := s.mar.line.get l
/-- Lane i. -/
def State.lane (s : State) (i : Nat) : LaneS := s.cl.lane.get i
/-- Port p. -/
def State.port (s : State) (p : Nat) : PortS := s.cl.port.get p
/-- Security association n. -/
def State.sa (s : State) (n : Nat) : SaS := s.nut.sa.get n
/-- The merge state of flow f. -/
def State.mg (s : State) (f : Nat) : MergeS := s.sett.merge.get f
/-- Ring r. -/
def State.ring (s : State) (r : Nat) : RingS := s.cmd.ring.get r
/-- Reference k. -/
def State.ref (s : State) (k : Nat) : RefS := s.tim.ref.get k

/-- Rewrite the converters of line l. -/
def State.onConv (s : State) (l : Nat) (f : ConvS → ConvS) : State := { s with conv := s.conv.upd l f }
/-- Rewrite the line DSP of line l. -/
def State.onDsp (s : State) (l : Nat) (f : DspS → DspS) : State := { s with dsp := s.dsp.upd l f }
/-- Rewrite the framer of line l. -/
def State.onFrm (s : State) (l : Nat) (f : FrameS → FrameS) : State := { s with frm := s.frm.upd l f }
/-- Rewrite Marten on line l. -/
def State.onMar (s : State) (l : Nat) (f : MartenL → MartenL) : State :=
  { s with mar := { s.mar with line := s.mar.line.upd l f } }
/-- Rewrite one ADC. -/
def State.onAdc (s : State) (l a : Nat) (f : AdcS → AdcS) : State :=
  s.onConv l fun c => { c with adc := c.adc.upd a f }
/-- Rewrite one subcarrier. -/
def State.onSc (s : State) (l k : Nat) (f : ScS → ScS) : State :=
  s.onDsp l fun d => { d with sc := d.sc.upd k f }
/-- Rewrite one lane. -/
def State.onLane (s : State) (i : Nat) (f : LaneS → LaneS) : State :=
  { s with cl := { s.cl with lane := s.cl.lane.upd i f } }
/-- Rewrite one port. -/
def State.onPort (s : State) (p : Nat) (f : PortS → PortS) : State :=
  { s with cl := { s.cl with port := s.cl.port.upd p f } }
/-- Rewrite the cell stream of one flow. -/
def State.onFlow (s : State) (n : Nat) (f : FlowS → FlowS) : State :=
  { s with cl := { s.cl with stream := s.cl.stream.upd n f } }
/-- Rewrite one security association. -/
def State.onSa (s : State) (n : Nat) (f : SaS → SaS) : State := { s with nut := { s.nut with sa := s.nut.sa.upd n f } }
/-- Rewrite the merge of one flow. -/
def State.onMg (s : State) (n : Nat) (f : MergeS → MergeS) : State :=
  { s with sett := { s.sett with merge := s.sett.merge.upd n f } }
/-- Rewrite one protected target. -/
def State.onTgt (s : State) (t : Nat) (f : EccT → EccT) : State := { s with ecc := { s.ecc with tgt := s.ecc.tgt.upd t f } }
/-- Rewrite one reference. -/
def State.onRef (s : State) (k : Nat) (f : RefS → RefS) : State := { s with tim := { s.tim with ref := s.tim.ref.upd k f } }
/-- Rewrite one output. -/
def State.onOut (s : State) (k : Nat) (f : OutS → OutS) : State := { s with tim := { s.tim with out := s.tim.out.upd k f } }
/-- Rewrite one chain link. -/
def State.onLink (s : State) (b : Bool) (f : LinkS → LinkS) : State :=
  { s with tim := if b then { s.tim with linkB := f s.tim.linkB } else { s.tim with linkA := f s.tim.linkA } }
/-- One chain link. -/
def State.link (s : State) (b : Bool) : LinkS := if b then s.tim.linkB else s.tim.linkA
/-- Rewrite one detector. -/
def State.onDet (s : State) (k : Nat) (f : DetS → DetS) : State := { s with clv := { s.clv with det := s.clv.det.upd k f } }
/-- Rewrite one bias output. -/
def State.onBias (s : State) (k : Nat) (f : BiasS → BiasS) : State :=
  { s with clv := { s.clv with bias := s.clv.bias.upd k f } }
/-- Rewrite one ring. -/
def State.onRing (s : State) (r : Nat) (f : RingS → RingS) : State :=
  { s with cmd := { s.cmd with ring := s.cmd.ring.upd r f } }
/-- Rewrite one regulator. -/
def State.onReg (s : State) (r : Nat) (f : RegS → RegS) : State := { s with pwr := { s.pwr with reg := s.pwr.reg.upd r f } }

/-- Run one rewriting per element of a list, in order. -/
def State.each {α : Type} (s : State) (xs : List α) (f : State → α → State) : State := xs.foldl f s

/-- Rewrite the state when a condition holds. -/
def State.when (s : State) (c : Bool) (f : State → State) : State := if c then f s else s

/-! ### Conditions of the whole device -/

/-- PART of GLOBAL_DEVID (Table 0-4). -/
def devPart : Nat := 0x3216
/-- STEP of GLOBAL_DEVID. -/
def devStep : Nat := 2
/-- METAL of GLOBAL_DEVID. -/
def devMetal : Nat := 1

/-- The digital blocks run: the internal reset is released, the rails are up, TEST_MODE is 0 (R414, R429, R431). -/
def State.live (s : State) : Bool := !s.rst.held && !s.rst.unpowered && !s.rst.testMode

/-- In P3 (R424). -/
def State.inP3 (s : State) : Bool := s.pwr.st == .p3 || s.pwr.p3Exit

/-- The blocks that P3 powers down work (R424). -/
def State.up (s : State) : Bool := s.live && !s.inP3

/-- Firmware runs: STATE is RUN_NOCFG or RUN (R351). -/
def State.fwRuns (s : State) : Bool := s.live && (s.cmd.boot == .runNoCfg || s.cmd.boot == .run)

/-! ### Time (R18, R41) -/

/-- One tick of 8.000 us in units of 2^-16 ns. -/
def tickUnits : Nat := 524288000

/-- One nanosecond, one second in those units. -/
def nsUnits : Nat := 65536
/-- One second in units of 2^-16 ns. -/
def secUnits : Nat := 65536000000000

/-- The time of day now: that of the boundary and what a stamped event has added (R41). -/
def State.now (s : State) : Nat := s.tick.tod + s.tick.sub

/-- The present tick's 32 low bits, as replies carry them (Table 12-5). -/
def State.tick32 (s : State) : Nat := s.tick.num % 2 ^ 32

/-- The tick under way begins a TAI second (R18). -/
def State.atSecond (s : State) : Bool := s.tick.num % 125000 == 0

/-- A stamped event moves the resolution of time within the tick forward (R41). -/
def State.atSub (s : State) (sub : Nat) : State := { s with tick := { s.tick with sub := max s.tick.sub (min sub (tickUnits - 1)) } }

/-- A value that the manual leaves open: the next free value, and the state that has taken it. -/
def State.takeFree (s : State) : Nat × State := (Config.freeNat s.free, { s with free := s.free + 1 })

/-- Something leaves the device. -/
def State.emit (s : State) (o : Out) : State := { s with out := o :: s.out }

/-! ### Interrupts (R346) -/

/-- Raise a vector: sent when unmasked, pending when masked. -/
def State.raiseVec (s : State) (pf1 : Bool) (v : Nat) : State :=
  if pf1 then
    if s.pci.mask1.getLsbD v then { s with pci := { s.pci with pend1 := putBit s.pci.pend1 v true } }
    else s.emit (.irq true v)
  else
    if s.pci.mask0.getLsbD v then { s with pci := { s.pci with pend0 := putBit s.pci.pend0 v true } }
    else s.emit (.irq false v)

/-! ### Counters (R396 to R401) -/

/-- MODE of a counter configuration word. -/
def cntMode (w : Word) : Nat := fld w 29 28

/-- n is the high half of a chain in force (R396): its own configuration is ignored. -/
def cntIsHigh (t : Table CntC) (n : Nat) : Bool :=
  n % 2 == 1 && flag (t.get (n - 1)).cfg 31 && cntMode (t.get (n - 1)).cfg == 1

/-- The configuration word selects the event (R396). -/
def cntTakes (w : Word) (blk idx qual : Nat) : Bool :=
  fld w 11 8 == blk && fld w 7 0 == idx && (flag w 27 || fld w 24 12 == qual)

/-- Add to a 48-bit value: the wrapped value and whether it wrapped (R398). -/
def add48 (v n : Nat) : Nat × Bool := ((v + n) % 2 ^ 48, decide (2 ^ 48 ≤ v + n))

/-- An increment of counter k; the flag says that OVF has been set in k or in its chain (R397, R398). -/
def cntInc (t : Table CntC) (k n : Nat) : Table CntC × Bool :=
  let c := t.get k
  match cntMode c.cfg with
  | 1 =>
    let r := add48 c.val n
    if flag c.cfg 31 && k % 2 == 0 then
      let t := t.set k { c with val := r.1 }
      if r.2 then
        let h := t.get (k + 1)
        let q := add48 h.val 1
        if q.2 then ((t.set (k + 1) { h with val := q.1, ovf := true }).upd k fun c => { c with ovf := true }, true)
        else (t.set (k + 1) { h with val := q.1 }, false)
      else (t, false)
    else (t.set k { c with val := r.1, ovf := c.ovf || r.2 }, r.2)
  | 2 => (t.set k { c with val := max c.val n }, false)
  | _ => (t, false)

/-- Counter k is mapped in the enabled user window, itself or through the other half of its chain (R407). -/
def cntMapped (s : State) (k : Nat) : Bool :=
  s.cnt.uwEn && s.cnt.uw.ents.any fun e => e.2 == some k || (k % 2 == 0 && e.2 == some (k + 1) && flag (s.cnt.cnt.get k).cfg 31)

/-- An event of the counter map happens n times (Table 13-9): every counter that takes it is incremented. -/
def State.count (s : State) (blk idx qual n : Nat) : State :=
  s.each (s.cnt.cnt.keys.filter fun k => cntTakes (s.cnt.cnt.get k).cfg blk idx qual && !cntIsHigh s.cnt.cnt k) fun s k =>
    let r := cntInc s.cnt.cnt k n
    let s' := { s with cnt := { s.cnt with cnt := r.1 } }
    s'.when (r.2 && cntMapped s' k) fun s => s.raiseVec true 1

/-! ### The event log (R376) -/

/-- An entry awaiting its SRAM write, stamped with the time of the occurrence. -/
def State.log (s : State) (e : LogEnt) : State :=
  { s with cmd := { s.cmd with logQ := s.cmd.logQ ++ [{ e with time := s.now, tick := s.tick.num }] } }

/-! ### Fault signals and messages (R381, R383) -/

/-- A block signals a fault source: the raise waits for the collector (row FAULT_RAISE). -/
def State.signal (s : State) (fs : Nat) : State := { s with flt := { s.flt with raised := s.flt.raised ++ [fs] } }

/-- A unit sends a messenger message: it waits for the collector (row MESSENGER_MESSAGE). -/
def State.send (s : State) (m : Fin 8) (kind addr data : Nat) : State :=
  { s with flt := { s.flt with sent := s.flt.sent ++ [{ m := m, kind := BitVec.ofNat 8 kind, addr := BitVec.ofNat 48 addr, data := BitVec.ofNat 32 data }] } }

/-! ### Staging (R26, R27) -/

/-- The item is already staged. While the boot table is being taken its records follow one another (R372). -/
def State.isStaged (s : State) (it : ItemKind) (idx : Nat) : Bool :=
  !s.cmd.accepting && s.tick.staged.any fun g => g.item == it && g.idx == idx

/-- Stage one operation on an item. -/
def State.stage (s : State) (it : ItemKind) (idx op : Nat) (ws : List Word) : State :=
  { s with tick := { s.tick with staged := s.tick.staged ++ [{ item := it, idx := idx, op := op, ws := ws }] } }

/-! ### Commands (R353 to R361) -/

/-- What a command's own rules make of it. -/
inductive CmdRes where
  | fail (st : Status) (arg : Nat)
  | done (s : State) (data : List Word)
  | accept (s : State) (kind : AsyncKind)
  | full (s : State) (st : Status) (repeated : Bool) (data : List Word)
  /-- Done, with data that the capture of a lane brings in the next tick (R148). -/
  | capture (s : State) (lane : Nat)

/-- The status code of Table 12-6. -/
def Status.code : Status → Nat
  | .ok => 0 | .busy => 1 | .badArg => 2 | .notReady => 3 | .denied => 4 | .noResource => 5 | .timeout => 6
  | .unsupported => 7 | .faulted => 8

/-- Require a condition, or answer a status; word i is the offending one for BAD_ARG (R353). -/
def need (ok : Bool) (st : Status) (i : Nat) (k : CmdRes) : CmdRes := if ok then k else .fail st (if st = .badArg then 4 * i else 0)

/-- Require exactly n parameter words. -/
def needLen (ws : List Word) (n : Nat) (k : CmdRes) : CmdRes := need (ws.length == n) .badArg (min ws.length n) k

/-- Require that an item is not staged already, else BUSY (R27). -/
def needFree (s : State) (it : ItemKind) (idx : Nat) (k : CmdRes) : CmdRes := need (!s.isStaged it idx) .busy 0 k

/-- Stage one item, or BUSY: the common end of a configuration command. -/
def stageOne (s : State) (it : ItemKind) (idx op : Nat) (ws : List Word) : CmdRes :=
  needFree s it idx (.done (s.stage it idx op ws) [])

/-- The opcode belongs to family f (Table 12-7). -/
def inFamily (op f : Nat) : Bool := op / 256 == f

/-- Checks that stand before the command's own: acceptance of the boot table (R356) and P3 (R424). -/
def gate (s : State) (op : Nat) : Option Status :=
  if !s.cmd.accepted && !s.cmd.accepting && !inFamily op 0 then some .busy
  else if s.inP3 && !(inFamily op 0 || inFamily op 9 || inFamily op 0xB) then some .busy
  else none

/-- A command's reply before the ring gives it its phase (Table 12-5). -/
def mkReply (s : State) (op : Nat) (h : CmdHdr) (st : Status) (arg : Nat) (data : List Word) : Reply :=
  { opcode := op, tag := h.tag, status := st, srcDev := s.cmd.id, tick := s.tick32, arg := arg, data := data }

/-- The checks of R359 that an asynchronous command adds: its tag, then room in the result store. -/
def asyncCheck (s : State) (h : CmdHdr) : Option Status :=
  if s.cmd.store.any fun e => e.ring == h.ring.val && e.tag == h.tag then some .badArg
  else if 64 ≤ s.cmd.store.length then some .noResource
  else none

/-- Take an entry of the result store. -/
def State.hold (s : State) (op : Nat) (h : CmdHdr) (kind : AsyncKind) (data : List Word) : State :=
  { s with cmd := { s.cmd with store := s.cmd.store ++ [{ ring := h.ring.val, tag := h.tag, kind := kind, final := mkReply s op h .ok 0 data }] } }

/-- The audit entry of a committed command (R376, Table 12-15). -/
def State.audit (s : State) (op : Nat) (h : CmdHdr) (st : Status) : State :=
  s.when (flag s.cmd.logCfg 1 && !s.cmd.accepting) fun s =>
    s.log { cls := 4, fw := true, code := op,
            data := [mkWord (2 ^ 16 * h.ring.val + h.tag.toNat), mkWord st.code, 0] }

/-- A command's outcome and the state it leaves: the reply of R353, with the asynchronous checks of R359 where the
header or the command asks for them. -/
def finish (op : Nat) (h : CmdHdr) (s : State) : CmdRes → Reply × State
  | .fail st arg => (mkReply s op h st arg [], s)
  | .full s' st rep data => (let r := mkReply s op h st 0 data; { r with repeated := rep }, s')
  | .done s' data =>
    if h.async then
      match asyncCheck s h with
      | some st => (mkReply s op h st 0 [], s)
      | none => ({ mkReply s op h .ok 0 [] with accepted := true }, (s'.hold op h .plain data).audit op h .ok)
    else (mkReply s op h .ok 0 data, s'.audit op h .ok)
  | .capture s' lane =>
    let wait (r : Reply) : Reply := { r with cap := some (lane, 2) }
    if h.async then
      match asyncCheck s h with
      | some st => (mkReply s op h st 0 [], s)
      | none =>
        let s' := s'.hold op h .plain []
        let e := s'.cmd.store.map fun e => if e.ring == h.ring.val && e.tag == h.tag then { e with final := wait e.final } else e
        ({ mkReply s op h .ok 0 [] with accepted := true }, State.audit { s' with cmd := { s'.cmd with store := e } } op h .ok)
    else (wait (mkReply s op h .ok 0 []), s'.audit op h .ok)
  | .accept s' kind =>
    match asyncCheck s h with
    | some st => (mkReply s op h st 0 [], s)
    | none => ({ mkReply s op h .ok 0 [] with accepted := true }, (s'.hold op h kind []).audit op h .ok)

/-- A command as firmware executes it: the gates of R356 and R424, its own rules, its reply. -/
def command (op : Nat) (f : CmdHdr → List Word → State → CmdRes) (h : CmdHdr) (ws : List Word) (s : State) : Reply × State :=
  match gate s op with
  | some st => (mkReply s op h st 0 [], s)
  | none => finish op h s (f h ws s)

/-- The effect of a ring command's row: executed when firmware runs, its reply kept as the last one. While firmware
does not run nothing fetches it and nothing changes (R351). -/
def runCmd (op : Nat) (f : CmdHdr → List Word → State → CmdRes) (h : CmdHdr) (ws : List Word) (s : State) : State :=
  if s.fwRuns then
    let r := command op f h ws s
    { r.2 with cmd := { r.2.cmd with last := some r.1 } }
  else s

end Sys2Proof.Machine
end

