-- ==== Sys2Proof/Machine/Flags.lean ====
section
/-! DEFINITION. Setting a bit of a block's fault register signals the fault source that Table 13-1 maps it to (R381): one
operation per register. -/

namespace Sys2Proof.Machine

/-- L_CONV_FAULT bit b of line l (R74): FS16 or FS48 onward. -/
def State.convFault (s : State) (l b : Nat) : State :=
  (s.onConv l fun c => { c with fault := putBit c.fault b true }).signal (16 + 32 * l + b)

/-- L_DSP_FAULT bit b of line l (R115): FS22 or FS54 onward. -/
def State.dspFault (s : State) (l b : Nat) : State :=
  (s.onDsp l fun c => { c with fault := putBit c.fault b true }).signal (22 + 32 * l + b)

/-- L_FR_FAULT bit b of line l (R138): FS28 or FS60 onward. -/
def State.frFault (s : State) (l b : Nat) : State :=
  (s.onFrm l fun c => { c with fault := putBit c.fault b true }).signal (28 + 32 * l + b)

/-- CL_LANE_LOS bit i (R172): FS80 onward. -/
def State.laneLosFault (s : State) (i : Nat) : State :=
  State.signal { s with cl := { s.cl with laneLos := putBit s.cl.laneLos i true } } (80 + i)

/-- CL_LANE_ADAPT bit i (R172): FS98 onward. -/
def State.laneAdaptFault (s : State) (i : Nat) : State :=
  State.signal { s with cl := { s.cl with laneAdapt := putBit s.cl.laneAdapt i true } } (98 + i)

/-- CL_PORT_FAULT bit b (R172): FS116 onward. -/
def State.portFault (s : State) (b : Nat) : State :=
  State.signal { s with cl := { s.cl with portFault := putBit s.cl.portFault b true } } (116 + b)

/-- NUT_FAULT bit b (R205): FS144 onward. -/
def State.nutFault (s : State) (b : Nat) : State :=
  State.signal { s with nut := { s.nut with fault := putBit s.nut.fault b true } } (144 + b)

/-- SETT_FAULT bit b (R236): FS160 onward. -/
def State.settFault (s : State) (b : Nat) : State :=
  State.signal { s with sett := { s.sett with fault := putBit s.sett.fault b true } } (160 + b)

/-- ECC_FAULT bit b (R253): FS176 onward. -/
def State.eccFault (s : State) (b : Nat) : State :=
  State.signal { s with ecc := { s.ecc with fault := putBit s.ecc.fault b true } } (176 + b)

/-- TIM_FAULT bit b (R285): FS192 onward. -/
def State.timFault (s : State) (b : Nat) : State :=
  State.signal { s with tim := { s.tim with fault := putBit s.tim.fault b true } } (192 + b)

/-- MARTEN_FAULT bit b (R315): FS208 onward. -/
def State.marFault (s : State) (b : Nat) : State :=
  State.signal { s with mar := { s.mar with fault := putBit s.mar.fault b true } } (208 + b)

/-- CLOVE_FAULT bit b (R343): FS224 onward. -/
def State.clvFault (s : State) (b : Nat) : State :=
  State.signal { s with clv := { s.clv with fault := putBit s.clv.fault b true } } (224 + b)

/-- An internal event that may trigger Clove's injected sequence has come (Table 11-5). -/
def State.trigger (s : State) (b : Nat) : State := { s with clv := { s.clv with trig := putBit s.clv.trig b true } }

/-- PWR_FAULT_0 bit b (R438): FS240 onward. -/
def State.pwrFault0 (s : State) (b : Nat) : State :=
  State.signal { s with pwr := { s.pwr with fault0 := putBit s.pwr.fault0 b true } } (240 + b)

/-- PWR_FAULT_1 bit b (R438): FS256 onward. -/
def State.pwrFault1 (s : State) (b : Nat) : State :=
  State.signal { s with pwr := { s.pwr with fault1 := putBit s.pwr.fault1 b true } } (256 + b)

/-- Unit u carries in this tick (R30): its sticky bit, its counter, and its place among the tick's carries. -/
def State.carry (s : State) (u : Nat) : State :=
  State.count { s with tick := { s.tick with carry := putBit s.tick.carry u true, carryRun := s.tick.carryRun.upd u (· + 1) } } 0 0 u 1

end Sys2Proof.Machine
end

