-- ==== Sys2Proof/Machine/ClientPhy.lean ====
section
/-! DEFINITION. What a host lane sends and decides (chapter 5): the Gray map, the precoder, polarity, the transmit taps, the patterns of raw
mode and its loopbacks, and the RS(544,514) code of the PCS. -/

namespace Sys2Proof.Machine

/-! ### Symbols (R141, R143, R144) -/

/-- The level of a PAM4 symbol by its two bits, msb first (R141). -/
def grayLevel (a b : Bool) : Nat := if a then (if b then 2 else 3) else (if b then 1 else 0)

/-- The two bits of a level. -/
def grayBits (l : Nat) : List Bool := [decide (2 ≤ l), l == 1 || l == 2]

/-- The 1/(1+D) mod 4 precoder after a symbol sent before (R144). -/
def precode : Nat → List Nat → List Nat
  | _, [] => []
  | d, x :: xs => let y := (x + 3 * d) % 4; y :: precode y xs

/-- Its inverse, (1+D) mod 4 (R144). -/
def unprecode : Nat → List Nat → List Nat
  | _, [] => []
  | d, y :: ys => (y + d) % 4 :: unprecode y ys

/-- Inverted polarity turns each level over (Table 5-9). -/
def polarity (inv : Bool) (ls : List Nat) : List Nat := if inv then ls.map (3 - ·) else ls

/-- The taps c(-1), c(0), c(+1) of a lane's transmitter in 1/64 of the peak swing (R143). -/
def laneTaps (w : Word) : List Int := [-(fld w 27 23 : Int), 64 - fld w 27 23 - fld w 22 18, -(fld w 22 18 : Int)]

/-- The peak differential swing in mVppd (R143). -/
def laneSwing (w : Word) : Nat := 400 + 50 * fld w 31 28

/-! ### The patterns of raw mode (R147) -/

/-- A register after n steps. -/
def stepped (f : Nat → Nat) : Nat → Nat → Nat
  | 0, r => r
  | n + 1, r => f (stepped f n r)

/-- One step of the PRBS13 generator 1 + x + x^2 + x^12 + x^13. PRESUMED (IEEE 802.3 defines PRBS13Q; log entry 72). -/
def prbs13 (r : Nat) : Nat :=
  2 * r % 2 ^ 13 + bitAt (((r.testBit 0 != r.testBit 1) != r.testBit 11) != r.testBit 12) 0

/-- One step of the PRBS31 generator 1 + x^28 + x^31. PRESUMED (IEEE 802.3; log entry 72). -/
def prbs31 (r : Nat) : Nat := 2 * r % 2 ^ 31 + bitAt (r.testBit 27 != r.testBit 30) 0

/-- Symbol n of the pattern of a code of Table 5-10, from the pattern's start. The seeds and SSPRQ are IEEE 802.3's and free here. -/
def patLevel (pat n : Nat) : Nat :=
  match pat with
  | 1 =>
    let r := stepped prbs13 (2 * (n % 8191) + 2) (Config.prbsSeed pat % (2 ^ 13 - 1) + 1)
    grayLevel (r.testBit 1) (r.testBit 0)
  | 2 =>
    let r := stepped prbs31 (2 * (n % (2 ^ 31 - 1)) + 2) (Config.prbsSeed pat % (2 ^ 31 - 1) + 1)
    grayLevel (!r.testBit 1) (!r.testBit 0)
  | 3 => (Config.ssprq (n % 65535)).val
  | 4 => if n % 32 < 16 then 3 else 0
  | _ => 0

/-- Symbols of a host lane in a tick: 106.25 GBd for 8 us (R141). -/
def laneSymbols : Nat := 850000

/-- PAT and LPBK of the raw mode in force (Table 5-10). -/
def LaneS.pat (c : LaneS) : Nat := fld c.rawCfg 6 4
def LaneS.lpbk (c : LaneS) : Nat := fld c.rawCfg 11 10

/-- Symbols `from_` to `from_ + k - 1` of the levels that a raw lane's serialiser puts out since its pattern began: pattern, precoder,
polarity (R144, R147). -/
def LaneS.serial (c : LaneS) (from_ k : Nat) : List Nat :=
  let xs := (List.range (from_ + k)).map (patLevel c.pat)
  polarity (flag c.cfg 5) ((if flag c.cfg 7 then precode 0 xs else xs).drop from_)

/-- The levels that leave a raw lane's transmit pins at the start of a tick, `rx` being the symbols it receives: the pattern, or with
the far-end loopback the received symbols, retimed (R149). -/
def LaneS.pins (c : LaneS) (rx : List Nat) (k : Nat) : List Nat := if c.lpbk = 2 then rx.take k else c.serial c.sent k

/-- The symbols that a raw lane's receiver decides in a tick, one before its word boundary first: with the near-end loopback its own
transmit serialiser's (R149). Its 128-bit words follow the serialised words. -/
def LaneS.decided (c : LaneS) (pins : List Nat) : List Nat :=
  if c.lpbk = 1 then
    let b := (c.sent + 64) / 64 * 64
    c.serial (b - 1) 1089
  else pins

/-- The bits that a lane's receiver takes from decided symbols, the first of which comes before the word boundary (R141, R144). -/
def LaneS.rxBits (c : LaneS) (pins : List Nat) : List Bool :=
  let ls := polarity (flag c.cfg 6) (c.decided pins)
  (if flag c.cfg 8 then unprecode (ls.headD 0) ls.tail else ls.tail).flatMap grayBits

/-- Words of 32 bits from bits, the first bit of each in [31]; structural on a word count. -/
def wordsMsb : Nat → List Bool → List Word
  | 0, _ => []
  | n + 1, bs => mkWord (((List.range 32).map fun i => bitAt (bs.getD i false) (31 - i)).sum) :: wordsMsb n (bs.drop 32)

/-- A capture of 2,048 consecutive received bits from a word boundary, which SLIP has moved (R148). -/
def LaneS.capture (c : LaneS) (pins : List Nat) : List Word := wordsMsb 64 ((c.rxBits pins).drop c.slip)

/-! ### RS(544,514) (R151) -/

/-- The product of a polynomial over GF(2^10), highest coefficient first, and x + a. -/
def polyTimes (p : List Nat) (a : Nat) : List Nat :=
  ((p ++ [0]).zip (0 :: p)).map fun (c : Nat × Nat) => c.1 ^^^ gfMul10 a c.2

/-- The generator polynomial, of degree 30, with the roots a^0 to a^29 in the field of x^10 + x^3 + 1. PRESUMED (IEEE 802.3's
RS(544,514), which R151 names; log entry 73). -/
def rsGen : List Nat := (gfPowers 30 1).foldl polyTimes [1]

/-- The 30 parity symbols of 514 message symbols. -/
def rsParity (msg : List Nat) : List Nat :=
  msg.foldl (fun r m =>
    let f := m ^^^ r.headD 0
    ((r.tail ++ [0]).zip rsGen.tail).map fun (c : Nat × Nat) => c.1 ^^^ gfMul10 f c.2) (List.replicate 30 0)

/-- A systematic codeword. -/
def rsEncode (msg : List Nat) : List Nat := msg ++ rsParity msg

/-- Correction is always on (R151): a codeword with at most 15 wrong symbols is corrected; any other cannot be (R152). -/
def rsCorrects (wrong : Nat) : Bool := decide (wrong ≤ 15)

/-- A frame overlaps a codeword that RS-FEC cannot correct (R152): `errs` counts the wrong symbols of each codeword it overlaps. -/
def fecFails (errs : List Nat) : Bool := errs.any fun n => !rsCorrects n

end Sys2Proof.Machine
end

