-- ==== Sys2Proof/Machine/Conv.lean ====
section
/-! DEFINITION. Chapter 2: the line converters, their spare slice, start-up calibration and the converter commands. -/

namespace Sys2Proof.Machine

/-- The outcome of a step. -/
abbrev Res := Host.Outcome State Fault Refusal

/-! ### Readings of the converters -/

/-- A side carries traffic: READY or DEGRADED (Table 2-5). -/
def ConvState.runs : ConvState → Bool
  | .ready | .degraded => true
  | _ => false

/-- The code of TX_STATE and RX_STATE (Table 2-5). -/
def ConvState.code : ConvState → Nat
  | .off => 0 | .cal => 1 | .ready => 2 | .degraded => 3 | .failed => 4 | .mcOnly => 5

/-- The slice that serves position p (R55): stored as 127 where slice Sp serves p. -/
def AdcS.serving (a : AdcS) (p : Nat) : Nat := if a.map.get p = 127 then p else a.map.get p

/-- Let slice n serve position p. -/
def AdcS.serve (a : AdcS) (p n : Nat) : AdcS := { a with map := a.map.set p (if n = p then 127 else n) }

/-- The position that slice n serves, none while it is offline. -/
def AdcS.posOf (a : AdcS) (n : Nat) : Option Nat := (List.range 64).find? fun p => a.serving p == n

/-- The retired slices of an ADC. -/
def AdcS.retiredCount (a : AdcS) : Nat := (List.range 65).countP fun n => (a.slices.get n).retired

/-- OPTICS_TYPE of a line (Table 2-3). -/
def ConvS.optics (c : ConvS) : Nat := fld (wd c.entry 0) 7 0

/-- ROLE of MC on a line (Table 10-12). -/
def MartenL.role (m : MartenL) : Nat := fld (wd m.mc 0) 5 4

/-- The power state keeps the line on (Table 14-4): P0, or P1 with the other line off. From the first step of the entry to P2 it
keeps both off (DESIGN CHOICE, log entry 55: R75 speaks of the power state P2). -/
def State.lineAllowed (s : State) (l : Nat) : Bool :=
  s.pwr.p2Step.isNone && match s.pwr.st with
  | .p0 => true
  | .p1 => s.pwr.p1Line != l
  | .p2 | .p3 => false

/-- A trim within its range of Table 2-1: offset to 16 LSB, gain to 12.5 %, skew to 2.00 ps either way. -/
def trimmed (m : SliceMeas) : Int × Int × Int := (clamp (-256) 256 m.offset, clamp (-250) 250 m.gain, clamp (-200) 200 m.skew)

/-- A trim has reached an end of its range: it is saturated (R53). -/
def saturated (m : SliceMeas) : Bool :=
  decide (256 ≤ m.offset.natAbs) || decide (250 ≤ m.gain.natAbs) || decide (200 ≤ m.skew.natAbs)

/-- A slice calibration passes (R54): at most 0.25 LSB, 0.2 % and 50 fs of residual error, and no saturated trim. -/
def slicePasses (m : SliceMeas) : Bool := m.offRes ≤ 25 && m.gainRes ≤ 20 && m.skewRes ≤ 50 && !saturated m

/-- The counter qualifier of an ADC (Table 13-9). -/
def adcQual (l a : Nat) : Nat := 4 * l + a

/-! ### Rotation, substitution and retirement -/

/-- An ADC leaves service: rotation, spare, suspects and counts are gone. -/
def adcIdle (c : AdcS) : AdcS :=
  { c with on := false, act := .keep, rotating := false, spareOk := false, suspects := [], suspectTicks := 0, devCount := .const 0 }

/-- An ADC fails (R63): its output is forced to zero, rotation ends, and the line's RX_STATE becomes FAILED. -/
def failAdc (l a : Nat) (s : State) : State :=
  (s.onAdc l a fun c => { adcIdle c with failed := true, offline := 127 }).onConv l
    fun c => { c with rx := if c.rx = .off then .off else .failed, rxChanged := true }

/-- A slice is retired (R59, R62, R63): it stays so; the first retirement stops rotation and leaves the ADC without a
spare, and a receive side that ran READY becomes DEGRADED. -/
def retireSlice (l a n : Nat) (s : State) : State :=
  let s := s.onAdc l a fun c =>
    { c with slices := c.slices.upd n fun x => { x with retired := true }, rotating := false, spareOk := false }
  let s := s.onConv l fun c => { c with rx := if c.rx = .ready then .degraded else c.rx }
  (s.count 1 2 (adcQual l a) 1).convFault l 1

/-- The offline slice takes position p and the slice that served p goes offline (R56, R60). -/
def swapIn (p : Nat) (a : AdcS) : AdcS :=
  { a.serve p a.offline with offline := a.serving p, dwellTicks := 0, dwellLen := a.dwell }

/-- A substitution (R60): the spare takes the suspect position, and the dwell under way is abandoned. -/
def substitute (l a p : Nat) (s : State) : State :=
  (s.onAdc l a fun c =>
    { swapIn p c with suspects := c.suspects.filter (· != p), suspectTicks := 0, devCount := c.devCount.set p 0, spareOk := false }).count 1 1 (adcQual l a) 1

/-- A rotation swap (R56): the offline slice takes NEXT_POS, which advances; 65 dwells make a round. -/
def rotate (l a : Nat) (s : State) : State :=
  (s.onAdc l a fun c =>
    let done := c.roundDwells + 1 == 65
    { swapIn c.nextPos c with
      nextPos := (c.nextPos + 1) % 64
      roundDwells := if done then 0 else c.roundDwells + 1
      rounds := if done then min (c.rounds + 1) 0xFFFF else c.rounds }).count 1 0 (adcQual l a) 1

/-- A slice takes the trims that its calibration asks for, held within their ranges (R53, R56). -/
def trimSlice (n : Nat) (m : SliceMeas) (a : AdcS) : AdcS :=
  { a with slices := a.slices.upd n fun x => { x with offset := (trimmed m).1, gain := (trimmed m).2.1, skew := (trimmed m).2.2 } }

/-- The dwell under way is in its last tick or beyond it (R56, R59), and nothing else is to change the slice map at the next
boundary (R61). -/
def dwellOver (s : State) (l a : Nat) : Bool :=
  let c := (s.cv l).adc.get a
  s.up && c.on && c.rotating && c.act == .keep && !(!c.suspects.isEmpty && c.spareOk) && decide (c.dwellLen ≤ c.dwellTicks + 1)

/-- A new dwell of the slice that stays offline, with rotation paused (R76). -/
def dwellAgain (a : AdcS) : AdcS := { a with dwellTicks := 0, dwellLen := a.dwell, act := .keep }

/-- What a boundary does to the map of one ADC (R56 to R60): one change at most, in step 2 of R28. -/
def adcAct (l a : Nat) (s : State) : State :=
  let c := (s.cv l).adc.get a
  let s := s.onAdc l a fun c => { c with act := .keep }
  match c.act with
  | .keep => s
  | .swap => if c.enable then rotate l a s else s.onAdc l a dwellAgain
  | .subst p => substitute l a p s
  | .retire => retireSlice l a c.offline s

/-- ADC_DWELL_END (R56, R59, R76): the offline slice takes the trims reached. When it passes R54 the next boundary swaps it in, or
with rotation paused it begins another dwell; with a saturated trim, or not passing after four dwell lengths, the next boundary
retires it; otherwise the dwell goes on, and may be examined again in any tick of the extension (DESIGN CHOICE, log entry 56). -/
def execAdcDwellEnd (l : Fin 2) (a : Fin 4) (m : SliceMeas) (s : State) : Res :=
  if dwellOver s l a then
    let c := (s.cv l).adc.get a
    let s := s.onAdc l a (trimSlice c.offline m)
    if slicePasses m then .next (s.onAdc l a fun c => { c with act := .swap })
    else if saturated m || 4 * c.dwellLen ≤ c.dwellTicks + 1 then .next (s.onAdc l a fun c => { c with act := .retire })
    else .next s
  else .next s

/-- SLICE_SUSPECT (R60): a position that deviated in 16 consecutive ticks marks its slice. -/
def execSliceSuspect (l : Fin 2) (a : Fin 4) (p : Fin 64) (s : State) : Res :=
  let c := (s.cv l).adc.get a
  if s.up && c.on && 16 ≤ c.devCount.get p && !c.suspects.contains p.val then
    .next ((s.onAdc l a fun c => { c with suspects := c.suspects ++ [p.val] }).convFault l 0)
  else .next s

/-- SLICE_SUBSTITUTE (R60, R61): with a good spare, it takes the place of the suspect slice marked first at the next boundary, in
place of any rotation swap; without one nothing moves. -/
def execSliceSubstitute (l : Fin 2) (a : Fin 4) (s : State) : Res :=
  let c := (s.cv l).adc.get a
  match c.suspects with
  | p :: _ => if s.up && c.on && c.spareOk then .next (s.onAdc l a fun c => { c with act := .subst p }) else .next s
  | [] => .next s

/-- ADC_FAIL (R63): a second slice to retire, or a suspect slice without a spare for 256 ticks. -/
def execAdcFail (l : Fin 2) (a : Fin 4) (s : State) : Res :=
  let c := (s.cv l).adc.get a
  if s.up && c.on && (2 ≤ c.retiredCount || (!c.spareOk && 256 ≤ c.suspectTicks)) then
    .next (failAdc l a s)
  else .next s

/-! ### Start-up calibration (R70 to R73) -/

/-- Calibration begins on a line (Table 2-4, tick 0): both sides CAL, DACs at mid-code. -/
def beginCal (l : Nat) (s : State) : State :=
  let s := s.onConv l fun c =>
    { c with tx := .cal, rx := .cal, calTick := some 0, pll := true, muted := true, startIn := none, failDue := false, powered := true, rxChanged := true }
  s.each (List.range 4) fun s a => s.onAdc l a fun c =>
    { adcIdle c with failed := false, dwellTicks := 0, nextPos := 0, rounds := 0, roundDwells := 0 }

/-- A line goes off: both sides OFF, PLL and rotation stopped, DACs at mid-code. -/
def lineOff (l : Nat) (s : State) : State :=
  let s := s.onConv l fun c =>
    { c with tx := .off, rx := .off, calTick := none, relock := none, startIn := none, pll := false, muted := true, failDue := false,
             powered := false, rxChanged := true }
  s.each (List.range 4) fun s a => s.onAdc l a fun c => { adcIdle c with offline := 127 }

/-- Both sides have left CAL: the calibration and any relock sequence end (R73). -/
def calSettle (l : Nat) (s : State) : State :=
  s.onConv l fun c => if c.tx ≠ .cal ∧ c.rx ≠ .cal then { c with calTick := none, relock := none } else c

/-- The calibration has run n ticks or more. -/
def calAt (s : State) (l n : Nat) : Bool :=
  s.up && match (s.cv l).calTick with
    | some t => n ≤ t
    | none => false

/-- The slice map after calibration (R55, R72): Sp serves p and S64 is offline; where one slice below 64 is retired, S64
serves its position and that slice is the offline one. -/
def startMap (a : AdcS) : AdcS :=
  match (List.range 64).find? fun n => (a.slices.get n).retired with
  | some n => { a with map := (Table.const 127).set n 64, offline := n }
  | none => { a with map := .const 127, offline := 64 }

/-- An ADC at calibration tick 1,625: failed with two retired slices, without a spare with one, rotating with none. -/
def adcAfterCal (a : AdcS) : AdcS :=
  let k := a.retiredCount
  let a := startMap a
  if 2 ≤ k then { a with failed := true, rotating := false, spareOk := false, offline := 127 }
  else { a with on := true, rotating := k == 0, spareOk := k == 0, dwellTicks := 0, dwellLen := a.dwell, nextPos := 0, rounds := 0, roundDwells := 0 }

/-- The receive state that the four ADCs give (R62, R63). -/
def rxAfterCal (c : ConvS) : ConvState :=
  if (List.range 4).any fun a => (c.adc.get a).failed then .failed
  else if (List.range 4).any fun a => (c.adc.get a).retiredCount == 1 then .degraded
  else .ready

/-- CONV_CAL_START (R70): at the second boundary after acceptance a line with a used entry begins calibration. -/
def execConvCalStart (l : Fin 2) (s : State) : Res :=
  let c := s.cv l
  if s.up && c.startIn == some 0 && c.optics != 0 && s.lineAllowed l then .next (beginCal l s) else .next s

/-- CONV_RX_CAL_DONE (R64, R70, R72): the slices that are not retired take the trims of calibration, those that do not meet R54
are retired, and the receive side takes its state. A slice without a measurement keeps the trims of the run before. -/
def execConvRxCalDone (l : Fin 2) (meas : List (Fin 4 × Fin 65 × SliceMeas)) (s : State) : Res :=
  if calAt s l 1625 && (s.cv l).rx == .cal then
    let fresh := meas.filter fun b => !(((s.cv l).adc.get b.1).slices.get b.2.1).retired
    let s := s.each fresh fun s b => s.onAdc l b.1 (trimSlice b.2.1 b.2.2)
    let s := s.each (fresh.filter fun b => !slicePasses b.2.2) fun s b => retireSlice l b.1 b.2.1 s
    let s := s.each (List.range 4) fun s a => s.onAdc l a adcAfterCal
    .next (calSettle l (s.onConv l fun c => { c with rx := rxAfterCal c, rxChanged := true }))
  else .next s

/-- Calibration's inter-lane step begins (Table 2-4, tick 2,525): DAC_HOLD is cleared and tracking starts from nothing (R66). -/
def clearDacs (c : ConvS) : ConvS := { c with dac := .const {} }

/-- The tracked trims set afresh by calibration's inter-lane step, and the segment weights of the DACs that passed (R65, R66). -/
def setDacs (l : Nat) (bad : List (Fin 4)) (trims : List DacMeas) (s : State) : State :=
  let s := s.onConv l clearDacs
  let s := s.each (trims.filter fun t => t.line.val == l) fun s t => s.onConv l fun c =>
    { c with dac := c.dac.upd t.dac fun d => { d with skew := clamp (-40) 40 t.skew, gain := clamp (-100) 100 t.gain } }
  s.each ((List.range 4).filter fun k => !(bad.any fun b => b.val == k)) fun s k => s.onConv l fun c =>
    { c with dac := c.dac.upd k fun d => { d with segOk := true } }

/-- Every subcarrier number. -/
def scs : List Nat := List.range 16

/-- Every subcarrier with a nonzero code lights at once when TX_STATE becomes READY (R95). -/
def lightAll (l : Nat) (s : State) : State :=
  s.each scs fun s k => s.onSc l k fun c => { c with lit := c.code != 0, codeTx := c.code, warm := 0, due := false, closing := false }

/-- Every subcarrier is dark while the line sends no frames (R51). -/
def darkAll (l : Nat) (s : State) : State :=
  s.each scs fun s k => s.onSc l k fun c => { c with lit := false, codeTx := c.code, warm := 0, due := false, closing := false }

/-- CONV_TX_CAL_DONE (R51, R65, R70): a DAC without its segment calibration fails the transmit side, which stays muted; a side that
ends in MC_ONLY holds mid-code between bursts, and one that ends READY lights its subcarriers at once (R95). -/
def execConvTxCalDone (l : Fin 2) (bad : List (Fin 4)) (trims : List DacMeas) (s : State) : Res :=
  if calAt s l 3250 && (s.cv l).tx == .cal then
    let s := setDacs l bad trims s
    if bad.isEmpty then
      let s := s.when ((s.ml l).role != 3) (lightAll l)
      .next (calSettle l (s.onConv l fun c => { c with tx := if (s.ml l).role = 3 then .mcOnly else .ready, muted := (s.ml l).role == 3 }))
    else .next ((calSettle l (s.onConv l fun c => { c with tx := .failed, muted := true })).convFault l 2 |>.trigger 3)
  else .next s

/-- CONV_CAL_TIMEOUT (R71). -/
def execConvCalTimeout (l : Fin 2) (tx : Bool) (s : State) : Res :=
  if calAt s l 6250 && (if tx then (s.cv l).tx == .cal else (s.cv l).rx == .cal) then
    .next ((calSettle l (s.onConv l fun c =>
      if tx then { c with tx := .failed, muted := true } else { c with rx := .failed, rxChanged := true })).convFault l 4 |>.when tx (·.trigger 3))
  else .next s

/-- The line PLL is out of lock (R73): the line is muted, its ADC outputs are zero, both sides fail at the next boundary, and the
sequence of attempts begins or goes on; after the third it ends. -/
def pllLost (l : Nat) (s : State) : State :=
  let s := s.onConv l fun c =>
    { c with pll := false, muted := true, failDue := true, calTick := none,
             relock := match c.relock with
               | none => some 0
               | some k => if k < 3 then some k else none }
  (s.each (List.range 4) fun s a => s.onAdc l a adcIdle).convFault l 5

/-- LINE_PLL_UNLOCK (R73): the line is muted and both sides are to fail; inside an attempt the attempt has failed. -/
def execLinePllUnlock (l : Fin 2) (s : State) : Res :=
  if s.up && (s.cv l).pll && (s.cv l).powered then .next (pllLost l s) else .next s

/-- LINE_PLL_RELOCK_ATTEMPT (R73): an attempt begins, at most three in a sequence, with a rerun of calibration. One whose PLL does
not lock fails after tick 24 (pllTick). -/
def execLinePllRelockAttempt (l : Fin 2) (locks : Bool) (s : State) : Res :=
  let c := s.cv l
  match c.relock with
  | some k =>
    if s.up && !c.pll && !c.failDue && c.calTick.isNone && k < 3 then
      .next ((beginCal l s).onConv l fun c => { c with relock := some (k + 1), pll := locks })
    else .next s
  | none => .next s

/-- A fault reaction mutes a line (Table 13-5, actions 1 and 2): a line that is not OFF becomes FAILED and a calibration
in progress is abandoned. -/
def muteLine (l : Nat) (s : State) : State :=
  (s.when (!((s.cv l).tx == .off || (s.cv l).tx == .failed)) (·.trigger 3)).onConv l fun c =>
    { c with muted := true, calTick := none, relock := none,
             tx := if c.tx = .off then .off else .failed,
             rx := if c.rx = .cal then .failed else c.rx,
             rxChanged := c.rxChanged || c.rx == .cal }

/-! ### The boundary -/

/-- One step of at most 1 towards a target (R66). -/
def stepTo (x target : Int) : Int := x + clamp (-1) 1 (target - x)

/-- The observation receiver asks for a trim beyond its range: the tracked trim would have to pass it (R66). The hold begins at once,
wherever the stepped trim stands (DESIGN CHOICE, log entry 57). -/
def dacBeyond (m : DacMeas) : Bool := decide (m.skew < -40) || decide (40 < m.skew) || decide (m.gain < -100) || decide (100 < m.gain)

/-- DAC tracking at a boundary (R66). -/
def dacTrack (l : Nat) (ms : List DacMeas) (s : State) : State :=
  let c := s.cv l
  if c.tx.runs || c.tx == .mcOnly then
    let ms := ms.filter fun m => m.line.val == l
    let held := (List.range 4).any fun d => (c.dac.get d).hold
    let stop := ms.filter fun m => dacBeyond m && !(c.dac.get m.dac).hold
    let s := s.each stop fun s m =>
      (s.onConv l fun c => { c with dac := c.dac.upd m.dac fun d => { d with hold := true }, tx := .degraded }).convFault l 3
    if held || !stop.isEmpty then s
    else s.each ms fun s m => s.onConv l fun c =>
      { c with dac := c.dac.upd m.dac fun d => { d with skew := stepTo d.skew m.skew, gain := stepTo d.gain m.gain } }
  else s

/-- The positions of one ADC that deviated (R60): by more than 1 LSB of mean or 3 % of mean square. -/
def deviating (l a : Nat) (ds : List AdcDev) : List Nat :=
  (ds.filter fun d => d.line.val == l && d.adc.val == a && (decide (100 < d.meanDev) || decide (300 < d.msqDev))).map fun d => d.pos.val

/-- The in-service monitor's counts at a boundary (R60): one more for a deviating position, none for the others. -/
def monitorCounts (ds : List Nat) (t : Table Nat) : Table Nat :=
  ds.foldl (fun u p => u.set p (min (t.get p + 1) 31)) (.const 0)

/-- One ADC at a boundary: dwell, monitor, suspect slice without a spare, SPARE_OK (R56 to R60). -/
def adcTick (l a : Nat) (i : TickIn) (s : State) : State :=
  let c := (s.cv l).adc.get a
  if c.on then
    let ds := deviating l a i.adcDev
    let left := if c.spareOk then c.suspects else c.suspects.filter ds.contains
    let lone := !c.spareOk && !left.isEmpty
    let ok := c.offline < 65 && !(c.slices.get c.offline).retired && !(i.spareBad.any fun b => b.val == adcQual l a) && c.retiredCount == 0
    let s := s.onAdc l a fun c =>
      { c with devCount := monitorCounts ds c.devCount
               dwellTicks := if c.rotating then c.dwellTicks + 1 else c.dwellTicks
               suspects := left
               suspectTicks := if lone then c.suspectTicks + 1 else 0
               spareOk := ok }
    s.when lone fun s => s.convFault l 0
  else s

/-- A line's PLL and calibration at a boundary (R66, R73): states that a lost lock fails, an attempt that has not locked by tick 25,
and the inter-lane step. -/
def pllTick (l : Nat) (s : State) : State :=
  let was := (s.cv l).tx
  let s := s.onConv l fun c =>
    if c.failDue then { c with tx := .failed, rx := .failed, failDue := false, rxChanged := true }
    else if c.tx == .cal && c.calTick == some 2525 then clearDacs c
    else c
  let c := s.cv l
  let s := s.when (c.tx == .failed && was != .failed) (·.trigger 3)
  if !c.pll && c.calTick == some 25 then
    ((pllLost l s).onConv l fun c => { c with tx := .failed, rx := .failed, failDue := false, rxChanged := true }).when (c.tx != .failed) (·.trigger 3)
  else s

/-- One line's converters at a boundary. -/
def convTick (l : Nat) (i : TickIn) (s : State) : State :=
  let s := s.onConv l fun c =>
    { c with startIn := c.startIn.map (· - 1), calTick := c.calTick.map (· + 1) }
  let s := pllTick l s
  let s := s.each (List.range 4) fun s a => adcTick l a i s
  dacTrack l i.dac s

/-! ### Commands (Table 2-6) -/

/-- A skew byte of TX_SKEW or RX_SKEW at its forbidden value of -128. -/
def badSkew (w : Word) : Bool := (wordBytes w).any (· == 0x80)

/-- Word i of a declared-optics entry is valid (R67, R68). -/
def opticsWordOk (ws : List Word) (i : Nat) : Bool :=
  let t := fld (wd ws 0) 7 0
  let f := fld (wd ws 0) 15 8
  let d := fld (wd ws 1) 15 0
  match i with
  | 0 => onlyBits (wd ws 0) 0x3FFFF && t ≤ 2 && f ≤ 3 && (t == 0 || 1 ≤ f)
  | 1 => t == 0 || (1000 ≤ d && d ≤ 25000 && fld (wd ws 1) 31 16 ≤ 1000)
  | 2 => onlyBits (wd ws 2) 0x1FFFF
  | 3 | 4 => t == 0 || !badSkew (wd ws i)
  | _ => wd ws i == 0

/-- The first invalid word of an entry. -/
def opticsBad (ws : List Word) : Option Nat := (List.range 8).find? fun i => !opticsWordOk ws i

/-- A declared-optics entry is valid (R67, R68). -/
def opticsValid (ws : List Word) : Bool := ws.length == 8 && (opticsBad ws).isNone

/-- LINE_CONV_SET (R69). -/
def cmdLineConvSet (_h : CmdHdr) (ws : List Word) (s : State) : CmdRes :=
  let l := fld (wd ws 0) 0 0
  needLen ws 9 <| need (onlyBits (wd ws 0) 1) .badArg 0 <| need (opticsBad (ws.drop 1)).isNone .badArg ((opticsBad (ws.drop 1)).getD 0 + 1) <|
  need ((s.cv l).tx == .off && (s.cv l).rx == .off) .busy 0 <|
  stageOne s .convEntry l 0 (ws.drop 1)

/-- LINE_CONV_CAL (R70, Table 2-6): asynchronous, and the calibration begins at the applying boundary. -/
def cmdLineConvCal (_h : CmdHdr) (ws : List Word) (s : State) : CmdRes :=
  let l := fld (wd ws 0) 0 0
  needLen ws 1 <| need (onlyBits (wd ws 0) 1) .badArg 0 <| need ((s.cv l).optics != 0) .badArg 0 <|
  need ((s.cv l).tx != .cal && (s.cv l).rx != .cal && s.lineAllowed l) .busy 0 <|
  needFree s .convCal l <| .accept (s.stage .convCal l 0 []) (.conv l)

/-- LINE_CONV_BGCAL (R76): one item for each ADC of the mask. -/
def cmdLineConvBgcal (_h : CmdHdr) (ws : List Word) (s : State) : CmdRes :=
  let w := wd ws 0
  let l := fld w 0 0
  let adcs := onesOf 4 (fld w 7 4)
  needLen ws 1 <| need (onlyBits w 0xFFFF01F1) .badArg 0 <| need (16 ≤ fld w 31 16 && fld w 31 16 ≤ 4096) .badArg 0 <|
  need (!(adcs.any fun a => s.isStaged .bgcal (adcQual l a))) .busy 0 <|
  .done (s.each adcs fun s a => s.stage .bgcal (adcQual l a) 0 [w]) []

/-- The state code of a slice (Table 2-9). -/
def sliceCode (a : AdcS) (n : Nat) : Nat :=
  if (a.slices.get n).retired then 2
  else match a.posOf n with
    | some p => if a.suspects.contains p then 3 else 0
    | none => 1

/-- A slice record (Table 2-9). -/
def sliceRecord (a : AdcS) (n : Nat) : List Word :=
  let x := a.slices.get n
  let pos := match a.posOf n with
    | some p => if x.retired then 0xFF else p
    | none => 0xFF
  [mkWord (wrapInt 16 x.offset + 2 ^ 16 * wrapInt 16 x.gain), mkWord (wrapInt 16 x.skew + 2 ^ 16 * pos + 2 ^ 24 * sliceCode a n)]

/-- LINE_CONV_STATUS (R78). -/
def cmdLineConvStatus (_h : CmdHdr) (ws : List Word) (s : State) : CmdRes :=
  let w := wd ws 0
  needLen ws 1 <| need (onlyBits w 0x31) .badArg 0 <|
  .done s ((List.range 65).flatMap (sliceRecord ((s.cv (fld w 0 0)).adc.get (fld w 5 4))))

/-- LINE_CONV_RETIRE (R77). -/
def cmdLineConvRetire (_h : CmdHdr) (ws : List Word) (s : State) : CmdRes :=
  let w := wd ws 0
  let l := fld w 0 0
  let a := (s.cv l).adc.get (fld w 5 4)
  let n := fld w 14 8
  let gone := (a.slices.get n).retired
  needLen ws 1 <| need (onlyBits w 0x17F31) .badArg 0 <| need (n ≤ 64) .badArg 0 <|
  if flag w 16 then
    need ((s.cv l).rx == .off) .busy 0 <| stageOne s .slice (adcQual l (fld w 5 4)) 1 [w]
  else
    need (!gone) .badArg 0 <|
    need (n == a.offline || a.spareOk) .noResource 0 <| stageOne s .slice (adcQual l (fld w 5 4)) 0 [w]

def execLineConvSet (h : CmdHdr) (ws : List Word) (s : State) : Res := .next (runCmd 0x0101 cmdLineConvSet h ws s)
def execLineConvCal (h : CmdHdr) (ws : List Word) (s : State) : Res := .next (runCmd 0x0102 cmdLineConvCal h ws s)
def execLineConvBgcal (h : CmdHdr) (ws : List Word) (s : State) : Res := .next (runCmd 0x0103 cmdLineConvBgcal h ws s)
def execLineConvStatus (h : CmdHdr) (ws : List Word) (s : State) : Res := .next (runCmd 0x0104 cmdLineConvStatus h ws s)
def execLineConvRetire (h : CmdHdr) (ws : List Word) (s : State) : Res := .next (runCmd 0x0105 cmdLineConvRetire h ws s)

/-- A staged converter item takes effect at its boundary (R68, R69, R70, R76, R77). A line whose entry is unused stays powered down,
whatever else was staged. An active slice whose ADC has lost its spare by then stays in service, as R60 has it, and is not
retired (DESIGN CHOICE, log entry 58). -/
def applyConv (g : Staged) (s : State) : State :=
  match g.item with
  | .convEntry =>
    let s := s.onConv g.idx fun c => { c with entry := g.ws }
    s.when ((s.cv g.idx).optics == 0) (lineOff g.idx)
  | .convCal => s.when ((s.cv g.idx).optics != 0) fun s => (beginCal g.idx s).onConv g.idx fun c => { c with relock := none }
  | .bgcal => s.onAdc (g.idx / 4) (g.idx % 4) fun a =>
      { a with dwell := fld (wd g.ws 0) 31 16, enable := flag (wd g.ws 0) 8 }
  | .slice =>
    let l := g.idx / 4
    let a := g.idx % 4
    let n := fld (wd g.ws 0) 14 8
    let c := (s.cv l).adc.get a
    if g.op = 1 then s.onAdc l a fun c => { c with slices := c.slices.upd n fun x => { x with retired := false } }
    else if n = c.offline then retireSlice l a n s
    else match c.posOf n with
      | some p => s.when c.spareOk fun s => retireSlice l a n (substitute l a p s)
      | none => retireSlice l a n s
  | _ => s

end Sys2Proof.Machine
end

