-- ==== Sys2Proof/Machine/Dsp.lean ====
section
/-! DEFINITION. Chapter 3: subcarriers, loading, the equaliser banks, acquisition, quality and the line DSP commands. -/

namespace Sys2Proof.Machine

/-! ### Readings -/

/-- BAUD: B = 8.0 + 0.5 x BAUD GBd (Table 3-2). -/
def DspS.baud (d : DspS) : Nat := fld (wd d.scCfg 0) 31 24
/-- MC_EN in force. -/
def DspS.mcEn (d : DspS) : Bool := flag (wd d.scCfg 0) 8
/-- WARMUP in ticks. -/
def DspS.warmup (d : DspS) : Nat := fld (wd d.scCfg 1) 15 0
/-- QUAL_AVG (Table 3-9). -/
def DspS.qualAvg (d : DspS) : Nat := fld (wd d.rxCfg 0) 31 21
/-- FADE in ticks (Table 3-9). The six-bit field holds 64 as 0 (DESIGN CHOICE, log entry 60: the manual gives the range 1 to 64 and
no code for 64). -/
def DspS.fadeTicks (d : DspS) : Nat := if fld (wd d.rxCfg 0) 13 8 = 0 then 64 else fld (wd d.rxCfg 0) 13 8
/-- LOCK_THR in 0.1 dB (Table 3-9). -/
def DspS.lockThr (d : DspS) : Nat := fld (wd d.rxCfg 3) 7 0
/-- LOSS_THR in 0.1 dB (Table 3-9). -/
def DspS.lossThr (d : DspS) : Nat := fld (wd d.rxCfg 3) 15 8
/-- MU of the SOP trackers (Table 3-9). -/
def DspS.mu (d : DspS) : Nat := fld (wd d.rxCfg 0) 19 16
/-- SOP_SHARE (Table 3-9). -/
def DspS.sopShare (d : DspS) : Bool := flag (wd d.rxCfg 0) 20

/-- The rotation that an SOP tracker follows in a tick, in urad (R100): 10 Mrad/s while MU is 0 to 6, halved by each step above. -/
def DspS.sopLimit (d : DspS) : Nat := 80000000 / 2 ^ (d.mu - 6)

/-- The common digital scale factor of a line (R94): the manual says what it is formed from and gives no formula, so its value is a
free function of the codes and gains (Config.dacScale, log entry 61). -/
def DspS.scale (d : DspS) : Nat := Config.dacScale d.scaleOf

/-- Data symbols per tick and polarisation: 7,750 x B (R82). -/
def dataSymbols (baud : Nat) : Nat := 62000 + 3875 * baud

/-- Raw bits per tick of one subcarrier at a loading code (R87, Table 3-3). The reserved code 7 carries none: one announced with a
right complement is a valid announcement (R85) of no capacity (DESIGN CHOICE, log entry 62). -/
def rawBits (baud code : Nat) : Nat :=
  if code = 7 then 0
  else if code < 7 then 2 * code * dataSymbols baud
  else dataSymbols baud / 64 * 32 * (16 + (code - 8))

/-- A subcarrier that warms up (R91): lit, announcing code 0 on its way to a nonzero code. -/
def ScS.warming (c : ScS) : Bool := c.lit && c.codeTx == 0 && c.code != 0

/-- The transmitter of the line sends line frames (R51, R95). -/
def State.sends (s : State) (l : Nat) : Bool := (s.cv l).tx.runs

/-- The identity bank (R99): hxx and hyy with tap 12 at 1.0. -/
def identityBank : List Word := (List.range 100).map fun i => if i = 12 ∨ i = 87 then 0x4000 else 0

/-- The bank that is active, or faded towards (R99). -/
def ScS.activeBank (c : ScS) : Option (List Word) := if c.active then c.bankB else c.bankA

/-! ### Bank swaps (R102 to R106) -/

/-- A swap starts: the shadow goes into the idle bank; in TRACK a fade begins, otherwise the swap is hard (R103, R104). -/
def startSwap (l k : Nat) (s : State) : State :=
  let fade := (s.ds l).fadeTicks
  (s.onSc l k fun c =>
    let c := if c.active then { c with bankA := c.shadow, active := false } else { c with bankB := c.shadow, active := true }
    let c := { c with fadeDue := false, applied := true }
    if c.rx = .track then { c with slot := .fading, fade := fade } else { c with slot := .idle, fade := 0 }).count 2 2 (16 * l + k) 1

/-- Any fade ends at once with the new bank active, and a request that has not started is discarded: one in PENDING (R106), and one
in STAGED likewise (DESIGN CHOICE, log entry 63: R106 names only a pending request). -/
def endSwap (l k : Nat) (s : State) : State :=
  let c := (s.ds l).sc.get k
  (s.onSc l k fun c => { c with fade := 0, fadeDue := false, slot := .idle }).when (c.slot == .pending || c.slot == .staged) fun s => s.dspFault l 5

/-- A subcarrier goes to OFF (R106, Table 3-8). -/
def scOff (l k : Nat) (s : State) : State :=
  (endSwap l k s).onSc l k fun c => { c with rx := .off, acqTicks := 0, lowTicks := 0, annBad := 0, annZero := false }

/-- A subcarrier enters ACQ with its SOP tracker at the identity (R100, R112). -/
def scAcq (l k : Nat) (s : State) : State :=
  s.onSc l k fun c => { c with rx := .acq, acqTicks := 0, lowTicks := 0, sop := (0, 0, 0), annBad := 0, annZero := false }

/-- The banks of a new acquisition: identity, bank A active (R99). -/
def resetBanks (c : ScS) : ScS := { c with bankA := none, bankB := none, active := false, applied := false }

/-- Every subcarrier of the line goes to OFF (R106). -/
def dropSubcarriers (l : Nat) (s : State) : State := s.each scs fun s k => scOff l k s

/-- The frame receiver of a line whose DSP has left RUN: NO_SIGNAL from that boundary on (R135, R136). -/
def loseFrame (l : Nat) (s : State) : State :=
  s.onFrm l fun f =>
    if f.fr = .noSignal then f else { f with fr := .noSignal, goodRun := 0, badRun := 0, lostCounting := true }

/-- The line DSP takes a state from its first tick; outside RUN the line has no frames (R135). -/
def toRxd (l : Nat) (x : RxdState) (s : State) : State :=
  (s.when (x != .run) (loseFrame l)).onDsp l fun d => { d with rxd := x, rxdTicks := 0, noTrack := 0, forceSearch := false }

/-- The line DSP enters CD_SEARCH with CD_CENTRE and CD_SPAN as they stand (R109, R110, Table 3-9), a new acquisition with every
bank at the identity (R99); from RUN this sets LOS (R111). -/
def enterSearch (l : Nat) (narrow : Bool) (s : State) : State :=
  let fromRun := (s.ds l).rxd == .run
  let s := s.each scs fun s k => (scOff l k s).onSc l k resetBanks
  let s := (toRxd l .cdSearch s).onDsp l fun d =>
    { d with narrow := narrow, failedScans := 0, scanTicks := 0, scanCentre := sword (wd d.rxCfg 1), scanSpan := (wd d.rxCfg 2).toNat }
  s.when fromRun fun s => (s.dspFault l 0).trigger (1 + l)

/-- The line DSP leaves for WAIT_CONV or OFF (R111): an acquisition episode ends (R110), and from RUN LOS is set. -/
def leaveRx (l : Nat) (x : RxdState) (s : State) : State :=
  let fromRun := (s.ds l).rxd == .run
  let s := toRxd l x (dropSubcarriers l s)
  let s := s.onDsp l fun d => { d with narrow := false, failedScans := 0, acqFailed := false }
  s.when fromRun fun s => (s.dspFault l 0).trigger (1 + l)

/-! ### Events -/

/-- SC_WARMUP_END (R91): in the last tick of the warm-up; code k takes effect at the boundary that ends it. -/
def execScWarmupEnd (l : Fin 2) (k : Fin 16) (s : State) : Res :=
  let c := (s.ds l).sc.get k
  if s.up && c.warming && c.warm ≤ 1 then .next (s.onSc l k fun c => { c with due := true }) else .next s

/-- SC_CLOSE_END (R92): in the closing tick; the subcarrier goes dark at the boundary that ends it. -/
def execScCloseEnd (l : Fin 2) (k : Fin 16) (s : State) : Res :=
  let c := (s.ds l).sc.get k
  if s.up && c.closing then .next (s.onSc l k fun c => { c with due := true }) else .next s

/-- EQ_FADE_END (R102, R103): in the last tick of the fade; at the boundary that ends it the new bank alone is active, and a pending
swap starts. -/
def execEqFadeEnd (l : Fin 2) (k : Fin 16) (s : State) : Res :=
  let c := (s.ds l).sc.get k
  if s.up && (c.slot == .fading || c.slot == .pending) && c.fade ≤ 1 then .next (s.onSc l k fun c => { c with fadeDue := true })
  else .next s

/-- The dispersion estimate of a window is to be trusted (R97): 12 subcarriers or more in TRACK, each at 10 dB or better. -/
def cdTrusted (d : DspS) : Bool :=
  let ks := scs.filter fun k => (d.sc.get k).dueTrack
  decide (12 ≤ ks.length) && ks.all fun k => decide (1000 ≤ (d.sc.get k).snrX) && decide (1000 ≤ (d.sc.get k).snrY)

/-- QUALITY_WINDOW_POST (R97, R114, R137): the measurements and FEC statistics of the window that ended, with its
verdicts, both 0 for a window that a renumbering cut short; the dispersion estimate of the window, which is also one for the second
under way of Marten (R298), or none. -/
def execQualityWindowPost (l : Fin 2) (q : QualMeas) (s : State) : Res :=
  if s.up && (s.ds l).winDue then
    let s := s.each scs fun s k => s.onSc l k fun c =>
      { c with snrX := min (q.snrX.getD k 0) 0xFFFF, snrY := min (q.snrY.getD k 0) 0xFFFF, evm := min (q.evm.getD k 0) 0xFFFF,
               snrValid := c.dueTrack && !(s.ds l).winBroken, evmValid := c.dueTrack && c.dueCode && !(s.ds l).winBroken }
    let broken := (s.ds l).winBroken
    let cd := if cdTrusted (s.ds l) then some (10 * (s.ds l).cdBulk + q.slope) else none
    let s := match cd with
      | some v => s.onMar l fun m => { m with secIn := v :: m.secIn }
      | none => s
    let s := s.onFrm l fun f =>
      { f with post := f.dueWin, preValid := f.dueWin.allInFrame && !broken && f.dueWin.preBits != 0,
               qDb := qDbOf f.dueWin.preErr f.dueWin.preBits }
    .next (s.onDsp l fun d =>
      { d with winDue := false, winBroken := false, cdEst := cd })
  else .next s

/-- CD_RESIDUAL_ALARM (R98): after 1,000 ticks; the count of ticks begins again, so a residual that stays beyond raises it again
(DESIGN CHOICE, log entry 64). -/
def execCdResidualAlarm (l : Fin 2) (s : State) : Res :=
  if s.up && 1000 ≤ (s.ds l).residTicks then .next ((s.onDsp l fun d => { d with residTicks := 0 }).dspFault l 4) else .next s

/-- The half-width of the scan under way, ps/nm (R110). -/
def scanWidth (d : DspS) : Nat := if d.narrow then 2000 else d.scanSpan

/-- Ticks that the scan under way takes at 3,200 ps/nm per tick (Table 3-7). -/
def scanLength (d : DspS) : Nat := (2 * scanWidth d + 3199) / 3200

/-- A dispersion within what CD_BULK covers (R96) and the window that this scan covers (R110). -/
def inScan (d : DspS) (cd : Int) : Bool :=
  let centre := if d.narrow then d.cdBulk else d.scanCentre
  let span : Int := scanWidth d
  decide (-320000 ≤ cd) && decide (cd ≤ 320000) && decide (centre - span ≤ cd) && decide (cd ≤ centre + span)

/-- CD_SEARCH_SCAN_END (R109, R110): a peak within the scan leads to FREQ_ACQ; a scan that has covered its window without one has
failed and repeats, and three failed full scans raise ACQ_FAIL once in an episode. -/
def execCdSearchScanEnd (l : Fin 2) (peak : Option Int) (s : State) : Res :=
  let d := s.ds l
  if s.up && d.rxd == .cdSearch then
    match peak with
    | some cd =>
      if inScan d cd && decide (d.scanTicks ≤ scanLength d) then
        .next ((toRxd l .freqAcq s).onDsp l fun d => { d with cdBulk := cd, narrow := false, failedScans := 0, acqFailed := false })
      else .next s
    | none =>
      if d.scanTicks < scanLength d then .next s
      else
      let s := s.onDsp l fun d => { d with scanTicks := 0 }
      if d.narrow then .next (s.onDsp l fun d => { d with narrow := false })
      else if d.failedScans == 2 && !d.acqFailed then
        .next ((s.onDsp l fun d => { d with failedScans := 3, acqFailed := true }).dspFault l 1)
      else .next (s.onDsp l fun d => { d with failedScans := min (d.failedScans + 1) 3 })
  else .next s

/-- FREQ_OFFSET_FOUND (R109): within 8 ticks. -/
def execFreqOffsetFound (l : Fin 2) (kHz : Int) (s : State) : Res :=
  if s.up && (s.ds l).rxd == .freqAcq && (s.ds l).rxdTicks ≤ 8 then .next ((toRxd l .scAcq s).onDsp l fun d => { d with freqOfs := kHz }) else .next s

/-- FREQ_ACQ_TIMEOUT (R109): eight ticks without an offset. -/
def execFreqAcqTimeout (l : Fin 2) (s : State) : Res :=
  if s.up && (s.ds l).rxd == .freqAcq && 8 ≤ (s.ds l).rxdTicks then .next (enterSearch l false s) else .next s

/-- Some subcarrier of the line is in TRACK. -/
def anyTrack (d : DspS) : Bool := scs.any fun k => (d.sc.get k).rx == .track

/-- SC_ACQ_TIMEOUT (R109): 64 ticks with no subcarrier in TRACK. -/
def execScAcqTimeout (l : Fin 2) (s : State) : Res :=
  if s.up && (s.ds l).rxd == .scAcq && 64 ≤ (s.ds l).rxdTicks && !anyTrack (s.ds l) then .next (enterSearch l false s) else .next s

/-- RUN_TRACK_LOSS (R109, R111): the next scan is the narrow one (R110). -/
def execRunTrackLoss (l : Fin 2) (s : State) : Res :=
  if s.up && (s.ds l).rxd == .run && 64 ≤ (s.ds l).noTrack then .next (enterSearch l true s) else .next s

/-- RXD_CONV_STATE_CHANGE (R111). -/
def execRxdConvStateChange (l : Fin 2) (s : State) : Res :=
  if s.up && (s.cv l).rxChanged then
    let s := s.onConv l fun c => { c with rxChanged := false }
    match (s.cv l).rx with
    | .cal | .failed => if (s.ds l).rxd = .off ∧ !(s.cv l).powered then .next s else .next (leaveRx l .waitConv s)
    | .off => .next (leaveRx l .off s)
    | .ready | .degraded | .mcOnly => .next s
  else .next s

/-- PILOTS_DETECTED (R99, R112): a new acquisition of the subcarrier, with its banks at the identity. -/
def execPilotsDetected (l : Fin 2) (k : Fin 16) (s : State) : Res :=
  let d := s.ds l
  if s.up && (d.rxd == .scAcq || d.rxd == .run) && (d.sc.get k).rx == .off then
    .next ((scAcq l k s).onSc l k resetBanks)
  else .next s

/-- Firmware's first bank of an acquisition goes into the idle bank and is active at once (R43, R104). -/
def firstBank (b : Option (List Word)) (c : ScS) : ScS :=
  match b with
  | some ws => if c.active then { c with bankA := some ws, active := false, applied := true } else { c with bankB := some ws, active := true, applied := true }
  | none => c

/-- SC_TRACK_REACHED (R112, Table 3-8): over one full tick in ACQ, of the 64 there are, pilot sync, a valid announcement and pilot
SNR at LOCK_THR or better, and the first bank applied; the first subcarrier in TRACK takes the line to RUN. -/
def execScTrackReached (l : Fin 2) (k : Fin 16) (x : AcqIn) (s : State) : Res :=
  let d := s.ds l
  let c := firstBank x.bank (d.sc.get k)
  if s.up && ((d.rxd == .scAcq && decide (d.rxdTicks ≤ 64)) || d.rxd == .run) && c.rx == .acq && decide (1 ≤ c.acqTicks) && decide (c.acqTicks ≤ 64) &&
      x.sync && x.ann && c.applied && decide (10 * d.lockThr ≤ x.snr) then
    let s := s.onSc l k fun c => { firstBank x.bank c with rx := .track, lowTicks := 0, annBad := 0, annZero := false }
    if d.rxd = .scAcq then .next (toRxd l .run s) else .next s
  else .next s

/-- SC_ACQ_EXPIRE (R112). -/
def execScAcqExpire (l : Fin 2) (k : Fin 16) (s : State) : Res :=
  let c := (s.ds l).sc.get k
  if s.up && c.rx == .acq && 64 ≤ c.acqTicks then .next (scOff l k s) else .next s

/-- SC_TRACK_LOSS (R86, R112): after 4 ticks in a row of pilot SNR below LOSS_THR, or 16 invalid announcements in a row, to LOST,
with SC_LOST set; the next boundary takes it to ACQ. -/
def execScTrackLoss (l : Fin 2) (k : Fin 16) (s : State) : Res :=
  let c := (s.ds l).sc.get k
  if s.up && c.rx == .track && (decide (4 ≤ c.lowTicks) || decide (16 ≤ c.annBad)) then
    .next ((s.onSc l k fun c => { c with rx := .lost, annBad := 0 }).dspFault l 2)
  else .next s

/-! ### The boundary -/

/-- The warm-up, or the closing tick, of one subcarrier at a boundary (R91, R92). -/
def warmTick (c : ScS) : ScS :=
  if c.due then { c with due := false, warm := 0, codeTx := if c.closing then 0 else c.code, lit := c.lit && !c.closing, closing := false }
  else { c with warm := if c.warm ≤ 1 then c.warm else c.warm - 1 }

/-- The end of a fade of one subcarrier at a boundary (R102, R103). -/
def fadeTick (l k : Nat) (s : State) : State :=
  let c := (s.ds l).sc.get k
  if c.fadeDue then
    if c.slot = .pending then startSwap l k s else s.onSc l k fun c => { c with slot := .idle, fade := 0, fadeDue := false }
  else s.onSc l k fun c => { c with fade := if c.fade ≤ 1 then c.fade else c.fade - 1 }

/-- A staged swap starts, in step 2 of R28 with the FADE then in force (R89, R103). -/
def swapTurn (l : Nat) (s : State) : State :=
  s.each scs fun s k => if ((s.ds l).sc.get k).slot = .staged then startSwap l k s else s

/-- One subcarrier at a boundary: warm-up and closing, pilot SNR, states that last one tick, the window's verdicts. -/
def scTick (l k : Nat) (noPilots : Bool) (snr : Option Nat) (s : State) : State :=
  let low := match snr with
    | some x => decide (x < 10 * (s.ds l).lossThr)
    | none => false
  let s := s.onSc l k fun c =>
    { warmTick c with
             acqTicks := if c.rx = .acq then min (c.acqTicks + 1) 127 else 0,
             lowTicks := if c.rx == .track && low then min (c.lowTicks + 1) 7 else 0,
             winTrack := c.winTrack && c.rx == .track,
             winCode := c.winCode && c.rx == .track && c.codeRx != 0 }
  let c := (s.ds l).sc.get k
  if c.rx = .lost then scAcq l k s
  else if c.rx = .track ∧ c.annZero ∧ noPilots then scOff l k s
  else s

/-- The mean of a list of rotations. -/
def meanRot (xs : List (Int × Int × Int)) : Int × Int × Int :=
  (roundDiv (xs.map (·.1)).sum xs.length, roundDiv (xs.map (·.2.1)).sum xs.length, roundDiv (xs.map (·.2.2)).sum xs.length)

/-- The SOP trackers of a line over a tick (R100): each follows its pilot error terms, or with SOP_SHARE the mean of those of the
tracked subcarriers, by at most what MU lets it follow. Errors in the small-rotation form of three components (DESIGN CHOICE, log
entry 65). -/
def sopTick (l : Nat) (errs : List (Fin 32 × Int × Int × Int)) (s : State) : State :=
  let d := s.ds l
  let mine := errs.filter fun e => e.1.val / 16 == l
  let tracked := (mine.filter fun e => (d.sc.get (e.1.val % 16)).rx == .track).map (·.2)
  let lim : Int := d.sopLimit
  s.each mine fun s e => s.onSc l (e.1.val % 16) fun c =>
    let x := if d.sopShare && c.rx == .track then meanRot tracked else e.2
    if c.rx = .acq ∨ c.rx = .track then
      { c with sop := (c.sop.1 + clamp (-lim) lim x.1, c.sop.2.1 + clamp (-lim) lim x.2.1, c.sop.2.2 + clamp (-lim) lim x.2.2) }
    else c

/-- The quality window under way ends at this boundary (R114): its verdicts and FEC statistics wait to be posted. A window that this
very boundary has begun has not run, and leaves nothing. -/
def windowEnd (l : Nat) (broken : Bool) (s : State) : State :=
  let d := s.ds l
  if d.winOpen && decide (0 < d.winTicks) then
    let s := s.each scs fun s k => s.onSc l k fun c => { c with dueTrack := c.winTrack, dueCode := c.winCode }
    let s := s.onFrm l fun f => { f with dueWin := f.win, win := {} }
    s.onDsp l fun d => { d with winDue := true, winBroken := broken, winOpen := false, winTicks := 0 }
  else s.onDsp l fun d => { d with winOpen := false, winTicks := 0 }

/-- The tick number is a multiple of QUAL_AVG: a quality window begins at such a tick (R114). -/
def windowMark (s : State) (l : Nat) : Bool := s.tick.num % max (s.ds l).qualAvg 1 == 0

/-- A quality window begins with the new tick, where QUAL_AVG as now in force has it begin, and a window still under way ends there:
one whose QUAL_AVG has changed runs to the next multiple of the new value (DESIGN CHOICE, log entry 66). -/
def windowBegin (l : Nat) (s : State) : State :=
  if windowMark s l then
    let s := windowEnd l false s
    let s := s.each scs fun s k => s.onSc l k fun c => { c with winTrack := true, winCode := true }
    let s := s.onFrm l fun f => { f with win := {} }
    s.onDsp l fun d => { d with winOpen := true, winTicks := 0 }
  else s

/-- The residual dispersion is beyond 1,500 ps/nm (R98): the last estimate posted less CD_BULK; without an estimate it is taken to be
within (DESIGN CHOICE, log entry 64: R98 names no source). -/
def residualBeyond (d : DspS) : Bool :=
  match d.cdEst with
  | some cd => decide (15000 < (cd - 10 * d.cdBulk).natAbs)
  | none => false

/-- One line's DSP at a boundary (R84 to R114). -/
def dspTick (l : Nat) (i : TickIn) (s : State) : State :=
  let s := s.each scs fun s k =>
    scTick l k (i.noPilots.any fun x => x.val == 16 * l + k) ((i.snr.find? fun x => x.1.val == 16 * l + k).map (·.2)) (fadeTick l k s)
  let s := sopTick l i.sopErr s
  let s := s.onDsp l fun d =>
    { d with rxdTicks := min (d.rxdTicks + 1) 65535,
             scanTicks := if d.rxd = .cdSearch then min (d.scanTicks + 1) 255 else 0,
             winTicks := if d.winOpen then d.winTicks + 1 else 0,
             noTrack := if d.rxd = .run ∧ !anyTrack d then min (d.noTrack + 1) 65535 else 0,
             residTicks := if residualBeyond d then min (d.residTicks + 1) 65535 else 0 }
  let s := s.each (i.lineOfs.filter fun x => x.1.val == l) fun s x => s.onDsp l fun d =>
    if d.rxd = .run then { d with freqOfs := x.2.1, clkOfs := x.2.2 } else d
  let s := s.each (i.chanEst.filter fun x => x.1.val / 16 == l) fun s x => s.onSc l (x.1.val % 16) fun c =>
    if c.rx = .track then { c with chan := x.2.take 64 } else c
  let c := s.cv l
  match (s.ds l).rxd with
  | .off => if c.powered then toRxd l .waitConv s else s
  | .waitConv => if c.rx.runs then enterSearch l false s else s
  | _ => s

/-! ### Commands (Table 3-14) -/

/-- LINE_SC_CFG (R81, R83). -/
def cmdLineScCfg (_h : CmdHdr) (ws : List Word) (s : State) : CmdRes :=
  let w := wd ws 0
  let l := fld w 0 0
  let baud := fld w 31 24
  let slot := fld w 17 12
  let warm := fld (wd ws 1) 15 0
  needLen ws 2 <| need (onlyBits w 0xFF03F301) .badArg 0 <| need (baud ≤ 17 && 11 ≤ slot && slot ≤ 40) .badArg 0 <|
  need (2197 + 128 * baud ≤ 200 * slot) .badArg 0 <|
  need (onlyBits (wd ws 1) 0xFFFF && 32 ≤ warm && warm ≤ 1024) .badArg 1 <|
  need ((s.cv l).tx == .off && (s.cv l).rx == .off) .busy 0 <|
  stageOne s .scCfg l 0 ws

/-- The item of a subcarrier's loading: 16 x line + subcarrier. -/
def loadItem (l k : Nat) : Nat := 16 * l + k

/-- A staged loading word of a subcarrier, if any. -/
def stagedLoad (s : State) (l k : Nat) : Option Word :=
  (s.tick.staged.find? fun g => g.item == .load && g.idx == loadItem l k).map fun g => wd g.ws 0

/-- After the command and what is staged, SCk carries a nonzero code that is neither warming up nor closing (R93). -/
def carriesAfter (s : State) (l k : Nat) (new : Option Word) : Bool :=
  let c := (s.ds l).sc.get k
  match new.or (stagedLoad s l k) with
  | some w => fld w 3 0 != 0 && (!s.sends l || (c.lit && c.codeTx != 0))
  | none => c.code != 0 && !c.warming && !c.closing

/-- A loading word is in range (Table 3-4). -/
def loadWordOk (w : Word) : Bool :=
  onlyBits w 0xFF0F && fld w 3 0 != 7 && decide (-60 ≤ sfld w 15 8) && decide (sfld w 15 8 ≤ 30)

/-- LINE_LOAD_SET (R89, R93). Where both hold, BUSY of R89 goes before BAD_ARG of R93, whose test is about the state that the command
would leave (DESIGN CHOICE, log entry 67). -/
def cmdLineLoadSet (_h : CmdHdr) (ws : List Word) (s : State) : CmdRes :=
  let w := wd ws 0
  let l := fld w 0 0
  let mask := fld w 31 16
  let ks := onesOf 16 mask
  let bad := scs.find? fun k => if mask.testBit k then !loadWordOk (wd ws (k + 1)) else wd ws (k + 1) != 0
  needLen ws 17 <| need (onlyBits w 0xFFFF0001) .badArg 0 <| need bad.isNone .badArg (bad.getD 0 + 1) <|
  need (!(ks.any fun k => s.isStaged .load (loadItem l k) || ((s.ds l).sc.get k).warming || ((s.ds l).sc.get k).closing)) .busy 0 <|
  need (scs.any fun k => carriesAfter s l k (if mask.testBit k then some (wd ws (k + 1)) else none)) .badArg 0 <|
  .done (s.each ks fun s k => s.stage .load (loadItem l k) 0 [wd ws (k + 1)]) []

/-- LINE_EQ_LOAD (R103, R107): the shadow is written at the commit and a swap requested. -/
def cmdLineEqLoad (_h : CmdHdr) (ws : List Word) (s : State) : CmdRes :=
  let w := wd ws 0
  let l := fld w 0 0
  let k := fld w 7 4
  let slot := ((s.ds l).sc.get k).slot
  needLen ws 101 <| need (onlyBits w 0xF1) .badArg 0 <|
  need ((s.ds l).rxd == .scAcq || (s.ds l).rxd == .run) .busy 0 <|
  need (slot == .idle || slot == .fading) .busy 0 <|
  .done (s.onSc l k fun c => { c with shadow := some (ws.drop 1), slot := if c.slot = .idle then .staged else .pending }) []

/-- LINE_RX_CFG (Table 3-9). -/
def cmdLineRxCfg (_h : CmdHdr) (ws : List Word) (s : State) : CmdRes :=
  let w := wd ws 0
  let q := fld w 31 21
  let c := sword (wd ws 1)
  let span := (wd ws 2).toNat
  let w3 := wd ws 3
  needLen ws 4 <| need (onlyBits w 0xFFFF3F01 && 1 ≤ q && q ≤ 1024) .badArg 0 <|
  need (decide (-320000 ≤ c) && decide (c ≤ 320000)) .badArg 1 <| need (1000 ≤ span && span ≤ 320000) .badArg 2 <|
  need (onlyBits w3 0xFFFF && fld w3 15 8 < fld w3 7 0) .badArg 3 <|
  stageOne s .rxCfg (fld w 0 0) 0 ws

/-- LINE_RX_ACQ (R111). -/
def cmdLineRxAcq (_h : CmdHdr) (ws : List Word) (s : State) : CmdRes :=
  let l := fld (wd ws 0) 0 0
  needLen ws 1 <| need (onlyBits (wd ws 0) 1) .badArg 0 <|
  need ((s.ds l).rxd == .scAcq || (s.ds l).rxd == .run) .busy 0 <|
  stageOne s .rxAcq l 0 []

/-- LINE_EQ_READ (R116). -/
def cmdLineEqRead (_h : CmdHdr) (ws : List Word) (s : State) : CmdRes :=
  let w := wd ws 0
  let c := (s.ds (fld w 0 0)).sc.get (fld w 7 4)
  needLen ws 1 <| need (onlyBits w 0x3F1) .badArg 0 <|
  match fld w 9 8 with
  | 0 => .done s (c.activeBank.getD identityBank)
  | 1 => .done s (c.shadow.getD identityBank)
  | 2 => .done s ((c.chan ++ List.replicate 64 0).take 64)
  | _ => .fail .badArg 0

def execLineScCfg (h : CmdHdr) (ws : List Word) (s : State) : Res := .next (runCmd 0x0110 cmdLineScCfg h ws s)
def execLineLoadSet (h : CmdHdr) (ws : List Word) (s : State) : Res := .next (runCmd 0x0111 cmdLineLoadSet h ws s)
def execLineEqLoad (h : CmdHdr) (ws : List Word) (s : State) : Res := .next (runCmd 0x0112 cmdLineEqLoad h ws s)
def execLineRxCfg (h : CmdHdr) (ws : List Word) (s : State) : Res := .next (runCmd 0x0113 cmdLineRxCfg h ws s)
def execLineRxAcq (h : CmdHdr) (ws : List Word) (s : State) : Res := .next (runCmd 0x0114 cmdLineRxAcq h ws s)
def execLineEqRead (h : CmdHdr) (ws : List Word) (s : State) : Res := .next (runCmd 0x0115 cmdLineEqRead h ws s)

/-- A loading takes effect on one subcarrier (R89 to R92), and the common scale factor with it (R94). -/
def applyLoad (l k : Nat) (w : Word) (s : State) : State :=
  let code := fld w 3 0
  let warm := (s.ds l).warmup
  let sends := s.sends l
  let s := s.onSc l k fun c =>
    let c := { c with gain := sfld w 15 8, code := code }
    if !sends then { c with codeTx := code }
    else if !c.lit then (if code = 0 then c else { c with lit := true, codeTx := 0, warm := warm })
    else if code = 0 then { c with codeTx := 0, closing := true, warm := 1 }
    else { c with codeTx := code }
  s.onDsp l fun d => { d with scaleOf := scs.map fun k => ((d.sc.get k).code, (d.sc.get k).gain) }

/-- A staged line DSP item takes effect at its boundary. -/
def applyDsp (g : Staged) (s : State) : State :=
  match g.item with
  | .scCfg => s.onDsp g.idx fun d => { d with scCfg := g.ws }
  | .load => applyLoad (g.idx / 16) (g.idx % 16) (wd g.ws 0) s
  | .rxCfg => s.onDsp g.idx fun d => { d with rxCfg := g.ws }
  | .rxAcq => if (s.ds g.idx).rxd = .scAcq ∨ (s.ds g.idx).rxd = .run then enterSearch g.idx false s else s
  | _ => s

end Sys2Proof.Machine
end

