-- ==== Sys2Proof/Machine/Ecc.lean ====
section
/-! DEFINITION. Chapter 8: the 8 x 8 code, correction on read, write-back, the scrubber, hard faults and spares, poison, the flip
mask and the ECC commands; with the reading and writing of the Sett's granules that they protect. -/

namespace Sys2Proof.Machine

/-! ### The code (R238, R239) -/

/-- Parity of a byte. -/
def byteParity (b : Nat) : Nat := popcount 8 b % 2

/-- Byte r of a data word: row r. -/
def rowByte (d : BitVec 64) (r : Nat) : Nat := d.toNat / 2 ^ (8 * r) % 256

/-- The row checks (R238): R_r is the XOR of two adjacent row parities. -/
def rowChecks (d : BitVec 64) : Nat :=
  ((List.range 8).map fun r => (byteParity (rowByte d r) ^^^ byteParity (rowByte d ((r + 7) % 8))) * 2 ^ r).sum

/-- The column checks: the XOR of the rows. -/
def colChecks (d : BitVec 64) : Nat := (List.range 8).foldl (fun c r => c ^^^ rowByte d r) 0

/-- The check field of a data word (R238). -/
def checkOf (d : BitVec 64) : BitVec 16 := BitVec.ofNat 16 (rowChecks d * 256 + colChecks d)

/-- The syndrome of a stored word (R239). -/
def syndrome (d : BitVec 64) (c : BitVec 16) : BitVec 16 := c ^^^ checkOf d

/-- The meaning of a syndrome (Table 8-1). -/
inductive Decoded where
  | clean
  | chkBit
  | dataBit (i : Nat)
  | poison
  | uncorr
deriving DecidableEq, Repr

/-- The row whose two adjacent row checks are set, if the pattern is one row's. -/
def rowOf (sr : Nat) : Option Nat := (List.range 8).find? fun r => sr == 2 ^ r + 2 ^ ((r + 1) % 8)

/-- The syndrome decoded (Table 8-1). -/
def decodeSynd (x : BitVec 16) : Decoded :=
  let n := x.toNat
  if n = 0 then .clean
  else if n = 0xFFFF then .poison
  else if popcount 16 n = 1 then .chkBit
  else match rowOf (n / 256), popcount 8 (n % 256), lowestBit 8 (n % 256) with
    | some r, 1, some c => .dataBit (8 * r + c)
    | _, _, _ => .uncorr

/-- The data that a word delivers, none for poison. -/
def delivered (d : BitVec 64) (c : BitVec 16) : Option (BitVec 64) :=
  match decodeSynd (syndrome d c) with
  | .clean | .chkBit => some d
  | .dataBit i => some (d ^^^ BitVec.ofNat 64 (2 ^ i))
  | .poison | .uncorr => none

/-- The flag of ECC_TEST_ACCESS (R252): 0 clean, 1 corrected, 2 uncorrectable, 3 poison. -/
def Decoded.flag : Decoded → Nat
  | .clean => 0
  | .chkBit | .dataBit _ => 1
  | .uncorr => 2
  | .poison => 3

/-- A word poisoned (R249): the check field is the recomputed checks XOR 0xFFFF. -/
def poisoned (d : BitVec 64) : BitVec 64 × BitVec 16 := (d, checkOf d ^^^ 0xFFFF)

/-- A word as a correction leaves it in memory (R241, R249): corrected with fresh checks, or poisoned. -/
def settled (w : BitVec 64 × BitVec 16) : BitVec 64 × BitVec 16 :=
  match delivered w.1 w.2 with
  | some d => (d, checkOf d)
  | none => poisoned w.1

/-! ### Places -/

/-- The pseudo-channel of a granule (R209): g[5:0] XOR g[11:6]. -/
def granulePc (g : Nat) : Nat := (g % 64) ^^^ (g / 64 % 64)

/-- The stack of a granule. -/
def granuleStack (g : Nat) : Nat := granulePc g / 16

/-- The TARGET code of a granule's stack (Table 8-4). -/
def granuleTarget (g : Nat) : Nat := 16 + granuleStack g

/-- The row of an address within its target: 32 granules of one pseudo-channel, or 32 words of an SRAM. -/
def rowOfAddr (target addr : Nat) : Nat :=
  if 16 ≤ target then addr / 2048 * 64 + granulePc addr else addr / 32

/-- Words of an SRAM instance (Table 8-2). -/
def sramWords (i : Nat) : Nat :=
  match i with
  | 0 => 147456
  | 1 => 786432
  | 2 => 786432
  | 3 => 262144
  | 4 => 262144
  | 5 => 32768
  | 6 => 16384
  | _ => 131072

/-- The key of a word in the error masks. -/
def maskKey (inst idx : Nat) : Nat := 2 ^ 40 * inst + idx

/-- Granules of the data space. -/
def granules : Nat := 2 ^ 31

/-- Granules that a pseudo-channel serves, data space and metadata (R244). -/
def pcGranules : Nat := 40265319

/-- The pseudo-channel on which a protected unit lies: a data granule (inst 16), or a metadata granule (8, 9, 10). -/
def unitPc (inst u : Nat) : Nat :=
  match inst with
  | 8 => u % 16
  | 9 => 16 + u % 16
  | 10 => u % 64
  | _ => granulePc u

/-- The unit that a write-back stores (R241): an SRAM's word, a metadata granule of eight words. -/
def wbUnit (inst idx : Nat) : Nat := if inst < 8 then idx else idx / 8

/-- The target whose tracker, spares and counts a word belongs to: metadata lies on the stacks, its two copies on different ones (R240). -/
def instTarget (inst idx : Nat) : Nat := if inst < 8 then inst else 16 + unitPc inst (idx / 8) / 16

/-- The address by which a tracker and the scrubber know a word: metadata lies behind the data space. -/
def sramAddr (inst idx : Nat) : Nat :=
  match inst with
  | 8 => granules + idx
  | 9 => granules + 2 ^ 16 + idx
  | 10 => granules + 2 ^ 17 + idx
  | _ => idx

/-- The last address of a stack's pass: the last word of its slot records. -/
def scrubEnd : Nat := granules + 2 ^ 17 + 2 ^ 30 - 1

/-- Spares of a target (R247). -/
def spareCap (target : Nat) : Nat := if 16 ≤ target then 1024 else 4

/-- Tracker entries of a target (R246). -/
def trackCap (target : Nat) : Nat := if 16 ≤ target then 256 else 8

/-- The protected targets. -/
def targets : List Nat := [0, 1, 2, 3, 4, 5, 6, 7, 16, 17, 18, 19]

/-- A protected target. -/
def State.tgt (s : State) (t : Nat) : EccT := s.ecc.tgt.get t

/-! ### Reports (R246, R247, R250) -/

/-- ECC_LAST (Table 8-5). -/
def lastErr (kind target addr : Nat) (x : BitVec 16) (s : State) : State :=
  { s with ecc := { s.ecc with last0 := mkWord (kind * 2 ^ 28 + target * 2 ^ 16 + x.toNat), lastAddr := addr } }

/-- The lowest spare of a target that nothing has used (R247): an SRAM's fuse-map repair shares its four rows. -/
def freeSpare (t : Nat) (x : EccT) : Option Nat :=
  (List.range (spareCap t)).find? fun k => !(x.spares.any fun r => r.spare == k) && (16 ≤ t || !(x.fuses.any fun r => r.spare == k))

/-- The spare record of a row (Table 8-4): pseudo-channel, bank and row of a Sett row, or the row of an SRAM. -/
def mkSpare (t addr k origin : Nat) : SpareS :=
  if 16 ≤ t then { origin := origin, target := t, pc := granulePc addr % 16, bank := addr / 2048 % 64, row := addr / 131072, spare := k }
  else { origin := origin, target := t, row := addr / 32, spare := k }

/-- A hard fault's row goes to a spare, waits, or is lost (R247). -/
def remap (t addr : Nat) (s : State) : State :=
  let x := s.tgt t
  if x.copying.isSome then
    if x.queue.length < 8 then s.onTgt t fun x => { x with queue := x.queue ++ [addr] } else s.count 7 5 t 1
  else match freeSpare t x with
    | some k => s.onTgt t fun x => { x with spares := x.spares ++ [mkSpare t addr k 0], copying := some 0 }
    | none => s.eccFault 4

/-- The pass interval of a target in ticks (R244). -/
def passTicks (s : State) (t : Nat) : Nat := if 16 ≤ t then s.ecc.pass * 125000 else 125000

/-- A tracker entry has not expired (R246). -/
def trackLive (s : State) (t : Nat) (e : TrackS) : Bool := s.tick.count - e.tick ≤ passTicks s t

/-- A correction with syndrome x at an address enters the tracker (R246): the third one there is a hard fault. `rec` is the address as
ECC_LAST says it. -/
def track (t addr rec : Nat) (x : BitVec 16) (s : State) : State :=
  let now := s.tick.count
  let s := s.onTgt t fun y => { y with track := y.track.filter (trackLive s t) }
  let x' := s.tgt t
  match x'.track.find? fun e => e.addr == addr with
  | some e =>
    if 2 ≤ e.count then
      let s := s.onTgt t fun x => { x with track := x.track.filter fun f => rowOfAddr t f.addr != rowOfAddr t addr }
      let s := ((s.count 7 4 t 1).eccFault 1).log { cls := 1, src := 177, data := [mkWord addr, mkWord (addr / 2 ^ 32), mkWord t] }
      remap t addr (lastErr 2 t rec x s)
    else s.onTgt t fun x => { x with track := x.track.map fun f => if f.addr = addr then { f with count := f.count + 1 } else f }
  | none =>
    let full := trackCap t ≤ x'.track.length
    let s := s.onTgt t fun x => { x with track := (if full then x.track.drop 1 else x.track) ++ [{ addr := addr, tick := now, count := 1 }] }
    s.when full fun s => s.count 7 3 t 1

/-- A unit's write-back is pending on a target. -/
def wbPending (t inst u : Nat) (s : State) : Bool := (s.tgt t).wb.any fun w => w.inst == inst && w.addr == u

/-- One correction at an address (R241, R246): counted, tracked unless the write-back of its unit is already pending. -/
def corrected (t addr rec : Nat) (x : BitVec 16) (pend scrub : Bool) (s : State) : State :=
  let s := lastErr 1 t rec x (s.count 7 0 t 1)
  let s := s.when scrub fun s => s.onTgt t fun y => { y with passCorr := y.passCorr + 1 }
  if pend then s else track t addr rec x s

/-- Reserved transaction entries in use (R228, R229). -/
def eccHeld (s : State) : Nat := ([16, 17, 18, 19].map fun t => (s.tgt t).wb.countP (·.held)).sum

/-- A correction schedules the write-back of its unit (R241, R243): 256 wait on a stack at most, and each takes a reserved entry while
one is free. -/
def scheduleWb (t : Nat) (w : WbS) (s : State) : State :=
  if wbPending t w.inst w.addr s then s
  else if 16 ≤ t ∧ 256 ≤ (s.tgt t).wb.length then (s.count 7 2 t 1).eccFault 5
  else
    let h := decide (16 ≤ t) && decide (eccHeld s < 512)
    s.onTgt t fun x => { x with wb := x.wb ++ [{ w with held := h }] }

/-- A write commits to a unit whose write-back is pending (R242): it is cancelled and counted. -/
def cancelWb (t inst u : Nat) (s : State) : State :=
  s.when (wbPending t inst u s) fun s =>
    (s.onTgt t fun x => { x with wb := x.wb.filter fun w => !(w.inst == inst && w.addr == u) }).count 7 1 t 1

/-- A word found uncorrectable (R250): by a unit's read, or latent by the scrubber. -/
def uncorrected (t rec : Nat) (x : BitVec 16) (scrub : Bool) (s : State) : State :=
  if scrub then
    let s := lastErr 4 t rec x (s.count 7 6 t 1)
    let s := s.log { cls := 0, src := 179, data := [mkWord rec, mkWord (rec / 2 ^ 32), mkWord t] }
    let first := if 16 ≤ t then !(s.tgt t).latentTick else !((List.range 8).any fun i => (s.tgt i).latentTick)
    let s := s.onTgt t fun y => { y with latentTick := true, passLatent := y.passLatent + 1 }
    s.when first fun s => s.eccFault 3
  else lastErr 3 t rec x (s.eccFault 2)

/-! ### Granules of the Sett (R208, R240 to R243) -/

/-- The eight words of a granule. -/
def granuleOf (s : State) (g : Nat) : Granule :=
  let x := s.sett.mem.get g
  if x.isEmpty then List.replicate 8 (0, 0) else x

/-- The words stored into a granule, in the canonical form: all zero is the unlisted value. -/
def putGranule (g : Nat) (ws : Granule) (s : State) : State :=
  { s with sett := { s.sett with mem := s.sett.mem.set g (if ws.all fun w => w == (0, 0) then [] else ws) } }

/-- The flip mask corrupts this write (R251): armed for the target, and at the address when ADDR_EN is 1. -/
def flipHits (s : State) (target unit addr : Nat) : Bool :=
  let w := s.ecc.flipCtl
  flag w 31 && fld w 15 8 == target && (!flag w 4 || s.ecc.flipAddr.toNat / unit == addr / unit)

/-- The flip mask after its write: ARM cleared, DONE set, and the address written where ADDR_EN is 0. -/
def flipDone (addr : Nat) (s : State) : State :=
  let w := s.ecc.flipCtl
  { s with ecc := { s.ecc with flipCtl := (w &&& 0x7FFFFFFF) ||| 0x40000000,
                               flipAddr := if flag w 4 then s.ecc.flipAddr else BitVec.ofNat 64 addr } }

/-- A write of a granule (R208, R242, R251): fresh check bits, a pending write-back cancelled, the flip mask. -/
def settWrite (g : Nat) (ds : List (BitVec 64)) (s : State) : State :=
  let t := granuleTarget g
  let ws := ((ds ++ List.replicate 8 0).take 8).map fun d => (d, checkOf d)
  let s := cancelWb t 16 g s
  if flipHits s t 64 (64 * g) then
    let i := fld s.ecc.flipCtl 2 0
    let ws := ws.mapIdx fun j w => if j = i then (w.1 ^^^ s.ecc.flipData, w.2 ^^^ s.ecc.flipChk) else w
    flipDone (64 * g) (putGranule g ws s)
  else putGranule g ws s

/-- What reading a word did to the device (R239, R249, R250): `wb` says that a write-back is due. -/
def readWord (g i : Nat) (scrub : Bool) (w : BitVec 64 × BitVec 16) (a : State × List (BitVec 64 × BitVec 16) × Bool) :
    State × List (BitVec 64 × BitVec 16) × Bool :=
  let t := granuleTarget g
  let x := syndrome w.1 w.2
  let adr := 64 * g + 8 * i
  match decodeSynd x with
  | .clean => (a.1, a.2.1 ++ [w], a.2.2)
  | .chkBit | .dataBit _ => (corrected t g adr x (wbPending t 16 g a.1) scrub a.1, a.2.1 ++ [w], true)
  | .uncorr => (uncorrected t adr x scrub a.1, a.2.1 ++ [poisoned w.1], a.2.2)
  | .poison => (if scrub then a.1 else lastErr 5 t adr x (a.1.count 7 7 t 1), a.2.1 ++ [w], a.2.2)

/-- A granule is read (R239 to R243): corrections schedule its write-back, uncorrectable words are poisoned. The state and
the words as they were read. -/
def settRead (g : Nat) (scrub : Bool) (s : State) : State × Granule :=
  let ws := granuleOf s g
  let t := granuleTarget g
  let r := (ws.zipIdx).foldl (fun a p => readWord g p.2 scrub p.1 a) (s, [], false)
  let s := if r.2.1 = ws then r.1 else putGranule g r.2.1 r.1
  (if r.2.2 then scheduleWb t { addr := g, words := ws.map settled } s else s, ws)

/-- The data of a granule as delivered, none when any word is poison (R239). -/
def granuleData (ws : Granule) : Option (List (BitVec 64)) :=
  ws.foldr (fun w a => match delivered w.1 w.2, a with
    | some d, some ds => some (d :: ds)
    | _, _ => none) (some [])

/-! ### On-chip SRAMs and metadata (R240 to R242, Table 8-2)

An SRAM's contents are its owner's own fields; `ecc.sram` holds only the bit errors of a word, relative to the word and check
field that were written. A read that takes a word with errors for another word leaves that word in the owner's fields (`flipStored`).
Instances 8 and 9 are the two copies of the free map and class accounting, 10 the slot records. The manual names the memories and not
the layout of their words, which is the model's (DESIGN CHOICE, log entry 30). -/

/-- The errors of one word. -/
def sramMask (s : State) (inst idx : Nat) : BitVec 64 × BitVec 16 := s.ecc.sram.get (maskKey inst idx)

/-- Set the errors of one word. -/
def putMask (inst idx : Nat) (m : BitVec 64 × BitVec 16) (s : State) : State :=
  { s with ecc := { s.ecc with sram := s.ecc.sram.set (maskKey inst idx) m } }

/-- The syndrome of a word with these errors: the code is linear. -/
def maskSynd (m : BitVec 64 × BitVec 16) : BitVec 16 := m.2 ^^^ checkOf m.1

/-- What a read makes of a word with these errors: how the word delivered differs from the word written, none for poison. -/
def residual (m : BitVec 64 × BitVec 16) : Option (BitVec 64) := delivered m.1 m.2

/-- The word cannot be delivered. -/
def maskBad (m : BitVec 64 × BitVec 16) : Bool := (residual m).isNone

/-- The words of an instance that hold errors, from index lo, n of them, ascending. -/
def badWords (s : State) (inst lo n : Nat) : List Nat :=
  (s.ecc.sram.keys.filter fun k => maskKey inst lo ≤ k && k < maskKey inst (lo + n)).map fun k => k - maskKey inst 0

/-- How the words that a read of a run delivers differ from those written: word and difference. -/
def memFlips (s : State) (inst lo n : Nat) : List (Nat × BitVec 64) :=
  (badWords s inst lo n).filterMap fun i => match residual (sramMask s inst i) with
    | some d => if d = 0 then none else some (i, d)
    | none => none

/-- Byte j of a 64-bit difference. -/
def diffByte (d : BitVec 64) (j : Nat) : Byte := BitVec.ofNat 8 (d.toNat / 2 ^ (8 * j))

/-- Bytes with the eight from `off` on changed. -/
def flipBytes (off : Nat) (d : BitVec 64) (bs : List Byte) : List Byte :=
  bs.mapIdx fun j b => if off ≤ j ∧ j < off + 8 then b ^^^ diffByte d (j - off) else b

/-- The 8-byte header of a cell (Table 1-4). -/
def cellHdr (c : Cell) : Nat :=
  c.flow % 8192 * 2 ^ 51 + c.seq % 2 ^ 32 * 2 ^ 19 + bitAt c.slot 18 + bitAt c.idle 17 + c.fptr % 256 * 256 + c.valid % 256

/-- The 256 bytes of a cell (R32). -/
def cellBytes (c : Cell) : List Byte := beBytes 8 (cellHdr c) ++ (c.payload ++ List.replicate 248 0).take 248

/-- A cell from its bytes. -/
def cellOf (bs : List Byte) : Cell :=
  let h := beNat (bs.take 8)
  { flow := bitsOf h 63 51, seq := bitsOf h 50 19, slot := h.testBit 18, idle := h.testBit 17, fptr := bitsOf h 15 8, valid := bitsOf h 7 0,
    payload := (bs.drop 8).take 248 }

/-- A cell with word w of its 32 words changed. -/
def flipCell (w : Nat) (d : BitVec 64) (c : Cell) : Cell := cellOf (flipBytes (8 * w) d (cellBytes c))

/-- The 288 bits of a key half: key, then salt. -/
def halfBits (h : HalfS) : Nat := h.key.toNat + h.salt.toNat * 2 ^ 256

/-- A half with these bits changed. -/
def flipHalf (n : Nat) (h : HalfS) : HalfS := { h with key := h.key ^^^ BitVec.ofNat 256 n, salt := h.salt ^^^ BitVec.ofNat 32 (n / 2 ^ 256) }

/-- Word i of an association's 18 words of the key store changes: its halves lie one behind the other. -/
def flipSa (i : Nat) (d : BitVec 64) (a : SaS) : SaS :=
  let n := d.toNat * 2 ^ (64 * i)
  { a with txCur := flipHalf (n % 2 ^ 288) a.txCur, txNxt := flipHalf (n / 2 ^ 288 % 2 ^ 288) a.txNxt
           rxCur := flipHalf (n / 2 ^ 576 % 2 ^ 288) a.rxCur, rxNxt := flipHalf (n / 2 ^ 864 % 2 ^ 288) a.rxNxt }

/-- A word of a class queue's 1,024 places changes. -/
def flipQueue (l i : Nat) (d : BitVec 64) (s : State) : State :=
  s.onFrm l fun f =>
    let c := i / 32768
    let n := (i / 32 % 1024 + 1024 - f.qHead.get c % 1024) % 1024
    { f with queue := f.queue.upd c fun q => q.mapIdx fun j x => if j = n then flipCell (i % 32) d x else x }

/-- A word of a key-table entry changes: its key word, or its flow. -/
def flipKey (i : Nat) (d : BitVec 64) (s : State) : State :=
  { s with cl := { s.cl with keys := s.cl.keys.upd (i / 2) fun e => e.map fun e =>
      if i % 2 = 0 then (e.1 ^^^ d, e.2) else (e.1, (e.2 ^^^ d.toNat) % 8192) } }

/-- The eight words of a log entry (Table 12-15). -/
def logWords (e : LogEnt) : List Word :=
  let sec := e.time / secUnits
  [mkWord (e.time % secUnits / nsUnits), mkWord sec, mkWord (e.time % nsUnits * 2 ^ 16 + sec / 2 ^ 32 % 2 ^ 16), mkWord e.seq,
   mkWord (e.cls * 2 ^ 28 + bitAt e.carried 27 + bitAt e.fw 26 + e.src % 512 * 2 ^ 16 + e.code % 2 ^ 16),
   wd e.data 0, wd e.data 1, wd e.data 2]

/-- A log entry from its eight words. -/
def logOf (e : LogEnt) (ws : List Word) : LogEnt :=
  let w (i : Nat) : Nat := (wd ws i).toNat
  { e with time := (w 2 % 2 ^ 16 * 2 ^ 32 + w 1) * secUnits + w 0 * nsUnits + w 2 / 2 ^ 16, seq := w 3
           cls := w 4 / 2 ^ 28, carried := (w 4).testBit 27, fw := (w 4).testBit 26, src := bitsOf (w 4) 24 16, code := bitsOf (w 4) 15 0
           data := [wd ws 5, wd ws 6, wd ws 7] }

/-- The first of the four words of an entry in the event log's SRAM. -/
def logWord (seq : Nat) : Nat := 4 * (seq % 4096)

/-- A word of the event log changes. -/
def flipLog (i : Nat) (d : BitVec 64) (s : State) : State :=
  let flip (e : LogEnt) : LogEnt :=
    logOf e ((logWords e).mapIdx fun j w => if j / 2 = i % 4 then w ^^^ mkWord (d.toNat / 2 ^ (32 * (j % 2))) else w)
  { s with cmd := { s.cmd with log := s.cmd.log.map fun e => if logWord e.seq = i / 4 * 4 then flip e else e } }

/-- The state of a slot record by its two bits. -/
def SlotState.code : SlotState → Nat
  | .empty => 0
  | .held => 1
  | .weak => 2

/-- The slot state of a code. -/
def slotStateOf (n : Nat) : SlotState :=
  match n with
  | 1 => .held
  | 2 => .weak
  | _ => .empty

/-- A slot record with one of its two words changed: SEQ and release tick, or state, line and epoch (R214). -/
def flipSlot (w : Nat) (d : BitVec 64) (x : SlotS) : SlotS :=
  if w = 0 then { x with seq := x.seq ^^^ (d.toNat % 2 ^ 32), rel := x.rel ^^^ (d.toNat / 2 ^ 32) }
  else
    let n := (x.st.code + x.line % 2 * 4 + x.epoch % 65536 * 8) ^^^ d.toNat
    { x with st := slotStateOf (n % 4), line := n / 4 % 2, epoch := n / 8 % 65536 }

/-- A word of the slot records changes: in the ring that holds its slot. -/
def flipRecord (i : Nat) (d : BitVec 64) (s : State) : State :=
  let n := i / 2
  s.each (s.sett.merge.keys.filter fun f => 256 * (s.mg f).base ≤ n && n < 256 * ((s.mg f).base + (s.mg f).ringU)) fun s f =>
    s.onMg f fun m => { m with slots := m.slots.upd (n - 256 * m.base) (flipSlot (i % 2) d) }

/-- A read has taken a word for another one, which its owner now holds. The frame memories and the control processor's buffers are
written afresh before each use, and the free map and class accounting have no other contents than the allocations themselves. -/
def flipStored (inst idx : Nat) (d : BitVec 64) (s : State) : State :=
  match inst with
  | 0 => s.onSa (idx / 18) (flipSa (idx % 18) d)
  | 3 => flipQueue 0 idx d s
  | 4 => flipQueue 1 idx d s
  | 5 => flipKey idx d s
  | 6 => flipLog idx d s
  | 10 => flipRecord idx d s
  | _ => s

/-- The word delivered differs by d from the one written: the contents follow, and the errors are those left against it. -/
def misread (inst idx : Nat) (d : BitVec 64) (s : State) : State :=
  if d = 0 then s
  else
    let m := sramMask s inst idx
    putMask inst idx (m.1 ^^^ d, m.2 ^^^ checkOf d) (flipStored inst idx d s)

/-- The errors that the words of a unit have when its write-back has stored what a read of it delivers. -/
def unitLeft (inst u : Nat) (s : State) : List (BitVec 64 × BitVec 16) :=
  if inst < 8 then []
  else (List.range 8).map fun j => let m := sramMask s inst (8 * u + j); if maskBad m then poisoned m.1 else (0, 0)

/-- A word is read (R239, R241, R249, R250): whether it is delivered, and the state. A correction schedules its write-back. -/
def sramRead (inst idx : Nat) (scrub : Bool) (s : State) : Bool × State :=
  let m := sramMask s inst idx
  let t := instTarget inst idx
  let u := wbUnit inst idx
  let x := maskSynd m
  let adr := sramAddr inst idx
  match residual m with
  | some d =>
    let s := misread inst idx d s
    if x = 0 then (true, s)
    else (true, scheduleWb t { inst := inst, addr := u, words := unitLeft inst u s } (corrected t adr adr x (wbPending t inst u s) scrub s))
  | none =>
    if decodeSynd x = .poison then (false, if scrub then s else lastErr 5 t adr x (s.count 7 7 t 1))
    else (false, putMask inst idx (poisoned m.1) (uncorrected t adr x scrub s))

/-- A parity error of a small SRAM meets its owner's access (R240): SRAM_PAR, and the access fails. -/
def parityTurn (inst : Nat) (s : State) : Bool × State :=
  if s.ecc.parity.any fun a => a % 8 == inst then
    (false, State.eccFault { s with ecc := { s.ecc with parity := s.ecc.parity.filter fun a => a % 8 != inst } } 7)
  else (true, s)

/-- A unit reads a run of words: whether all of them are delivered, and the state. -/
def sramUse (inst lo n : Nat) (s : State) : Bool × State :=
  (badWords s inst lo n).foldl (fun a i => let r := sramRead inst i false a.2; (a.1 && r.1, r.2)) (parityTurn inst s)

/-- The address of a written word in ECC_FLIP_ADDR: an SRAM's word index, or a byte address behind the data space. -/
def flipAddrOf (inst idx : Nat) : Nat := if inst < 8 then idx else 64 * granules + 8 * (sramAddr inst idx - granules)

/-- The word of a run of writes that the flip mask corrupts (R251), none when it does not match: an SRAM's first word or the one at
ECC_FLIP_ADDR; on a stack word WORD of the granule. -/
def flipTarget (inst lo n : Nat) (s : State) : Option Nat :=
  let w := s.ecc.flipCtl
  let at_ (a : Nat) : Option Nat := if lo ≤ a ∧ a < lo + n then some a else none
  if inst < 8 then
    let a := if flag w 4 then s.ecc.flipAddr.toNat else lo
    if flipHits s inst 1 a then at_ a else none
  else if flag w 4 then none
  else if flipHits s (instTarget inst lo) 1 0 then some (lo / 8 * 8 + fld w 2 0)
  else none

/-- A unit writes a run of words (R242, R249, R251): they are whole again, a write-back that waits for one is cancelled, and the flip
mask may corrupt one of them. -/
def sramWrite (inst lo n : Nat) (s : State) : State :=
  let t := instTarget inst lo
  let us := ((s.tgt t).wb.filter fun w => w.inst == inst && wbUnit inst lo ≤ w.addr && w.addr ≤ wbUnit inst (lo + n - 1)).map (·.addr)
  let s := s.each us fun s u => cancelWb t inst u s
  let s := s.each (badWords s inst lo n) fun s i => putMask inst i (0, 0) s
  match flipTarget inst lo n s with
  | some a => flipDone (flipAddrOf inst a) (putMask inst a (s.ecc.flipData, s.ecc.flipChk) s)
  | none => s

/-- A word of one copy of the free map or class accounting that is bad is rebuilt from the other copy; with both bad the word is
lost (R240). -/
def metaRepair (idx : Nat) (s : State) : State :=
  let a := maskBad (sramMask s 8 idx)
  let b := maskBad (sramMask s 9 idx)
  if a && b then (s.eccFault 6).send 0 2 idx 0
  else if a then putMask 8 idx (0, 0) s
  else if b then putMask 9 idx (0, 0) s
  else s

/-- The free map's word of a 64 KB unit of the merge region, and the accounting word of a class in a direction. -/
def mapWord (u : Nat) : Nat := u / 64 % 32768
def acctWord (rx : Bool) (c : Nat) : Nat := 32768 + (if rx then 8 else 0) + c

/-- The controller reads a word of the free map or class accounting (R240): the first copy, and the other where that is poison. -/
def metaUse (idx : Nat) (s : State) : State :=
  let a := sramRead 8 idx false s
  if a.1 then a.2 else metaRepair idx (sramRead 9 idx false a.2).2

/-- The controller changes a run of words of the free map or class accounting: it reads them and writes both copies. -/
def metaWrite (lo n : Nat) (s : State) : State :=
  let s := s.each (badWords s 8 lo n) fun s i => metaUse i s
  sramWrite 9 lo n (sramWrite 8 lo n s)

/-- A write-back stores the corrected unit with fresh checks (R241); it never meets the flip mask. -/
def performWb (w : WbS) (s : State) : State :=
  if w.inst = 16 then putGranule w.addr w.words s
  else if w.inst < 8 then putMask w.inst w.addr (0, 0) s
  else s.each w.words.zipIdx fun s p => putMask w.inst (8 * w.addr + p.2) p.1 s

/-- The pseudo-channel that a stack's write-back goes to. -/
def WbS.pc (w : WbS) : Nat := unitPc w.inst w.addr

/-- Write-backs with an entry that wait for a pseudo-channel. -/
def wbWaiting (s : State) (pc : Nat) : Nat := (s.tgt (16 + pc / 16)).wb.countP fun w => w.held && w.pc == pc

/-- ECC cycles of a pseudo-channel in a tick (R231, R244). -/
def eccCycles : Nat := 80

/-- An ECC cycle of a pseudo-channel is used. -/
def useEcc (pc n : Nat) (s : State) : State := { s with ecc := { s.ecc with used := s.ecc.used.upd pc (· + n) } }

/-- One write-back leaves a target's queue and is stored. -/
def takeWb (t : Nat) (w : WbS) (s : State) : State := performWb w (s.onTgt t fun x => { x with wb := x.wb.erase w })

/-- ECC_WRITE_BACK (R241): the oldest write-back of a stack that has an entry and a free ECC cycle of its pseudo-channel, or the oldest of an SRAM. -/
def execEccWriteBack (target : Fin 20) (s : State) : Host.Outcome State Fault Refusal :=
  let t := target.val
  match (s.tgt t).wb.find? fun w => t < 16 || (w.held && decide (s.ecc.used.get w.pc < eccCycles)) with
  | some w =>
    if s.up && (decide (t < 16) || s.sett.st == .ready) then .next (takeWb t w (s.when (16 ≤ t) (useEcc w.pc 1)))
    else .next s
  | none => .next s

/-- Freed entries go to the write-backs that wait for one, stack by stack, oldest first (R229, R243). -/
def giveEntries (s : State) : State :=
  s.each [16, 17, 18, 19] fun s t => s.each (s.tgt t).wb fun s w =>
    if !w.held && decide (eccHeld s < 512) then s.onTgt t fun x => { x with wb := x.wb.map fun v => if v = w then { v with held := true } else v } else s

/-- The SRAMs' write-backs, each done within 16 cycles of its read (R241). -/
def sramFlush (s : State) : State := s.each (List.range 8) fun s t => s.each (s.tgt t).wb fun s w => takeWb t w s

/-- Stored words suffer bit errors (R239): targets 0 to 10 the masks above, 12 to 15 a parity SRAM of the owner addr mod 8, 16 and above
a granule. -/
def applyUpset (u : Upset) (s : State) : State :=
  if u.target ≤ 10 then
    let m := sramMask s u.target u.addr
    putMask u.target u.addr (m.1 ^^^ u.data, m.2 ^^^ u.chk) s
  else if u.target < 16 then { s with ecc := { s.ecc with parity := s.ecc.parity ++ [u.addr] } }
  else if u.addr < granules then
    putGranule u.addr ((granuleOf s u.addr).mapIdx fun j w => if j = u.word.val then (w.1 ^^^ u.data, w.2 ^^^ u.chk) else w) s
  else s

/-! ### The scrubber and the trackers (R244 to R246) -/

/-- The pass of a target ends (R245): PASSES counts, and a stack's pass is logged. -/
def endPass (t : Nat) (s : State) : State :=
  let x := s.tgt t
  let s := s.when (16 ≤ t) fun s => s.log { cls := 0, data := [mkWord x.passCorr, mkWord x.passLatent, mkWord t] }
  s.onTgt t fun x => { x with pos := 0, passes := min (x.passes + 1) (if 16 ≤ t then 0xFFFF else 0xFFFFFFFF), passCorr := 0, passLatent := 0 }

/-- The quota of a pseudo-channel per tick (R244). -/
def scrubQuota (pass : Nat) : Nat := (pcGranules + pass * 125000 - 1) / (pass * 125000)

/-- Words of an SRAM that a tick of its one-second pass covers (R244). -/
def sramPace (t : Nat) : Nat := (sramWords t + 124999) / 125000

/-- Granules below g that a pseudo-channel serves (R209). -/
def pcBelow (pc g : Nat) : Nat := g / 64 + (if (pc ^^^ (g / 64 % 64)) < g % 64 then 1 else 0)

/-- Granules of a pseudo-channel from address lo up to hi, not included: of the data space, and of the metadata behind it. -/
def pcSpan (pc lo hi : Nat) : Nat :=
  (pcBelow pc (min hi granules) - pcBelow pc (min lo granules)) + ((hi - granules) - (lo - granules) + 511) / 512

/-- The Sett scrubber runs (R245). -/
def scrubRuns (s : State) : Bool := s.sett.st == .ready && s.ecc.enable && s.ecc.started

/-- The pseudo-channels of a stack. -/
def stackPcs (t : Nat) : List Nat := (List.range 16).map fun k => 16 * (t - 16) + k

/-- A stack's scrubber has not met the quota of the tick (R244). -/
def scrubBehind (s : State) (t : Nat) : Bool := scrubRuns s && (stackPcs t).any fun pc => s.ecc.scrubbed.get pc < s.ecc.quota

/-- The reads from pos to addr lie within each pseudo-channel's quota and its ECC cycles behind write-backs (R231, R244). -/
def scrubFits (s : State) (t pos addr : Nat) : Bool :=
  (stackPcs t).all fun pc =>
    let n := pcSpan pc pos (addr + 1)
    s.ecc.scrubbed.get pc + n ≤ s.ecc.quota && s.ecc.used.get pc + wbWaiting s pc + n ≤ eccCycles

/-- The reads are taken from the quotas and the ECC cycles. -/
def scrubTake (t pos addr : Nat) (s : State) : State :=
  s.each (stackPcs t) fun s pc =>
    let n := pcSpan pc pos (addr + 1)
    useEcc pc n { s with ecc := { s.ecc with scrubbed := s.ecc.scrubbed.upd pc (· + n) } }

/-- The metadata words of a stack with errors, from address lo up to hi, not included: instance and index. -/
def badMeta (s : State) (t lo hi : Nat) : List (Nat × Nat) :=
  (s.ecc.sram.keys.map fun k => (k / 2 ^ 40, k % 2 ^ 40)).filter fun p =>
    8 ≤ p.1 && p.1 ≤ 10 && instTarget p.1 p.2 == t && lo ≤ sramAddr p.1 p.2 && sramAddr p.1 p.2 < hi

/-- The scrubber reads a metadata word: a copy of the free map or class accounting that is bad is rebuilt (R240). -/
def scrubMeta (p : Nat × Nat) (s : State) : State :=
  let s := (sramRead p.1 p.2 true s).2
  if p.1 = 10 then s else metaRepair p.2 s

/-- SCRUB_READ (R244, R245): the scrubber reads from its position to `addr`, within its quotas. Granules and words that hold nothing and
no error read clean; `up` are the errors that had come about. -/
def execScrubRead (target : Fin 20) (addr : Nat) (up : List Upset) (s : State) : Host.Outcome State Fault Refusal :=
  let t := target.val
  let x := s.tgt t
  if t < 8 then
    let n := addr + 1 - x.pos
    if s.up && x.pos ≤ addr && addr < sramWords t && s.ecc.scrubbed.get (64 + t) + n ≤ s.ecc.sramTicks * sramPace t then
      let s := s.each up fun s u => applyUpset u s
      let s := { s with ecc := { s.ecc with scrubbed := s.ecc.scrubbed.upd (64 + t) (· + n) } }
      let s := s.each (badWords s t x.pos n) fun s i => (sramRead t i true s).2
      .next (if addr + 1 = sramWords t then endPass t s else s.onTgt t fun x => { x with pos := addr + 1 })
    else .next s
  else if 16 ≤ t && s.up && scrubRuns s && x.pos ≤ addr && addr ≤ scrubEnd && (granules ≤ addr || granuleTarget addr == t) && scrubFits s t x.pos addr then
    let s := s.each up fun s u => applyUpset u s
    let s := scrubTake t x.pos addr s
    let gs := s.sett.mem.keys.filter fun g => x.pos ≤ g && g ≤ addr && granuleTarget g == t
    let s := s.each gs fun s g => (settRead g true s).1
    let s := s.each (badMeta s t x.pos (addr + 1)) fun s p => scrubMeta p s
    .next (if addr = scrubEnd then endPass t s else s.onTgt t fun x => { x with pos := addr + 1 })
  else .next s

/-- TRACKER_EXPIRE (R246): entries older than the pass interval go. -/
def execTrackerExpire (target : Fin 20) (s : State) : Host.Outcome State Fault Refusal :=
  let t := target.val
  if s.up && targets.contains t then
    .next (s.onTgt t fun x => { x with track := x.track.filter (trackLive s t) })
  else .next s

/-! ### Row remap (R247, R248) -/

/-- An address of a target lies in the row of a spare record. -/
def inRow (r : SpareS) (t addr : Nat) : Bool :=
  let m := mkSpare t addr 0 0
  t == r.target && m.pc == r.pc && m.bank == r.bank && m.row == r.row

/-- The same row. -/
def SpareS.sameRow (a b : SpareS) : Bool := a.target == b.target && a.pc == b.pc && a.bank == b.bank && a.row == b.row

/-- The entry whose copy has finished is in force, and an earlier spare of the row is not used again. -/
def spareValid (xs : List SpareS) : List SpareS :=
  match xs.getLast? with
  | some r => (xs.dropLast.map fun q => if q.sameRow r then { q with valid := false } else q) ++ [{ r with valid := true }]
  | none => []

/-- The hard faults that wait start their row's copy, up to the first that finds a spare (R247). -/
def nextCopy (t : Nat) : Nat → State → State
  | 0, s => s
  | n + 1, s =>
    if (s.tgt t).copying.isSome then s
    else match (s.tgt t).queue with
      | a :: q => nextCopy t n (remap t a (s.onTgt t fun x => { x with queue := q }))
      | [] => s

/-- The row copy of a target takes effect, and a hard fault that waits starts its own. -/
def finishCopy (t : Nat) (s : State) : State :=
  let s := s.onTgt t fun x => { x with spares := spareValid x.spares, copying := none, copyDone := false }
  nextCopy t (s.tgt t).queue.length s

/-- A word with errors is copied to a spare row: corrected on its way, or poisoned (R247, R249). No unit reads it. -/
def copyWord (inst idx : Nat) (s : State) : State :=
  let m := sramMask s inst idx
  match residual m with
  | some d => putMask inst idx (0, 0) (misread inst idx d s)
  | none => putMask inst idx (poisoned m.1) s

/-- ROW_REMAP_COPY_DONE (R247, Table 8-3): each granule of the row has been corrected on its way; a stack's entry is valid from
the next boundary, an SRAM's at once. -/
def execRowRemapCopyDone (target : Fin 20) (s : State) : Host.Outcome State Fault Refusal :=
  let t := target.val
  let x := s.tgt t
  match x.copying, x.spares.getLast? with
  | some n, some r =>
    if s.up && !x.copyDone then
      if t < 16 then .next (finishCopy t (s.each ((badWords s t 0 (sramWords t)).filter (inRow r t)) fun s i => copyWord t i s))
      else if s.sett.st == .ready && 1 ≤ n then
        let s := s.each (s.sett.mem.keys.filter fun g => inRow r (granuleTarget g) g) fun s g => putGranule g ((granuleOf s g).map settled) s
        let s := s.each ((badMeta s t granules (scrubEnd + 1)).filter fun p => inRow r t (sramAddr p.1 p.2)) fun s p => copyWord p.1 p.2 s
        .next (s.onTgt t fun x => { x with copyDone := true })
      else .next s
    else .next s
  | _, _ => .next s

/-- A record is in force already: a fuse-map row, or a valid spare (R248). -/
def spareInForce (s : State) (r : SpareS) : Bool :=
  r.origin == 2 || ((s.tgt r.target).fuses.any fun q => q.sameRow r) || (s.tgt r.target).spares.any fun q => q.sameRow r && q.valid

/-- The spare that a loaded record takes: its own when nothing uses it, else the lowest free one. -/
def spareFor (x : EccT) (r : SpareS) : Option Nat :=
  if r.spare < spareCap r.target && !(x.spares.any fun q => q.spare == r.spare) && (16 ≤ r.target || !(x.fuses.any fun q => q.spare == r.spare)) then
    some r.spare
  else freeSpare r.target x

/-- The next record of a load (R254): skipped, started, or the load ends because the table is full. -/
def loadNext (s : State) : State :=
  match s.ecc.loading with
  | r :: rs =>
    let x := s.tgt r.target
    if spareInForce s r || !r.valid then { s with ecc := { s.ecc with loading := rs } }
    else if x.copying.isSome then s
    else match spareFor x r with
      | some k =>
        let s := { s with ecc := { s.ecc with loading := rs, loaded := s.ecc.loaded + 1 } }
        s.onTgt r.target fun x => { x with spares := x.spares ++ [{ r with origin := 1, spare := k, valid := false }], copying := some 0 }
      | none => { s with ecc := { s.ecc with loading := [], loadFull := true } }
  | [] => s

/-- A record is applied before CLEAR, when no row holds data (R248): in force at once. -/
def spareNow (r : SpareS) (s : State) : State :=
  if spareInForce s r || !r.valid then s
  else match spareFor (s.tgt r.target) r with
    | some k => s.onTgt r.target fun x => { x with spares := x.spares ++ [{ r with spare := k, valid := true }] }
    | none => s

/-- The records of a load go on while the Sett is READY (R254). -/
def loadTurn (s : State) : State :=
  if s.sett.st = .ready then s.each (List.range (s.ecc.loading.length)) fun s _ => loadNext s else s

/-- Stored-data protection at the end of a tick: row copies that have finished, and what each scrubber left of its quota. -/
def eccTick (s : State) : State :=
  let s := s.each targets fun s t => s.onTgt t fun x => { x with latentTick := false, copying := x.copying.map (· + 1), carried := decide (16 ≤ t) && scrubBehind s t }
  let s := s.each (targets.filter fun t => (s.tgt t).copyDone) fun s t => finishCopy t s
  loadTurn s

/-- Stored-data protection as a tick begins: the scrubber starts (R255) and has its quotas (R244), and write-backs that wait take freed entries. -/
def eccBegin (s : State) : State :=
  let s := giveEntries (sramFlush s)
  let ready := s.sett.st == .ready
  let runs := ready && s.ecc.enable
  { s with ecc := { s.ecc with started := s.ecc.started || ready, used := .const 0, sramTicks := s.ecc.sramTicks + 1
                               quota := if runs then s.ecc.quota + scrubQuota s.ecc.pass else s.ecc.quota } }

/-! ### The transaction table (R228, R229) -/

/-- Transfers waiting of a requester at a pseudo-channel. -/
def waitingOf (s : State) (pc q : Nat) : Nat := (s.sett.arb.get (16 * pc + q)).waiting

/-- Rewrite one pair of pseudo-channel and requester. -/
def onArb (pc q : Nat) (f : ArbS → ArbS) (s : State) : State := { s with sett := { s.sett with arb := s.sett.arb.upd (16 * pc + q) f } }

/-- Entries for data, capture and host traffic (R228). -/
def txnCap : Nat := 15872

/-- Those of them in use: each is held until its transfer completes. -/
def dataUsed (s : State) : Nat := (s.sett.arb.ents.map fun e => e.2.waiting).sum

/-- An operation finds all its entries free. -/
def txnFits (s : State) (o : TxnOp) : Bool := decide (dataUsed s + o.pcs.length ≤ txnCap)

/-- An operation takes its entries: its transfers wait for their grants. -/
def startOp (o : TxnOp) (s : State) : State := s.each o.pcs fun s pc => onArb pc o.req (fun x => { x with waiting := x.waiting + 1 }) s

/-- An operation asks for its entries (R229): it takes them all, or waits behind those that asked before it and holds nothing. -/
def request (q : Nat) (pcs : List Nat) (s : State) : State :=
  let o : TxnOp := { req := q, pcs := pcs }
  if s.sett.txnQ.isEmpty && txnFits s o then startOp o s else { s with sett := { s.sett with txnQ := s.sett.txnQ ++ [o] } }

/-- Freed entries go to the operations that wait, in the order of request (R229). -/
def allocate : Nat → State → State
  | 0, s => s
  | n + 1, s =>
    match s.sett.txnQ with
    | o :: os => if txnFits s o then allocate n (startOp o { s with sett := { s.sett with txnQ := os } }) else s
    | [] => s

/-- The pseudo-channels of n granules from a byte address on. -/
def granulePcs (a n : Nat) : List Nat := (List.range n).map fun i => granulePc (a / 64 + i)

/-! ### Registers and commands (R251 to R254) -/

/-- A write of ECC_FLIP_CTL (R251): with both masks zero ARM stays 0; DONE is cleared by a 1. -/
def flipCtlWrite (val : Word) (s : State) : State :=
  let live := s.ecc.flipData != 0 || s.ecc.flipChk != 0
  let arm := flag val 31 && live
  let done := flag s.ecc.flipCtl 30 && !flag val 30
  { s with ecc := { s.ecc with flipCtl := mkWord (bitAt arm 31 + bitAt done 30 + fld val 15 8 * 256 + bitAt (flag val 4) 4 + fld val 2 0) } }

/-- ECC_FLIP_ARM (R251). -/
def execEccFlipArm (val : Word) (s : State) : Host.Outcome State Fault Refusal :=
  if s.up then .next (flipCtlWrite val s) else .next s

/-- ECC_SCRUB_CFG (R244, R245). -/
def cmdEccScrubCfg (_h : CmdHdr) (ws : List Word) (s : State) : CmdRes :=
  let w := wd ws 0
  needLen ws 1 <| need (onlyBits w 0x8001FFFF && 14 ≤ fld w 16 0 && fld w 16 0 ≤ 86400) .badArg 0 <| stageOne s .scrub 0 0 ws

/-- The bits of a spare record (Table 8-4). -/
def spareBits (r : SpareS) : Nat :=
  bitAt r.valid 63 + r.origin % 4 * 2 ^ 58 + r.target % 256 * 2 ^ 50 + r.pc % 16 * 2 ^ 46 + r.bank % 64 * 2 ^ 40 + r.row % 2 ^ 18 * 2 ^ 22 +
    r.spare % 1024 * 2 ^ 12

/-- A spare record read from its bits. -/
def spareOf (n : Nat) : SpareS :=
  { valid := n.testBit 63, origin := bitsOf n 59 58, target := bitsOf n 57 50, pc := bitsOf n 49 46, bank := bitsOf n 45 40,
    row := bitsOf n 39 22, spare := bitsOf n 21 12 }

/-- A record is well formed: reserved fields 0, a known ORIGIN and TARGET, fields within the target. -/
def spareOk (n : Nat) : Bool :=
  let r := spareOf n
  bitsOf n 62 60 == 0 && bitsOf n 11 0 == 0 && r.origin != 3 && targets.contains r.target &&
    (if r.target < 8 then r.pc == 0 && r.bank == 0 && decide (32 * r.row < sramWords r.target) && decide (r.spare < 4) else true)

/-- The records of a load: two words each, low word first. -/
def spareRecs : List Word → List Nat
  | a :: b :: ws => ofLohi a b :: spareRecs ws
  | _ => []

/-- ECC_SPARE_READ (R248, R254): record k is that of spare k, or the k-th of the fuse map, zero where there is none. -/
def cmdEccSpareRead (_h : CmdHdr) (ws : List Word) (s : State) : CmdRes :=
  let w := wd ws 0
  let t := fld w 7 0
  let rec_ (k : Nat) : Nat := ((if flag w 8 then (s.tgt t).fuses[k]? else (s.tgt t).spares.find? fun r => r.spare == k).map spareBits).getD 0
  needLen ws 1 <| need (onlyBits w 0xFFFF01FF && targets.contains t && 1 ≤ fld w 31 26) .badArg 0 <|
  .done s ((List.range (fld w 31 26)).flatMap fun i => lohi (rec_ (fld w 25 16 + i)))

/-- ECC_SPARE_LOAD (R248): asynchronous; BUSY unless the Sett is READY. -/
def cmdEccSpareLoad (_h : CmdHdr) (ws : List Word) (s : State) : CmdRes :=
  let n := fld (wd ws 0) 7 0
  let rs := spareRecs (ws.drop 1)
  let bad := rs.findIdx fun r => !spareOk r
  need (onlyBits (wd ws 0) 0xFF && 1 ≤ n) .badArg 0 <| needLen ws (1 + 2 * n) <| need (bad == n) .badArg (1 + 2 * bad) <|
  need (s.sett.st == .ready) .busy 0 <| need s.ecc.loading.isEmpty .busy 0 <|
  .accept { s with ecc := { s.ecc with loading := rs.map spareOf, loaded := 0, loadFull := false } } .spareLoad

/-- A region's first byte and size (R210): 0 merge, 1 transmit elastic, 2 receive elastic, 3 capture. -/
def regionSize (s : State) (r : Nat) : Nat :=
  let a := wd s.sett.region 0
  let b := wd s.sett.region 1
  (match r with
   | 0 => fld a 27 16
   | 1 => fld a 11 0
   | 2 => fld b 27 16
   | _ => fld b 11 0) * 2 ^ 26

/-- The first byte of a region (R210). -/
def regionBase (s : State) (r : Nat) : Nat := ((List.range r).map (regionSize s)).sum

/-- The 64-bit data words of a granule from 16 parameter words. -/
def granuleWords : List Word → List (BitVec 64)
  | a :: b :: ws => BitVec.ofNat 64 (ofLohi a b) :: granuleWords ws
  | _ => []

/-- One word as ECC_TEST_ACCESS reports it: data as delivered, or as stored where it is not. -/
def shownData (w : BitVec 64 × BitVec 16) : BitVec 64 := (delivered w.1 w.2).getD w.1

/-- ECC_TEST_ACCESS (R252): a read replies with 16 data words, then a word per data word with its syndrome in [15:0] and its flag
in [17:16]. -/
def cmdEccTestAccess (_h : CmdHdr) (ws : List Word) (s : State) : CmdRes :=
  let w := wd ws 0
  let wr := flag w 0
  let a := ofLohi (wd ws 1) (wd ws 2)
  let lo := regionBase s 3
  need (onlyBits w 1) .badArg 0 <| needLen ws (if wr then 19 else 3) <|
  need (a % 64 == 0 && lo ≤ a && a < lo + regionSize s 3) .badArg 1 <|
  need (s.sett.st == .ready && s.sett.cap == .idle) .busy 0 <|
  let s := request 8 (granulePcs a 1) s
  if wr then .done (settWrite (a / 64) (granuleWords (ws.drop 3)) s) []
  else
    let r := settRead (a / 64) false s
    .done r.1 ((r.2.flatMap fun w => lohi (shownData w).toNat) ++
      r.2.map fun w => let x := syndrome w.1 w.2; mkWord ((decodeSynd x).flag * 65536 + x.toNat))

def execEccScrubCfg (h : CmdHdr) (ws : List Word) (s : State) : Host.Outcome State Fault Refusal := .next (runCmd 0x0501 cmdEccScrubCfg h ws s)
def execEccSpareRead (h : CmdHdr) (ws : List Word) (s : State) : Host.Outcome State Fault Refusal := .next (runCmd 0x0502 cmdEccSpareRead h ws s)
def execEccSpareLoad (h : CmdHdr) (ws : List Word) (s : State) : Host.Outcome State Fault Refusal := .next (runCmd 0x0503 cmdEccSpareLoad h ws s)
def execEccTestAccess (h : CmdHdr) (ws : List Word) (s : State) : Host.Outcome State Fault Refusal := .next (runCmd 0x0504 cmdEccTestAccess h ws s)

/-- A staged scrub setting takes effect (R245). -/
def applyEcc (g : Staged) (s : State) : State :=
  match g.item with
  | .scrub => { s with ecc := { s.ecc with pass := fld (wd g.ws 0) 16 0, enable := flag (wd g.ws 0) 31 } }
  | _ => s

end Sys2Proof.Machine
end

