-- ==== Sys2Proof/Machine/Frame.lean ====
section
/-! DEFINITION. Chapter 4: the line frame, its capacity, its header, the decoder's budget, and the frame receiver. -/

namespace Sys2Proof.Machine

/-! ### Capacity (R124 to R127) -/

/-- Information bits of an inner codeword at a rate code (Table 4-2). -/
def kIn (rate : Nat) : Nat :=
  match rate with
  | 0 => 19200
  | 1 => 20480
  | 2 => 21504
  | _ => 22528

/-- The layout of one frame (R126): inner codewords, full outer blocks, cell positions of the short block, NCELL. -/
structure Layout where
  cws   : Nat
  full  : Nat
  short : Nat
  ncell : Nat
deriving DecidableEq, Repr

/-- The layout that a raw capacity and a rate code give (R126). -/
def layout (raw rate : Nat) : Layout :=
  let c := raw / 25600
  let info := c * kIn rate
  let full := info / 406448
  let rows := (info - full * 406448) / 532 - 20
  let short := rows / 4
  { cws := c, full := full, short := short, ncell := 186 * full + short - 1 }

/-- RX_RATE, TX_RATE, ITER_MAX and BUDGET of LINE_FEC_CFG (Table 4-6). -/
def FrameS.rxRate (f : FrameS) : Nat := fld f.fecCfg 7 6
def FrameS.txRate (f : FrameS) : Nat := fld f.fecCfg 5 4
def FrameS.iterMax (f : FrameS) : Nat := fld f.fecCfg 15 8
def FrameS.budget (f : FrameS) : Nat := fld f.fecCfg 31 16

/-- RAW of the frame being sent: the codes announced, dark and warming subcarriers giving nothing (R126). -/
def txRaw (d : DspS) : Nat :=
  ((scs.filter fun k => (d.sc.get k).lit).map fun k => rawBits d.baud (d.sc.get k).codeTx).sum

/-- NCELL of the frame being sent. -/
def txNcell (s : State) (l : Nat) : Nat := (layout (txRaw (s.ds l)) (s.fr l).txRate).ncell

/-! ### The header (R121 to R123) -/

/-- A header field. -/
def hdrFld (h : FrameHdr) (msb lsb : Nat) : Nat := bitsOf h.toNat msb lsb

/-- A value placed in a header field. -/
def placeAt (v msb lsb : Nat) : Nat := v % 2 ^ (msb + 1 - lsb) * 2 ^ lsb

/-- The CRC of a header: over bits [2047:32], msb first (R122). -/
def hdrCrc (h : Nat) : Nat := crc32 (beBytes 252 (h / 2 ^ 32))

/-- SNR_FB of SCk: the mean of the posted SNR_X and SNR_Y (R123). -/
def snrFb (c : ScS) : Nat := (c.snrX + c.snrY) / 2

/-- The header that the framer writes (Table 4-1); TT comes from Marten. -/
def buildHdr (s : State) (l num ncell : Nat) (cells : List (Nat × Cell)) (tt : Nat) : FrameHdr :=
  let f := s.fr l
  let d := s.ds l
  let cnt := ((List.range 8).map fun k => placeAt ((cells.filter fun c => c.1 == k).length) (1855 + 16 * k) (1840 + 16 * k)).sum
  let fbv := ((scs.filter fun k => (d.sc.get k).snrValid).map fun k => 2 ^ k).sum
  let fb := (scs.map fun k => placeAt (snrFb (d.sc.get k)) (1823 - 16 * k) (1808 - 16 * k)).sum
  let msg := (f.msg ++ List.replicate 16 0).take 16
  let body := placeAt num 2047 2000 + placeAt 1 1999 1996 + placeAt l 1995 1995 + placeAt (if f.fr = .inFrame then 0 else 1) 1994 1994 +
    placeAt ncell 1983 1968 + cnt + placeAt fbv 1839 1824 + fb + placeAt tt 1535 1024 +
    placeAt (msg.foldl (fun n w => n * 2 ^ 32 + w.toNat) 0) 1023 512
  BitVec.ofNat 2048 (body + hdrCrc body)

/-- The first of the 32 words that hold the n-th cell put into a class queue: 1,024 places a class (R223, Table 8-2). -/
def queueWord (c n : Nat) : Nat := (c * 1024 + n % 1024) * 32

/-- One cell is taken from the head of a class queue; one that is poison is dropped, counted POISON (Table 8-2). -/
def takeCell (l c : Nat) (a : State × List (Nat × Cell)) : State × List (Nat × Cell) :=
  let f := a.1.fr l
  match f.queue.get c with
  | x :: _ =>
    let r := sramUse (3 + l) (queueWord c (f.qHead.get c)) 32 a.1
    let y := (((r.2.fr l).queue.get c).head?).getD x
    let s := r.2.onFrm l fun f => { f with queue := f.queue.upd c (·.drop 1), qHead := f.qHead.upd c fun n => (n + 1) % 1024 }
    if r.1 then (s, a.2 ++ [(c, y)]) else (s.count 6 8 x.flow 1, a.2)
  | [] => a

/-- The cells of a frame, C7 first, oldest first within a class (R119), each with its class, and the state that has taken them. -/
def fillFrame (l n : Nat) (s : State) : State × List (Nat × Cell) :=
  [7, 6, 5, 4, 3, 2, 1, 0].foldl (fun a c =>
    (List.range ((s.fr l).queue.get c).length).foldl (fun a _ => if a.2.length < n then takeCell l c a else a) a) (s, [])

/-- The loading announcement of a code (R85): the code in [3:0] and its ones' complement in [7:4]. -/
def annWord (code : Nat) : Nat := (15 - code % 16) * 16 + code % 16

/-- The announcement that a subcarrier sends: its code in force, or none while it is dark. -/
def scAnn (c : ScS) : Option Nat := if c.lit then some (annWord c.codeTx) else none

/-- The line frame of the new tick on a line (R28 step 6, R117 to R119), with idle cells in every position that remains (R31), and
the state that has sent it. -/
def sendFrame (l : Nat) (tt : Nat) (s : State) : State × Option TxFrame :=
  if s.sends l then
    let f := s.fr l
    let num := if f.txStarted then (f.txFn + 1) % 2 ^ 48 else s.tick.num % 2 ^ 48
    let n := txNcell s l
    let r := fillFrame l n s
    let d := s.ds l
    let fr : TxFrame :=
      { num := num, ncell := n, hdr := buildHdr s l num n r.2 tt, cells := r.2.map Prod.snd, idle := n - r.2.length,
        ann := scs.map fun k => scAnn (d.sc.get k), baud := d.baud, rate := f.txRate, gains := d.scaleOf }
    ((r.1.onFrm l fun f => { f with txFn := num, txStarted := true }).emit (.lineFrame l fr), some fr)
  else (s.onFrm l fun f => { f with txStarted := false }, none)

/-! ### The decoder (R130 to R132) -/

/-- The iterations that codeword i needs to converge. -/
def itersOf (f : RxFrame) (i : Nat) : Nat := f.iters.getD i f.iterDflt

/-- Pass 1 (R130): (left, used per codeword in reverse order). -/
def pass1 (f : RxFrame) (p1 : Nat) (cs : List Nat) (left : Nat) : Nat × List (Nat × Nat) :=
  cs.foldl (fun a i => let u := min (itersOf f i) p1; (a.1 - u, (itersOf f i, u) :: a.2)) (left, [])

/-- Pass 2 (R130): the codewords in order, each given what it needs up to ITER_MAX and what is left. -/
def pass2 (itMax : Nat) (cs : List (Nat × Nat)) (left : Nat) : Nat × List (Nat × Nat) :=
  cs.foldl (fun a c =>
    if c.2 < c.1 ∧ 0 < a.1 then
      let more := min (min (itMax - c.2) a.1) (c.1 - c.2)
      (a.1 - more, (c.1, c.2 + more) :: a.2)
    else (a.1, c :: a.2)) (left, [])

/-- What the inner decoder did: iterations in all, the most of any codeword, codewords left unconverged, and whether the
budget ran out with one of them. -/
structure InnerRes where
  total  : Nat
  peak   : Nat
  unconv : Nat
  spent  : Bool
deriving DecidableEq, Repr

/-- The inner decoder on one frame (R130, R131). -/
def innerDecode (cfg : FrameS) (f : RxFrame) (cws : Nat) : InnerRes :=
  let p1 := min cfg.iterMax (cfg.budget / cws)
  let a := pass1 f p1 (List.range cws) cfg.budget
  let b := pass2 cfg.iterMax a.2.reverse a.1
  let un := b.2.countP fun c => c.2 < c.1
  { total := (b.2.map Prod.snd).sum, peak := (b.2.map Prod.snd).foldl max 0, unconv := un, spent := b.1 == 0 && 0 < un }

/-- The block of a row number counted through the frame (764 rows each). -/
def rowBlock (lay : Layout) (r : Nat) : Nat := min (r / 764) lay.full

/-- Information rows of a block (R125, R126). -/
def infoRows (lay : Layout) (b : Nat) : Nat := if b < lay.full then 744 else 4 * lay.short

/-- The cell position that a row belongs to, none for a column parity row. -/
def rowCell (lay : Layout) (r : Nat) : Option Nat :=
  let b := rowBlock lay r
  let i := r - 764 * b
  if i < infoRows lay b then some (186 * b + i / 4) else none

/-- What the outer decoder made of a frame (R132): rows, counted through the frame, whose syndrome stays nonzero, blocks of which a
column's alone does, and the bits it corrected. -/
structure OuterRes where
  rowFail : List Nat := []
  blkFail : List Nat := []
  corr    : Nat := 0
deriving DecidableEq, Repr

/-- Rows of a block (R125, R126). -/
def blockRows (lay : Layout) (b : Nat) : Nat := infoRows lay b + 20

/-- The outer blocks of a frame, the short one last (R126). -/
def blockCount (lay : Layout) : Nat := lay.full + (if 0 < lay.short then 1 else 0)

/-- The outer decoder on a frame (R132): four iterations on each block that has wrong bits. -/
def outerDecode (lay : Layout) (f : RxFrame) : OuterRes :=
  ((List.range (blockCount lay)).filter fun b => f.outErrs.any fun e => e.1 == b).foldl (fun o b =>
    let n := blockRows lay b
    let r := decodeBlock n ((f.outErrs.filter fun e => e.1 == b).map (·.2))
    let bad := badRows n r.1
    { rowFail := o.rowFail ++ bad.map (764 * b + ·)
      blkFail := if bad.isEmpty && badColumn n r.1 then o.blkFail ++ [b] else o.blkFail
      corr := o.corr + r.2 }) {}

/-- A cell position is dropped by the outer decoder (R132), or with the whole frame by its memory. -/
def dropped (lay : Layout) (f : RxFrame) (p : Nat) : Bool :=
  let o := outerDecode lay f
  f.memBad || o.rowFail.any (fun r => rowCell lay r == some p) || o.blkFail.any fun b => min (p / 186) lay.full == b

/-- The uncorrectable blocks of a frame (R132). -/
def badBlocks (lay : Layout) (f : RxFrame) : Nat :=
  let o := outerDecode lay f
  (List.range (blockCount lay)).countP fun b => o.blkFail.contains b || o.rowFail.any fun r => rowBlock lay r == b

/-- A frame is good (R134). -/
def frameGood (lay : Layout) (f : RxFrame) : Bool :=
  let h := f.hdr
  !dropped lay f 0 && hdrFld h 31 0 == hdrCrc h.toNat && hdrFld h 1999 1996 == 1 && hdrFld h 1983 1968 == lay.ncell &&
    decide (((List.range 8).map fun k => hdrFld h (1855 + 16 * k) (1840 + 16 * k)).sum ≤ lay.ncell)

/-- A loading announcement is valid (R85): [7:4] is the complement of [3:0]. -/
def annValid (a : Nat) : Bool := a < 256 && a / 16 == 15 - a % 16

/-- The announcements of a frame set the code of each tracked subcarrier (R86, R112). -/
def takeAnn (l k a : Nat) (s : State) : State :=
  let c := (s.ds l).sc.get k
  if c.rx = .track then
    let s := if annValid a then
        s.onSc l k fun c => { c with codeRx := a % 16, annBad := 0, annZero := a % 16 == 0, winCode := c.winCode && c.codeRx == a % 16 }
      else
        ((s.onSc l k fun c => { c with annBad := min (c.annBad + 1) 31 }).count 2 0 (16 * l + k) 1).dspFault l 3
    s.when (((s.ds l).sc.get k).codeRx == 0) fun s => s.count 2 1 (16 * l + k) 1
  else s.count 2 1 (16 * l + k) 1

/-- RAW of a received frame: by the codes in use on every subcarrier (R126, R86). -/
def rxRaw (d : DspS) : Nat := (scs.map fun k => rawBits d.baud (d.sc.get k).codeRx).sum

/-- What became of a frame: whether good, its number, and the cells delivered with their positions. -/
structure FrameOut where
  good  : Bool
  num   : Nat
  cells : List (Nat × Cell)
deriving DecidableEq, Repr

/-- The number that the next good frame is expected to carry (R134). -/
def expectedNum (f : FrameS) : Option Nat := f.sinceGood.map fun n => (f.rxFn + n) % 2 ^ 48

/-- A good frame's header is taken (R134, R138). -/
def takeHdr (l : Nat) (h : FrameHdr) (s : State) : State :=
  let f := s.fr l
  let num := hdrFld h 2047 2000
  let jump := match expectedNum f with
    | some n => n != num
    | none => false
  let s := s.onFrm l fun f =>
    { f with rxFn := num, sinceGood := some 0, badRun := 0,
             goodRun := if 1 ≤ f.goodRun ∧ num = (f.rxFn + 1) % 2 ^ 48 then min (f.goodRun + 1) 3 else 1,
             lineFar := hdrFld h 1995 1995 == 1, rdiFar := hdrFld h 1994 1994 == 1,
             farSnr := scs.map fun k => hdrFld h (1823 - 16 * k) (1808 - 16 * k),
             farValid := hdrFld h 1839 1824,
             rxMsg := (List.range 16).map fun i => mkWord (hdrFld h (1023 - 32 * i) (992 - 32 * i)) }
  let s := s.when jump fun s => s.frFault l 2
  let s := s.when (hdrFld h 1995 1995 != l) fun s => s.frFault l 3
  s.when (hdrFld h 1994 1994 == 1) fun s => s.frFault l 6

/-- The state that follows a judged frame (Table 4-4). -/
def nextFr (l : Nat) (good : Bool) (s : State) : State :=
  let f := s.fr l
  match f.fr with
  | .hunt | .lof => if good ∧ 2 ≤ f.goodRun then s.onFrm l fun f => { f with fr := .inFrame } else s
  | .inFrame => if !good ∧ 8 ≤ f.badRun then (s.onFrm l fun f => { f with fr := .lof }).frFault l 0 else s
  | .noSignal => s

/-- A dropped cell is counted (R132): against its flow where FLOW can be read. -/
def countDrop (l : Nat) (f : RxFrame) (p : Nat) (c : Cell) (s : State) : State :=
  if c.idle then s else if f.noFlow.contains p then s.count 3 5 l 1 else s.count 3 0x20 c.flow 1

/-- The frame statistics of a decode tick (R137) and the counters of Table 13-9. -/
def frameStats (l : Nat) (lay : Layout) (f : RxFrame) (r : InnerRes) (bad : Nat) (s : State) : State :=
  let s := s.onFrm l fun x => { x with ncellRx := lay.ncell, win :=
    { x.win with preErr := x.win.preErr + f.preErr, preBits := x.win.preBits + 25600 * lay.cws, iterSum := x.win.iterSum + r.total,
                 cws := x.win.cws + lay.cws, iterPeak := max x.win.iterPeak r.peak, unconv := x.win.unconv + r.unconv,
                 outCorr := min (x.win.outCorr + (outerDecode lay f).corr) 0xFFFFFFFF, outUncorr := min (x.win.outUncorr + bad) 0xFFFF,
                 budgetTicks := x.win.budgetTicks + (if r.spent then 1 else 0) } }
  let s := (((s.count 3 0 l (outerDecode lay f).corr).count 3 1 l r.unconv).count 3 2 l bad).count 3 7 l r.total
  let s := s.when r.spent fun s => s.frFault l 4
  s.when (bad != 0) fun s => s.frFault l 5

/-- One received frame in its decode tick (R130 to R136): the state, and what became of the frame. The frame memory holds the cell of
position p in words 32 p to 32 p + 31. -/
def decodeFrame (l : Nat) (f : RxFrame) (s : State) : State × FrameOut :=
  let flips := memFlips s (1 + l) 0 (sramWords 1)
  let mem := sramUse (1 + l) 0 (sramWords 1) s
  let f := { f with memBad := f.memBad || !mem.1
                    cells := f.cells.map fun c => flips.foldl (fun c p => if p.1 / 32 = c.1 then (c.1, flipCell (p.1 % 32) p.2 c.2) else c) c }
  let s := sramWrite (1 + l) 0 (sramWords 1) mem.2
  let s := s.each scs fun s k => takeAnn l k (f.ann.getD k 256) s
  let lay := layout (rxRaw (s.ds l)) (s.fr l).rxRate
  let r := innerDecode (s.fr l) f lay.cws
  let bad := badBlocks lay f
  let good := frameGood lay f
  let num := hdrFld f.hdr 2047 2000
  let s := frameStats l lay f r bad s
  let m : Fin 8 := if l = 0 then 5 else 6
  let s := s.when (bad != 0) fun s => s.send m 1 num bad
  let s := s.when f.memBad fun s => s.send m 2 num 0
  let s := s.onFrm l fun x => { x with decoded := true }
  let s := if good then (takeHdr l f.hdr s).count 3 6 l 1
    else ((s.onFrm l fun x => { x with goodRun := 0, badRun := min (x.badRun + 1) 15 }).count 3 3 l 1).frFault l 1
  let s := nextFr l good s
  let open_ := (s.fr l).fr == .inFrame
  let keep := f.cells.filter fun c => open_ && !dropped lay f c.1
  let lose := f.cells.filter fun c => !(open_ && !dropped lay f c.1)
  let s := s.each lose fun s c => countDrop l f c.1 c.2 s
  (s, { good := good, num := num, cells := keep.filter fun c => !c.2.idle })

/-- A frame may be decoded now (R39, R135): one in each tick, not in NO_SIGNAL. -/
def mayDecode (s : State) (l : Nat) : Bool := s.up && (s.fr l).fr != .noSignal && !(s.fr l).decoded

/-! ### The boundary -/

/-- One line's frame receiver at a boundary (R134 to R137). -/
def frameTick (l : Nat) (s : State) : State :=
  let run := (s.ds l).rxd == .run
  let off := (s.cv l).rx == .off
  let s := s.onFrm l fun f =>
    { f with decoded := false, sinceGood := f.sinceGood.map (· + 1), win := { f.win with allInFrame := f.win.allInFrame && f.fr == .inFrame } }
  let f := s.fr l
  match f.fr with
  | .noSignal =>
    let s := s.when (f.lostCounting && !off) fun s => s.count 3 4 l 1
    if run then s.onFrm l fun f => { f with fr := .hunt, goodRun := 0, badRun := 0, lostCounting := false }
    else if off then s.onFrm l fun f => { f with lostCounting := false }
    else s
  | .hunt | .inFrame | .lof =>
    if run then s else s.onFrm l fun f => { f with fr := .noSignal, goodRun := 0, badRun := 0, lostCounting := true }

/-! ### Commands (Table 4-7) -/

/-- LINE_FEC_CFG (R139): a rate changes only while its side is OFF. -/
def cmdLineFecCfg (_h : CmdHdr) (ws : List Word) (s : State) : CmdRes :=
  let w := wd ws 0
  let l := fld w 0 0
  needLen ws 1 <|
  need (onlyBits w 0xFFFFFFF1 && 1024 ≤ fld w 31 16 && fld w 31 16 ≤ 11520 && 4 ≤ fld w 15 8 && fld w 15 8 ≤ 32) .badArg 0 <|
  need (fld w 5 4 == (s.fr l).txRate || (s.cv l).tx == .off) .busy 0 <|
  need (fld w 7 6 == (s.fr l).rxRate || (s.cv l).rx == .off) .busy 0 <|
  stageOne s .fecCfg l 0 ws

/-- LINE_HDR_MSG (R139). -/
def cmdLineHdrMsg (_h : CmdHdr) (ws : List Word) (s : State) : CmdRes :=
  needLen ws 17 <| need (onlyBits (wd ws 0) 1) .badArg 0 <| stageOne s .hdrMsg (fld (wd ws 0) 0 0) 0 (ws.drop 1)

def execLineFecCfg (h : CmdHdr) (ws : List Word) (s : State) : Res := .next (runCmd 0x0120 cmdLineFecCfg h ws s)
def execLineHdrMsg (h : CmdHdr) (ws : List Word) (s : State) : Res := .next (runCmd 0x0121 cmdLineHdrMsg h ws s)

/-- A staged frame item takes effect at its boundary. -/
def applyFrame (g : Staged) (s : State) : State :=
  match g.item with
  | .fecCfg => s.onFrm g.idx fun f => { f with fecCfg := wd g.ws 0 }
  | .hdrMsg => s.onFrm g.idx fun f => { f with msg := g.ws }
  | _ => s

end Sys2Proof.Machine
end

