-- ==== Sys2Proof/Machine/Ptp.lean ====
section
/-! DEFINITION. Reading a client frame: its EtherType after VLAN tags, the classifier's key fields (R163), and PTP messages
with the fields that Marten's services write (R162, R304, R305). -/

namespace Sys2Proof.Machine

/-- The big-endian number in k bytes at offset i. -/
def beAt (d : List Byte) (i k : Nat) : Nat := beNat ((d.drop i).take k)

/-- Bytes overwritten at an offset. -/
def putAt (d : List Byte) (i : Nat) (bs : List Byte) : List Byte := d.take i ++ bs ++ d.drop (i + bs.length)

/-- EtherType without regard to tags (R157). -/
def etherType (d : List Byte) : Nat := beAt d 12 2

/-- An outer tag's TPID (R163). -/
def outerTpid (n : Nat) : Bool := n == 0x8100 || n == 0x88A8

/-- The number of VLAN tags, at most two (R162, R163). -/
def tagCount (d : List Byte) : Nat :=
  if outerTpid (beAt d 12 2) then (if beAt d 16 2 = 0x8100 then 2 else 1) else 0

/-- Offset of the EtherType behind the tags. -/
def typeOffset (d : List Byte) : Nat := 12 + 4 * tagCount d

/-- EtherType behind the tags. -/
def innerType (d : List Byte) : Nat := beAt d (typeOffset d) 2

/-- Offset of the network header. -/
def netOffset (d : List Byte) : Nat := typeOffset d + 2

/-- The offset of a UDP header over IPv4 or IPv6, with whether it is IPv6. -/
def udpOffset (d : List Byte) : Option (Nat × Bool) :=
  let n := netOffset d
  if innerType d = 0x0800 ∧ beAt d (n + 9) 1 = 17 then some (n + 4 * (beAt d n 1 % 16), false)
  else if innerType d = 0x86DD ∧ beAt d (n + 6) 1 = 17 then some (n + 40, true)
  else none

/-- The offset of the PTP header of a PTP frame (R162): EtherType 0x88F7, or UDP to port 319 or 320. -/
def ptpOffset (d : List Byte) : Option Nat :=
  if innerType d = 0x88F7 then some (netOffset d)
  else match udpOffset d with
    | some (u, _) => if beAt d (u + 2) 2 = 319 ∨ beAt d (u + 2) 2 = 320 then some (u + 8) else none
    | none => none

/-- The message type of a PTP header: 0 Sync, 1 Delay_Req, 2 Pdelay_Req, 3 Pdelay_Resp (R304). -/
def ptpType (d : List Byte) (o : Nat) : Nat := beAt d o 1 % 16

/-- The classifier key of a frame under a key type, none where the frame lacks the field (R163, Table 5-5). -/
def keyOf (kind : Nat) (d : List Byte) : Option Nat :=
  match kind with
  | 1 => if 1 ≤ tagCount d then some (beAt d 14 2 % 4096) else none
  | 2 => if tagCount d = 2 then some (beAt d 14 2 % 4096 * 4096 + beAt d 18 2 % 4096) else none
  | 3 => if 1 ≤ tagCount d then some (beAt d 14 2 / 8192) else none
  | 4 => some (beAt d 0 6)
  | 5 =>
    if innerType d = 0x0800 then some (beAt d (netOffset d + 1) 1 / 4)
    else if innerType d = 0x86DD then some (beAt d (netOffset d) 2 / 64 % 64)
    else none
  | _ => none

/-- One's complement update of a checksum for one 16-bit word (R305). -/
def ckUpdate (ck old new : Nat) : Nat :=
  let x := (0xFFFF - ck) + (0xFFFF - old) + new
  let x := x % 65536 + x / 65536
  let x := x % 65536 + x / 65536
  0xFFFF - x

/-- 2n bytes of a PTP message replaced, with the UDP checksum updated for them where there is one (R305). -/
def putChecked (d : List Byte) (o n new : Nat) : List Byte :=
  let old := beAt d o (2 * n)
  let d' := putAt d o (beBytes (2 * n) new)
  match udpOffset d with
  | some (u, six) =>
    let ck := beAt d (u + 6) 2
    if ck = 0 ∧ !six then d'
    else
      let w (x i : Nat) : Nat := x / 65536 ^ i % 65536
      let c := (List.range n).foldl (fun c i => ckUpdate c (w old i) (w new i)) ck
      putAt d' (u + 6) (beBytes 2 (if c = 0 then 0xFFFF else c))
  | none => d'

/-- correctionField replaced (R304, R305). -/
def setCorrection (d : List Byte) (o new : Nat) : List Byte := putChecked d (o + 8) 4 new

/-- Picoseconds in units of 2^-16 ns. -/
def psUnits (p : Int) : Int := roundDiv (p * 65536) 1000

/-- A time moved by picoseconds, never below zero. -/
def addPs (t : Nat) (p : Int) : Nat := ((t : Int) + psUnits p).toNat

/-- Seconds [1:0] and nanoseconds, as header bytes 16 to 19 carry an ingress stamp (R305). -/
def tcStamp (t : Nat) : Nat := t / secUnits % 4 * 2 ^ 30 + t % secUnits / nsUnits

/-- The transparent clock at ingress (R305): the stamp in bytes 16 to 19 of a Sync or Delay_Req. -/
def tcIngress (t : Nat) (d : List Byte) : List Byte :=
  match ptpOffset d with
  | some o => if ptpType d o ≤ 1 then putAt d (o + 16) (beBytes 4 (tcStamp t)) else d
  | none => d

/-- The transparent clock at egress (R305): the residence time, modulo 4 s, goes into correctionField. -/
def tcEgress (t : Nat) (d : List Byte) : List Byte :=
  match ptpOffset d with
  | some o =>
    if ptpType d o ≤ 1 then
      let v := beAt d (o + 16) 4
      let inT := v / 2 ^ 30 * secUnits + v % 2 ^ 30 * nsUnits
      let stay := (t % (4 * secUnits) + 4 * secUnits - inT % (4 * secUnits)) % (4 * secUnits)
      putAt (setCorrection d o ((beAt d (o + 8) 8 + stay) % 2 ^ 64)) (o + 16) (beBytes 4 0)
    else d
  | none => d

/-- A one-step Sync as it leaves (R304): originTimestamp takes the egress stamp and correctionField its fraction. -/
def oneStepSync (t o : Nat) (d : List Byte) : List Byte :=
  setCorrection (putChecked d (o + 34) 5 (t / secUnits % 2 ^ 48 * 2 ^ 32 + t % secUnits / nsUnits)) o (t % nsUnits)

end Sys2Proof.Machine
end

