-- ==== Sys2Proof/Machine/Client.lean ====
section
/-! DEFINITION. Chapter 5 and the cell of chapter 1: host lanes, ports, flow control, the classifier, the flow table, the cell
builder and reassembly. -/

namespace Sys2Proof.Machine

/-! ### Readings -/

/-- Fields of a flow-table entry (Table 5-6). -/
def flowValid (w : Word) : Bool := flag w 31
def flowPath (w : Word) : Nat := fld w 29 28
def flowClass (w : Word) : Nat := fld w 26 24
def flowPort (w : Word) : Nat := fld w 22 20
def flowFlush (w : Word) : Nat := fld w 14 8

/-- The flow-table entry in force. -/
def State.flowE (s : State) (f : Nat) : Word := s.cl.flow.get f

/-- The lines that a PATH names (R36). -/
def pathLines (p : Nat) : List Nat := if p = 0 then [0] else if p = 1 then [1] else if p = 2 then [0, 1] else []

/-- Fields of CLIENT_PORT_CFG (Table 5-11). -/
def portEnabled (ws : List Word) : Bool := flag (wd ws 0) 31
def portMode (ws : List Word) : Nat := fld (wd ws 0) 23 22
def PortS.enabled (p : PortS) : Bool := portEnabled p.cfg
def PortS.mode (p : PortS) : Nat := portMode p.cfg
def PortS.ptpMode (p : PortS) : Nat := fld (wd p.cfg 0) 28 27
def PortS.keyType (p : PortS) : Nat := fld (wd p.cfg 0) 26 24
def PortS.tcEn (p : PortS) : Bool := flag p.ptp 8
def PortS.oneStep (p : PortS) : Bool := flag p.ptp 9

/-- Frames pass out of the port (Table 5-3). -/
def PortS.sends (p : PortS) : Bool := p.st == .up || p.st == .fault

/-- The lanes of a port in a mode (Table 5-2). -/
def lanesOf (p mode : Nat) : List Nat :=
  if mode = 0 then [] else (List.range (2 ^ mode)).map fun i => 2 * p + i

/-- Bits per tick at a mode's rate: 400, 800 or 1,600 Gb/s for 8 us. -/
def bitsPerTick (mode : Nat) : Nat := if mode = 0 then 0 else 1600000 * 2 ^ mode

/-- The enabled port that owns a lane, if any. -/
def laneOwner (s : State) (i : Nat) : Option Nat :=
  (List.range 8).find? fun p => (s.port p).enabled && (lanesOf p (s.port p).mode).contains i

/-- PFC settings (Table 5-12): priority of class c, and the enables of a priority. -/
def PortS.pri (p : PortS) (c : Nat) : Nat := fld (wd p.pfc 2) (3 * c + 2) (3 * c)
def PortS.txEn (p : PortS) (q : Nat) : Bool := flag (wd p.pfc 0) (8 + q)
def PortS.rxEn (p : PortS) (q : Nat) : Bool := flag (wd p.pfc 0) (16 + q)
def PortS.quanta (p : PortS) : Nat := fld (wd p.pfc 1) 15 0
def PortS.refreshTicks (p : PortS) : Nat := fld (wd p.pfc 0) 29 24

/-- Class c is paused by the client on port p (R160). -/
def PortS.classPaused (p : PortS) (c : Nat) : Bool := p.rxEn (p.pri c) && p.paused.getLsbD (p.pri c)

/-- The chain port is used: more than one device is declared (R44). -/
def State.chained (s : State) : Bool := decide (1 < s.cmd.devs)

/-! ### Lanes (R146 to R149) -/

/-- A lane takes a receive state from its first tick. -/
def toLane (i : Nat) (x : LaneState) (s : State) : State := s.onLane i fun c => { c with rx := x, ticks := 0 }

/-- The lane is one in use: it belongs to an enabled port or is in raw mode, outside P2 and its entry (Table 14-4), or is a chain
lane in use (Table 5-1). -/
def laneUsed (s : State) (i : Nat) : Bool :=
  if i < 16 then ((s.pwr.st == .p0 || s.pwr.st == .p1) && s.pwr.p2Step.isNone) && ((laneOwner s i).isSome || (s.lane i).raw) else s.chained

/-- The next boundary brings a lane a receive state (R146). -/
def laneDue (i : Nat) (x : LaneState) (s : State) : State := s.onLane i fun c => { c with due := some x }

/-- LANE_SIGNAL_DETECT (R146): the 16th tick above 80 mVppd is the one under way. -/
def execLaneSignalDetect (i : Fin 18) (s : State) : Res :=
  if s.up && (s.lane i).rx == .sigWait && 15 ≤ (s.lane i).ticks then
    .next (laneDue i .adapt (s.onLane i fun c => { c with sigdet := true }))
  else .next s

/-- LANE_ADAPT_DONE (R146): within 2,500 ticks; with ADAPT 0b10 the CTLE is the commanded one. -/
def execLaneAdaptDone (i : Fin 18) (ctle : Fin 49) (dfe : List Int) (s : State) : Res :=
  if s.up && (s.lane i).rx == .adapt && (s.lane i).ticks ≤ 2499 then
    .next (laneDue i .ready (s.onLane i fun c =>
      { c with ctle := if fld c.cfg 17 16 = 2 then fld c.cfg 15 10 else ctle.val, dfe := dfe.take 6 }))
  else .next s

/-- LANE_ADAPT_TIMEOUT (R146): the 2,500th tick ends without READY. -/
def execLaneAdaptTimeout (i : Fin 18) (s : State) : Res :=
  if s.up && (s.lane i).rx == .adapt && 2499 ≤ (s.lane i).ticks && (s.lane i).due.isNone then .next (laneDue i .failed s) else .next s

/-- LANE_LOS (R146): from ADAPT or READY. -/
def execLaneLos (i : Fin 18) (s : State) : Res :=
  match (s.lane i).rx with
  | .adapt | .ready => if s.up then .next (laneDue i .los s) else .next s
  | .off | .sigWait | .los | .failed => .next s

/-- LANE_RETRY (R146): LOS at the next boundary, FAILED after 125 ticks. -/
def execLaneRetry (i : Fin 18) (s : State) : Res :=
  let c := s.lane i
  if s.up && (c.rx == .los || (c.rx == .failed && 124 ≤ c.ticks)) then .next (laneDue i .sigWait s) else .next s

/-- PRBS_LOCK (R147): a raw lane whose pattern is a PRBS. -/
def execPrbsLock (i : Fin 16) (s : State) : Res :=
  let c := s.lane i
  let pat := fld c.rawCfg 6 4
  if s.up && c.raw && (pat == 1 || pat == 2) && c.rx == .ready && !c.lock then
    .next (s.onLane i fun c => { c with lock := true })
  else .next s

/-! ### Ports (R150 to R154) -/

/-- Every lane of a port is READY. -/
def lanesReady (s : State) (p : Nat) : Bool := (lanesOf p (s.port p).mode).all fun i => (s.lane i).rx == .ready

/-- The condition on which a port leaves its state is met: the next boundary leaves it (R153). -/
def portDue (p : Nat) (s : State) : State := s.onPort p fun c => { c with due := true }

/-- PORT_ALIGN_DONE (R153): the fourth tick in a row with alignment is under way. -/
def execPortAlignDone (p : Fin 8) (s : State) : Res :=
  let x := s.port p
  if s.up && x.st == .align && x.aligned && 3 ≤ x.ticks && lanesReady s p then .next (portDue p s) else .next s

/-- ALIGNMENT_LOST (R153): a port in UP goes to ALIGN at the next boundary. -/
def execAlignmentLost (p : Fin 8) (s : State) : Res :=
  if s.up then .next (s.onPort p fun c => { c with aligned := false, ticks := if c.st = .align then 0 else c.ticks }) else .next s

/-- PORT_FAULT_RX (R153): UP goes to FAULT at the next boundary; in FAULT the ordered sets keep it there. -/
def execPortFaultRx (p : Fin 8) (remote : Bool) (s : State) : Res :=
  let mark (c : PortS) : PortS := { c with faultTick := true, rxLf := c.rxLf || !remote, rxRf := c.rxRf || remote }
  match (s.port p).st with
  | .up => if s.up then .next (portDue p (s.onPort p mark)) else .next s
  | .fault => if s.up then .next (s.onPort p mark) else .next s
  | .disabled | .laneWait | .align => .next s

/-- PORT_FAULT_CLEAR (R153): the fourth tick in a row without a fault ordered set is under way. -/
def execPortFaultClear (p : Fin 8) (s : State) : Res :=
  if s.up && (s.port p).st == .fault && 3 ≤ (s.port p).ticks && !(s.port p).faultTick then .next (portDue p s) else .next s

/-- The fault ordered sets that a port transmits (R154): Local Fault under LINK_PROP, Remote Fault while it is not UP or FAULT. -/
def faultSets (x : PortS) : Nat :=
  if !x.enabled || x.st == .disabled then 0 else if x.lfSent then 2 else if x.sends then 0 else 1

/-- The ordered sets sent follow the port (R154). -/
def sigTurn (p : Nat) (s : State) : State :=
  let x := s.port p
  if x.sig = faultSets x then s else (s.onPort p fun c => { c with sig := faultSets c }).emit (.linkSignal p (faultSets x))

/-- Some valid flow that leaves through port p has a receiving line in frame (R154). -/
def portHasLine (s : State) (p : Nat) : Bool :=
  s.cl.flow.ents.any fun e => flowValid e.2 && flowPort e.2 == p && (pathLines (flowPath e.2)).any fun l => (s.fr l).fr == .inFrame

/-- LINK_PROP_LOCAL_FAULT (R154): more than 4 ticks without a receiving line. -/
def execLinkPropLocalFault (p : Fin 8) (s : State) : Res :=
  if s.up && (s.port p).enabled && flag (wd (s.port p).cfg 0) 30 && 5 ≤ (s.port p).noLine then
    .next (sigTurn p (s.onPort p fun c => { c with lfSent := true }))
  else .next s

/-! ### Priority flow control (R158 to R160) -/

/-- Bits of a port's rate in the part of the tick that has gone. -/
def bitsGone (s : State) (mode : Nat) : Nat := bitsPerTick mode * s.tick.sub / tickUnits

/-- A received PFC frame (R160): each enabled priority that honours PFC takes its timer from now on, quanta 0 ends its pause. The timer
holds the bit times left at the boundary that began the tick. -/
def takePfc (p : Nat) (en : BitVec 8) (quanta : List (BitVec 16)) (s : State) : State :=
  let s := s.count 4 6 p 1
  s.each (onesOf 8 en.toNat) fun s q =>
    if (s.port p).rxEn q then
      let t := (quanta.getD q 0).toNat
      s.onPort p fun c => { c with paused := putBit c.paused q (t != 0), pause := c.pause.set q (if t = 0 then 0 else 512 * t + bitsGone s c.mode) }
    else s

/-- PFC_FRAME_RX (R160). -/
def execPfcFrameRx (p : Fin 8) (en : BitVec 8) (quanta : List (BitVec 16)) (s : State) : Res :=
  if s.up && (s.port p).st == .up then .next (takePfc p en quanta s) else .next s

/-- PAUSE_TIMER_EXPIRE (R160): the timer would end within the tick under way. -/
def execPauseTimerExpire (p q : Fin 8) (s : State) : Res :=
  if s.up && (s.port p).paused.getLsbD q && (s.port p).pause.get q ≤ bitsPerTick (s.port p).mode then
    .next (s.onPort p fun c => { c with paused := putBit c.paused q false, pause := c.pause.set q 0 })
  else .next s

/-- The destination address of a PFC frame (R159). -/
def pfcDst : Nat := 0x0180C2000001

/-- MAC_ADDR of a port (Table 5-11). -/
def PortS.mac (p : PortS) : Nat := (wd p.cfg 3).toNat + 2 ^ 32 * fld (wd p.cfg 4) 15 0

/-- A PFC frame leaves the port: its addresses, enable bits and quanta by priority. -/
def sendPfc (p : Nat) (qs : List (Nat × Nat)) (s : State) : State :=
  (s.emit (.pfcFrame p pfcDst (s.port p).mac (qs.map fun x => 2 ^ x.1).sum ((List.range 8).map fun q => ((qs.find? fun x => x.1 == q).map Prod.snd).getD 0))).count 4 5 p 1

/-- PFC_REFRESH (R159): the frame is repeated every REFRESH ticks while the class stays in XOFF. -/
def execPfcRefresh (p c : Fin 8) (s : State) : Res :=
  let x := s.port p
  let q := x.pri c
  if s.up && x.st == .up && x.xoff.getLsbD q && x.refreshTicks ≤ x.refresh.get q then
    .next (sendPfc p [(q, x.quanta)] (s.onPort p fun x => { x with refresh := x.refresh.set q 0 }))
  else .next s

/-- The PFC transmitter at a boundary (R159): the classes that change share one frame. -/
def pfcTick (p : Nat) (s : State) : State :=
  let x := s.port p
  if x.st = .up then
    let want (c : Nat) : Bool := s.sett.txXoff.getLsbD c && x.txEn (x.pri c)
    let cs := List.range 8
    let on := (cs.filter fun c => want c && !x.xoff.getLsbD (x.pri c)).map fun c => (x.pri c, x.quanta)
    let off := (cs.filter fun c => !want c && x.xoff.getLsbD (x.pri c)).map fun c => (x.pri c, 0)
    let s := s.onPort p fun x =>
      let x := { x with refresh := (List.range 8).foldl (fun t q => if x.xoff.getLsbD q then t.upd q (min 63 <| · + 1) else t.set q 0) x.refresh }
      let x := on.foldl (fun x q => { x with xoff := putBit x.xoff q.1 true, refresh := x.refresh.set q.1 0 }) x
      off.foldl (fun x q => { x with xoff := putBit x.xoff q.1 false }) x
    if on.isEmpty && off.isEmpty then s else sendPfc p (on ++ off) s
  else s.onPort p fun x => { x with xoff := 0, refresh := .const 0 }

/-! ### Cells (R32 to R38, R184) -/

/-- A cell enters the elastic path, or is dropped while the Sett is not READY (R212, R223). -/
def toElastic (x : ElCell) (s : State) : State :=
  if s.sett.st = .ready then { s with sett := { s.sett with elQ := s.sett.elQ ++ [x] } }
  else s.count 6 0xC x.cell.flow 1

/-- Cells of a class for a line wait in, or on the way to, the transmit elastic region (R223). -/
def txWaits (s : State) (l c : Nat) : Bool := (s.sett.el ++ s.sett.elQ).any fun x => !x.rx && x.cls == c && x.lines.contains l

/-- A cell joins a class queue: its 32 words are written (Table 8-2). -/
def pushQueue (l c : Nat) (x : Cell) (s : State) : State :=
  let f := s.fr l
  sramWrite (3 + l) (queueWord c (f.qHead.get c + (f.queue.get c).length)) 32 (s.onFrm l fun f => { f with queue := f.queue.upd c fun q => q ++ [x] })

/-- A cell of a flow is dropped where the counter map has no event for it: counted against the flow all the same (R38). -/
def cellDrop (f n : Nat) (s : State) : State := s.onFlow f fun x => { x with drops := x.drops + n }

/-- A closed cell joins its class queue on each line that sends it, or the elastic path where that queue is full or cells of
the class already wait there (R36, R120, R223). Where no line can send it is dropped (R38). -/
def enqueueCell (x : Cell) (s : State) : State :=
  let e := s.flowE x.flow
  let c := flowClass e
  let ls := (pathLines (flowPath e)).filter s.sends
  let full := ls.filter fun l => txWaits s l c || 1024 ≤ ((s.fr l).queue.get c).length
  let s := s.when ls.isEmpty (cellDrop x.flow 1)
  let s := s.each (ls.filter fun l => !full.contains l) fun s l => pushQueue l c x s
  if full.isEmpty then s else toElastic { cls := c, lines := full, cell := x } s

/-- SLOT of the cells of a flow: TX_MARK of its association (R184). -/
def slotNow (s : State) (f : Nat) : Bool := (s.sa f).markLeft != 0

/-- The open cell of a flow is closed (R35, R184): the rest of its payload is padding. -/
def closeCell (f : Nat) (s : State) : State :=
  let x := s.cl.stream.get f
  if x.open_.isEmpty then s
  else
    let cell : Cell := { flow := f, seq := x.seq, slot := slotNow s f, fptr := x.fptr, valid := x.open_.length, payload := x.open_ }
    enqueueCell cell (s.onFlow f fun x => { x with seq := (x.seq + 1) % 2 ^ 32, open_ := [], fptr := 255, age := 0, due := false })

/-- Bytes join a flow's stream; each full payload of 248 bytes closes its cell (structural on a bound of cells). -/
def pushBytes : Nat → Nat → List Byte → State → State
  | 0, _, _, s => s
  | n + 1, f, bs, s =>
    let room := 248 - (s.cl.stream.get f).open_.length
    let s' := s.onFlow f fun x => { x with open_ := x.open_ ++ bs.take room }
    if room ≤ bs.length then pushBytes n f (bs.drop room) (closeCell f s') else s'

/-- A frame that Nutmeg emits joins its flow's byte stream behind its delimiter (R33). -/
def buildCells (f : Nat) (data : List Byte) (s : State) : State :=
  let s := s.onFlow f fun x => { x with fptr := if x.fptr = 255 then x.open_.length else x.fptr }
  let bs := beBytes 2 data.length ++ data
  pushBytes (bs.length / 248 + 2) f bs s

/-- CELL_FLUSH (R35): the oldest byte has waited FLUSH ticks, and the boundary that ends the tick closes the cell. -/
def execCellFlush (f : Fin 8192) (s : State) : Res :=
  let x := s.cl.stream.get f
  if s.up && !x.open_.isEmpty && flowFlush (s.flowE f) ≤ x.age + 1 then .next (s.onFlow f fun x => { x with due := true }) else .next s

/-- Frames taken from a reassembly buffer: each behind its 2-byte delimiter; a delimiter of 0 makes the rest padding. -/
def takeFrames : Nat → List Byte → List (List Byte) × List Byte
  | 0, bs => ([], bs)
  | n + 1, bs =>
    if bs.length < 2 then ([], bs)
    else
      let k := beAt bs 0 2
      if k = 0 then ([], [])
      else if bs.length < k + 2 then ([], bs)
      else
        let r := takeFrames n (bs.drop (k + 2))
        ((bs.drop 2).take k :: r.1, r.2)

/-- A cell reaches reassembly (R38): in step its bytes continue the stream; after a loss the stream resumes at the next cell
in which a frame begins. Whole frames wait at Nutmeg's receive input with the SLOT of the cell in which they began. -/
def reassemble (c : Cell) (s : State) : State :=
  let x := s.cl.stream.get c.flow
  let ok := x.inStep && x.rxSeq == some c.seq
  if ok || c.fptr < 248 then
    let bs := (c.payload.take c.valid)
    let buf := if ok then x.rx ++ bs else bs.drop c.fptr
    let held := ok && !x.rx.isEmpty
    let r := takeFrames 130 buf
    let slotOf (i : Nat) : Bool := if i = 0 && held then x.rxSlot else c.slot
    let cls := flowClass (s.flowE c.flow)
    let fs := r.1.zipIdx.map fun p => ({ flow := c.flow, cls := cls, slot := slotOf p.2, data := p.1 } : NutFrame)
    let s := s.onFlow c.flow fun x =>
      { x with rx := r.2, inStep := true, rxSeq := some ((c.seq + 1) % 2 ^ 32), rxSlot := slotOf r.1.length }
    { s with nut := { s.nut with rxQ := s.nut.rxQ ++ fs } }
  else cellDrop c.flow 1 (s.onFlow c.flow fun x => { x with rx := [], inStep := false, rxSeq := some ((c.seq + 1) % 2 ^ 32) })

/-- Cells of a class for a port wait in, or on the way to, the receive elastic region (R223). -/
def rxWaits (s : State) (p c : Nat) : Bool := (s.sett.el ++ s.sett.elQ).any fun x => x.rx && x.cls == c && x.port == p

/-- A cell on its way to reassembly (R223): it waits in the receive elastic region while its egress class is paused or
others of its class already wait there. -/
def rxCell (c : Cell) (s : State) : State :=
  let e := s.flowE c.flow
  let cls := flowClass e
  let p := flowPort e
  if (s.port p).classPaused cls || rxWaits s p cls then toElastic { rx := true, cls := cls, port := p, cell := c } s
  else reassemble c s

/-! ### Ingress (R155 to R165) -/

/-- The key word of an entry (R165): port, key type and value. -/
def keyWord (port kind value : Nat) : BitVec 64 := BitVec.ofNat 64 (port % 8 * 2 ^ 61 + kind % 8 * 2 ^ 58 + value % 2 ^ 48)

/-- The bucket of a key (R165): bits [11:0] of the CRC over its 8-byte key word. -/
def bucketOf (k : BitVec 64) : Nat := crc32 (beBytes 8 k.toNat) % 4096

/-- The place of a key in its bucket of four (R165). -/
def keySlot (s : State) (k : BitVec 64) : Option Nat :=
  ((List.range 4).map fun i => 4 * bucketOf k + i).find? fun i => (s.cl.keys.get i).map Prod.fst == some k

/-- The flow that the key table holds for a key. -/
def keyLookup (s : State) (k : BitVec 64) : Option Nat := (keySlot s k).bind fun i => (s.cl.keys.get i).map Prod.snd

/-- A lookup reads its bucket (R162 step 2): an entry that is poison is a miss (Table 8-2). -/
def keyRead (s : State) (k : BitVec 64) : Option Nat × State :=
  let s := (sramUse 5 (8 * bucketOf k) 8 s).2
  match keySlot s k with
  | some i => if (badWords s 5 (2 * i) 2).any fun j => maskBad (sramMask s 5 j) then (none, s) else (keyLookup s k, s)
  | none => (none, s)

/-- What the classifier makes of a frame on a port (R162, R164). -/
inductive Verdict where
  | trap
  | flow (f : Nat)
  | miss
deriving DecidableEq, Repr

/-- Steps 1 to 3 of R162. -/
def classify (s : State) (p : Nat) (d : List Byte) : Verdict × State :=
  let x := s.port p
  let ptp := (ptpOffset d).isSome
  if x.ptpMode = 1 ∧ ptp then (.flow (fld (wd x.cfg 1) 28 16), s)
  else if x.ptpMode = 2 ∧ ptp then (.trap, s)
  else if x.keyType = 0 then (.flow (fld (wd x.cfg 1) 12 0), s)
  else
    let other : Verdict := if flag (wd x.cfg 0) 29 then .flow (fld (wd x.cfg 1) 12 0) else .miss
    match keyOf x.keyType d with
    | some v =>
      let r := keyRead s (keyWord p x.keyType v)
      match r.1 with
      | some f => (.flow f, r.2)
      | none => (other, r.2)
    | none => (other, s)

/-- Steps 4 to 6 of R162: to Nutmeg's transmit input under the flow's class. -/
def admitFlow (f : Nat) (d : List Byte) (s : State) : State :=
  let e := s.flowE f
  if !flowValid e then s.count 4 0x20 f 1
  else if !((pathLines (flowPath e)).any s.sends) then s.count 4 0x21 f 1
  else { s with nut := { s.nut with txQ := s.nut.txQ ++ [{ flow := f, cls := flowClass e, data := d }] } }

/-- An accepted client frame: ingress stamp, transparent clock, classifier (R162, R170, R305). -/
def acceptFrame (p : Nat) (d : List Byte) (s : State) : State :=
  let x := s.port p
  let stamp := addPs s.now x.inAdj
  let d := if x.tcEn then tcIngress stamp d else d
  let s := s.count 4 9 p 1
  let r := classify s p d
  let s := r.2
  match r.1 with
  | .trap => { s with cl := { s.cl with trapped := s.cl.trapped ++ [(p, stamp, d)] } }
  | .flow f => admitFlow f d s
  | .miss => s.count 4 3 p 1

/-- A MAC control frame (R157): PFC is handled, PAUSE counted and ignored, any other dropped. -/
def controlFrame (p : Nat) (d : List Byte) (s : State) : State :=
  let op := beAt d 14 2
  if op = 0x0101 then
    takePfc p (BitVec.ofNat 8 (beAt d 16 2)) ((List.range 8).map fun q => BitVec.ofNat 16 (beAt d (18 + 2 * q) 2)) s
  else if op = 1 then s.count 4 7 p 1
  else s.count 4 8 p 1

/-- CLIENT_FRAME_INGRESS (R34, R151, R152, R155 to R157, R162): cwErrs counts the wrong symbols of each RS codeword that the frame
overlaps. -/
def execClientFrameIngress (p : Fin 8) (f : EthFrame) (sub : Nat) (cwErrs : List Nat) (rmOvf : Bool) (s : State) : Res :=
  if s.up && (s.port p).enabled then
    let s := s.atSub sub
    let len := f.data.length + 4
    let fecBad := fecFails cwErrs
    let s := s.when fecBad fun s => s.portFault (8 + p)
    .next <|
      if rmOvf then s.count 4 4 p 1
      else if fecBad || !f.fcsOk then s.count 4 0 p 1
      else if len < 64 then s.count 4 1 p 1
      else if fld (wd (s.port p).cfg 2) 13 0 < len then s.count 4 2 p 1
      else if (s.port p).st ≠ .up then s.count 4 0xB p 1
      else if etherType f.data = 0x8808 then controlFrame p f.data s
      else acceptFrame p f.data s
  else .next s

/-! ### Egress (R157, R304, R305) -/

/-- A frame reaches the egress MAC of its flow's port (R157). -/
def toEgress (f : Nat) (d : List Byte) (s : State) : State :=
  let e := s.flowE f
  let p := flowPort e
  if (s.port p).sends then s.onPort p fun x => { x with egr := x.egr ++ [{ flow := f, cls := flowClass e, data := d }] }
  else s.count 4 0x22 f 1

/-- The frame that the egress MAC starts next: the highest class that is not paused, the oldest of it. -/
def nextEgress (x : PortS) : Option EgrFrame :=
  ([7, 6, 5, 4, 3, 2, 1, 0].findSome? fun c => if x.classPaused c then none else x.egr.find? fun f => f.cls == c)

/-- The first of a list equal to an element is removed. -/
def dropFirst {α : Type} [DecidableEq α] (a : α) : List α → List α
  | [] => []
  | b :: bs => if a = b then bs else b :: dropFirst a bs

/-- The egress stamp of a PTP event message goes to the stamp queue; when it is full the oldest is lost (R304). -/
def queueStamp (p stamp sq : Nat) (s : State) : State :=
  let full := 64 ≤ (s.port p).stamps.length
  let s := s.onPort p fun x => { x with stamps := (if full then x.stamps.drop 1 else x.stamps) ++ [(stamp, sq)] }
  s.when full fun s => (s.count 8 0x20 p 1).marFault 9

/-- A frame leaves the port with the FCS that the egress MAC computes (R34). -/
def sendClient (p f : Nat) (d : List Byte) (s : State) : State := s.emit (.clientFrame p f d (fcs32 d))

/-- EGRESS_FRAME_START (R34, R157, R170, R304, R305). -/
def execEgressFrameStart (p : Fin 8) (sub : Nat) (s : State) : Res :=
  let x := s.port p
  match nextEgress x with
  | some f =>
    if s.up && x.sends then
      let s := s.atSub sub
      let stamp := addPs s.now x.outAdj
      let d := if x.tcEn then tcEgress stamp f.data else f.data
      let s := s.onPort p fun x => { x with egr := dropFirst f x.egr }
      let s := s.count 4 0xA p 1
      match (if x.ptpMode = 0 then none else ptpOffset d) with
      | some o =>
        if x.oneStep then
          .next (sendClient p f.flow (if f.fromCp ∧ ptpType d o = 0 then oneStepSync stamp o d else d) s)
        else if ptpType d o ≤ 3 then .next (sendClient p f.flow d (queueStamp p stamp (beAt d (o + 30) 2) s))
        else .next (sendClient p f.flow d s)
      | none => .next (sendClient p f.flow d s)
    else .next s
  | none => .next s

/-! ### The boundary -/

/-- Tracking of a READY lane over the tick that ended (R146): ADAPT 0b00 follows with both, 0b10 with the DFE alone, 0b01 is frozen. -/
def laneTrack (c : LaneS) (ctle : Nat) (dfe : List Int) : LaneS :=
  match fld c.cfg 17 16 with
  | 0 => { c with ctle := ctle, dfe := dfe.take 6 }
  | 2 => { c with dfe := dfe.take 6 }
  | _ => c

/-- A raw lane over the tick that ended (R147 to R149): captured bits, errors that the checker counted (none come in through the near-end
loopback), symbols sent. -/
def rawTick (i : Nat) (t : TickIn) (c : LaneS) : LaneS :=
  if c.raw then
    let syms := ((t.laneSyms.find? fun b => b.1.val == i).map fun b => b.2.map Fin.val).getD []
    let errs := if c.lpbk = 1 then 0 else ((t.prbsErrs.filter fun b => b.1.val == i).map fun b => b.2).sum
    { c with bits := c.capture syms, err := if c.lock then min (c.err + errs) 0x7FFFFFFF else c.err, sent := c.sent + laneSymbols }
  else c

/-- The receive state that a boundary brings a lane (R146): a far-end FIFO slip sets LOS (R149). -/
def laneNext (i : Nat) (t : TickIn) (c : LaneS) : Option LaneState :=
  if c.raw && c.lpbk == 2 && (t.fifoSlip.any fun k => k.val == i) && (c.rx == .adapt || c.rx == .ready) then some .los else c.due

/-- A lane takes the receive state due, with its fault bit (R146, R172). -/
def laneEnter (i : Nat) (x : LaneState) (s : State) : State :=
  let s := s.onLane i fun c => { c with rx := x, ticks := 0, sigdet := c.sigdet && x != .los, lock := c.lock && x != .los }
  match x with
  | .los => s.laneLosFault i
  | .failed => s.laneAdaptFault i
  | .off | .sigWait | .adapt | .ready => s

/-- A lane at a boundary. -/
def laneTick (i : Nat) (t : TickIn) (s : State) : State :=
  let s := s.onLane i fun c => { c with ticks := min (c.ticks + 1) 65535 }
  let s := s.each (t.adapt.filter fun b => b.1.val == i) fun s b => s.onLane i fun c => if c.rx = .ready then laneTrack c b.2.1 b.2.2 else c
  let s := s.onLane i (rawTick i t)
  let next := laneNext i t (s.lane i)
  let s := s.onLane i fun c => { c with due := none }
  let s := match next with
    | some x => laneEnter i x s
    | none => s
  s.each (t.symErrs.filter fun b => b.1.val == i) fun s b => s.count 4 0x40 i b.2

/-- A lane in use starts, one in use no more stops, once the boundary has settled which they are (R146, R149, R153). -/
def laneTurn (i : Nat) (s : State) : State :=
  if !laneUsed s i then s.onLane i fun c => { c with rx := .off, ticks := 0, due := none, txOn := false, sigdet := false, lock := false }
  else if (s.lane i).rx = .off then s.onLane i fun c => { c with rx := .sigWait, ticks := 0, txOn := true }
  else s

/-- PORT_STATE at a boundary (Table 5-3): `held` says that alignment has held over the tick. -/
def portNext (ready held : Bool) (x : PortS) : PortS :=
  match x.st with
  | .laneWait => if ready then { x with st := .align, ticks := 0 } else x
  | .align => if held && x.due then { x with st := .up, ticks := 0 } else { x with ticks := if held then min (x.ticks + 1) 7 else 0 }
  | .up => if !held then { x with st := .align, ticks := 0 } else if x.due then { x with st := .fault, ticks := 0 } else x
  | .fault =>
    if x.due && !x.faultTick then { x with st := .up, ticks := 0, rxLf := false, rxRf := false }
    else { x with ticks := if x.faultTick then 0 else min (x.ticks + 1) 7 }
  | .disabled => x

/-- A port at a boundary (R151, R153, R154, R157, R160). -/
def portTick (p : Nat) (t : TickIn) (s : State) : State :=
  let was := s.port p
  let ready := lanesReady s p
  let line := portHasLine s p
  let prop := flag (wd was.cfg 0) 30
  let got := t.aligned.any fun k => k.val == p
  let lpi := ((t.lpi.filter fun b => b.1.val == p).map fun b => b.2).sum
  let s := s.onPort p fun x =>
    let pause := (List.range 8).foldl (fun t q => t.upd q (· - bitsPerTick x.mode)) x.pause
    let x := { x with noLine := if line then 0 else min (x.noLine + 1) 255, lfSent := x.lfSent && prop && !line && x.enabled,
                      pause := pause, paused := (List.range 8).foldl (fun b q => putBit b q (b.getLsbD q && pause.get q != 0)) x.paused,
                      pcsErrs := x.pcsErrs + lpi }
    let x := portNext ready (x.aligned && ready) x
    { x with due := false, faultTick := false,
             aligned := ready && (x.st == .align || x.st == .up || x.st == .fault) && (x.aligned || got) }
  let s := s.when (was.st == .up && (s.port p).st == .align) fun s => s.portFault p
  let s := s.when (was.st == .up && (s.port p).st == .fault) fun s => s.portFault (16 + p)
  let lost := (s.port p).egr
  if (s.port p).sends then s
  else s.each lost (fun s f => s.count 4 0x22 f.flow 1) |>.onPort p fun x => { x with egr := [] }

/-- The open cells at a boundary (R35): those that have waited FLUSH ticks close, the others grow older. -/
def ageTick (s : State) : State :=
  let s := s.each (s.cl.stream.keys.filter fun f => (s.cl.stream.get f).due) fun s f => closeCell f s
  s.each s.cl.stream.keys fun s f => s.onFlow f fun x => { x with age := if x.open_.isEmpty then 0 else min (x.age + 1) 127 }

/-- A reply that waits for a capture at a boundary (R148): the tick after the command ends with its data. -/
def capReply (s : State) (r : Reply) : Reply :=
  match r.cap with
  | some (i, n + 2) => { r with cap := some (i, n + 1) }
  | some (i, _) => { r with cap := none, data := ((s.lane i).bits ++ List.replicate 64 0).take 64 }
  | none => r

/-- Every reply that waits for a capture: in flight, kept, and in the result store. -/
def capTurn (s : State) : State :=
  let s := s.each (List.range 17) fun s r => if (s.ring r).flight.isSome then s.onRing r fun k => { k with flight := k.flight.map (capReply s) } else s
  { s with cmd := { s.cmd with last := s.cmd.last.map (capReply s), store := s.cmd.store.map fun e => { e with final := capReply s e.final } } }

/-! ### Commands (Table 5-8) -/

/-- CLIENT_LANE_CFG (R143 to R146). -/
def cmdClientLaneCfg (_h : CmdHdr) (ws : List Word) (s : State) : CmdRes :=
  let ls := onesOf 18 (wd ws 0).toNat
  let w := wd ws 1
  let fixed (i : Nat) : Bool := fld (s.lane i).cfg 8 5 == fld w 8 5
  needLen ws 2 <| need (onlyBits (wd ws 0) 0x3FFFF) .badArg 0 <|
  need (onlyBits w 0xFFFFFDE0 && fld w 27 23 ≤ 16 && fld w 22 18 ≤ 16 && fld w 17 16 != 3 && fld w 15 10 ≤ 48) .badArg 1 <|
  need (ls.all fun i => fixed i || (laneOwner s i).isNone) .busy 0 <|
  need (!(ls.any fun i => s.isStaged .laneCfg i)) .busy 0 <|
  .done (s.each ls fun s i => s.stage .laneCfg i 0 [w]) []

/-- The configuration that a port will have at the next boundary. -/
def nextPortCfg (s : State) (p : Nat) : List Word :=
  match s.tick.staged.find? fun g => g.item == .port && g.idx == p with
  | some g => g.ws
  | none => (s.port p).cfg

/-- A port that will be enabled at the next boundary uses the lane. -/
def laneClaimed (s : State) (i : Nat) : Bool :=
  (List.range 8).any fun p => portEnabled (nextPortCfg s p) && (lanesOf p (portMode (nextPortCfg s p))).contains i

/-- CLIENT_LANE_RAW (R147 to R149). -/
def cmdClientLaneRaw (_h : CmdHdr) (ws : List Word) (s : State) : CmdRes :=
  let w := wd ws 0
  let i := fld w 19 16
  needLen ws 1 <| need (onlyBits w 0x7F0F0C73 && fld w 11 10 != 3 && fld w 6 4 ≤ 4) .badArg 0 <|
  need ((laneOwner s i).isNone && !laneClaimed s i) .busy 0 <| stageOne s .laneRaw i 0 ws

/-- CLIENT_LANE_READ (R148, Table 5-8): with SEL 1 the reply waits for the capture of the next tick. -/
def cmdClientLaneRead (_h : CmdHdr) (ws : List Word) (s : State) : CmdRes :=
  let w := wd ws 0
  let x := s.lane (fld w 4 0)
  let tap (i : Nat) : Nat := wrapInt 8 (x.dfe.getD i 0)
  needLen ws 1 <| need (onlyBits w 0x31F && fld w 4 0 ≤ 17 && fld w 9 8 ≤ 1 && (fld w 9 8 == 0 || fld w 4 0 ≤ 15)) .badArg 0 <|
  if fld w 9 8 = 0 then
    .done s [mkWord x.ctle, mkWord (tap 0 + 256 * tap 1 + 65536 * tap 2 + 16777216 * tap 3), mkWord (tap 4 + 256 * tap 5)]
  else .capture s (fld w 4 0)

/-- A port mode is allowed on a port (Table 5-2). -/
def modeAllowed (p mode : Nat) : Bool :=
  match mode with
  | 1 => true
  | 2 => p % 2 == 0
  | 3 => p % 4 == 0
  | _ => false

/-- CLIENT_PORT_CFG (R150, R164, Table 5-11). -/
def cmdClientPortCfg (_h : CmdHdr) (ws : List Word) (s : State) : CmdRes :=
  let w := wd ws 0
  let p := fld w 2 0
  let en := flag w 31
  let mode := fld w 23 22
  let maxLen := fld (wd ws 2) 13 0
  let mine := lanesOf p mode
  let clash := (List.range 8).any fun q => q != p && portEnabled (nextPortCfg s q) && (lanesOf q (portMode (nextPortCfg s q))).any mine.contains
  needLen ws 5 <|
  need (onlyBits w 0xFFC00007 && fld w 28 27 != 3 && fld w 26 24 ≤ 5 && (!en || modeAllowed p mode) && !(en && clash)) .badArg 0 <|
  need (onlyBits (wd ws 1) 0x1FFF1FFF && (fld w 28 27 != 1 || flowClass (s.flowE (fld (wd ws 1) 28 16)) == 7)) .badArg 1 <|
  need (onlyBits (wd ws 2) 0x3FFF && 64 ≤ maxLen && maxLen ≤ 16000) .badArg 2 <| need (onlyBits (wd ws 4) 0xFFFF) .badArg 4 <|
  need (!(en && mine.any fun i => (s.lane i).raw || s.isStaged .laneRaw i)) .busy 0 <|
  need (!(en && (s.port p).enabled && (s.port p).mode != mode)) .busy 0 <|
  stageOne s .port p 0 ws

/-- CLIENT_PFC_CFG (R161). -/
def cmdClientPfcCfg (_h : CmdHdr) (ws : List Word) (s : State) : CmdRes :=
  let w := wd ws 0
  let p := fld w 2 0
  let x : PortS := { (s.port p) with pfc := ws }
  let pris := (List.range 8).map x.pri
  let q := x.pri 7
  needLen ws 3 <| need (onlyBits w 0x3FFFFF07 && 1 ≤ fld w 29 24) .badArg 0 <|
  need (!x.txEn q && !x.rxEn q && (x.mode == 0 || fld w 29 24 * bitsPerTick x.mode < x.quanta * 512)) .badArg 0 <|
  need (onlyBits (wd ws 1) 0xFFFF && 1 ≤ x.quanta) .badArg 1 <|
  need (onlyBits (wd ws 2) 0xFFFFFF && (List.range 8).all pris.contains) .badArg 2 <|
  stageOne s .pfc p 0 ws

/-- CLIENT_REF_SEL (R171). -/
def cmdClientRefSel (_h : CmdHdr) (ws : List Word) (s : State) : CmdRes :=
  needLen ws 1 <| need (onlyBits (wd ws 0) 0x8F8F) .badArg 0 <| stageOne s .refSel 0 0 ws

/-- CLIENT_TS_ADJ (R170). -/
def cmdClientTsAdj (_h : CmdHdr) (ws : List Word) (s : State) : CmdRes :=
  let ok (w : Word) : Bool := decide (-20000 ≤ sword w) && decide (sword w ≤ 20000)
  needLen ws 3 <| need (onlyBits (wd ws 0) 7) .badArg 0 <| need (ok (wd ws 1)) .badArg 1 <| need (ok (wd ws 2)) .badArg 2 <|
  stageOne s .tsAdj (fld (wd ws 0) 2 0) 0 ws

/-- Width of a key type (Table 5-5). -/
def keyWidth (kind : Nat) : Nat :=
  match kind with
  | 1 => 12
  | 2 => 24
  | 3 => 3
  | 4 => 48
  | 5 => 6
  | _ => 0

/-- Entries in force in a bucket together with adds of new entries staged for it (R165). -/
def bucketLoad (s : State) (b : Nat) : Nat :=
  ((List.range 4).countP fun i => (s.cl.keys.get (4 * b + i)).isSome) +
  s.tick.staged.countP fun g => g.item == .key && g.op == 0 && (keyLookup s (BitVec.ofNat 64 g.idx)).isNone && bucketOf (BitVec.ofNat 64 g.idx) == b

/-- CLASS_KEY_SET (R165). -/
def cmdClassKeySet (_h : CmdHdr) (ws : List Word) (s : State) : CmdRes :=
  let w := wd ws 0
  let kind := fld w 26 24
  let v := (wd ws 1).toNat + 2 ^ 32 * fld (wd ws 2) 15 0
  let k := keyWord (fld w 2 0) kind v
  let there := (keyLookup s k).isSome
  needLen ws 4 <| need (onlyBits w 0x87000007 && 1 ≤ kind && kind ≤ 5) .badArg 0 <|
  need ((wd ws 1).toNat < 2 ^ keyWidth kind) .badArg 1 <| need (onlyBits (wd ws 2) 0xFFFF && decide (v < 2 ^ keyWidth kind)) .badArg 2 <| need (onlyBits (wd ws 3) 0x1FFF) .badArg 3 <|
  need (!flag w 31 || there) .badArg 0 <|
  needFree s .key k.toNat <|
  need (flag w 31 || there || bucketLoad s (bucketOf k) < 4) .noResource 0 <|
  .done (s.stage .key k.toNat (if flag w 31 then 1 else 0) [wd ws 3]) []

/-- The flow is PTP_FLOW of a port with PTP_MODE 1 (R167). -/
def isPtpFlow (s : State) (f : Nat) : Bool :=
  (List.range 8).any fun p => (s.port p).ptpMode == 1 && fld (wd (s.port p).cfg 1) 28 16 == f

/-- A new flow entry is acceptable beside the one in force (R167). -/
def flowWordOk (s : State) (f : Nat) (w : Word) : Bool :=
  let old := s.flowE f
  onlyBits w 0xB7707F00 && flowPath w != 3 && 1 ≤ flowFlush w && flowFlush w ≤ 64 &&
    !(flowValid old && flowValid w && (flowPath old != flowPath w || flowPort old != flowPort w)) &&
    !(isPtpFlow s f && flowClass w != 7)

/-- FLOW_SET (R167). -/
def cmdFlowSet (_h : CmdHdr) (ws : List Word) (s : State) : CmdRes :=
  let first := fld (wd ws 0) 12 0
  let n := fld (wd ws 0) 28 16
  let bad := (List.range n).find? fun i => !flowWordOk s (first + i) (wd ws (i + 1))
  need (onlyBits (wd ws 0) 0x1FFF1FFF && 1 ≤ n && n ≤ 1015 && first + n ≤ 8192) .badArg 0 <| needLen ws (n + 1) <|
  need bad.isNone .badArg (bad.getD 0 + 1) <|
  need (!((List.range n).any fun i => s.isStaged .flow (first + i))) .busy 0 <|
  .done (s.each (List.range n) fun s i => s.stage .flow (first + i) 0 [wd ws (i + 1)]) []

/-- FLOW_READ (R173). -/
def cmdFlowRead (_h : CmdHdr) (ws : List Word) (s : State) : CmdRes :=
  let first := fld (wd ws 0) 12 0
  let n := fld (wd ws 0) 28 16
  needLen ws 1 <| need (onlyBits (wd ws 0) 0x1FFF1FFF && 1 ≤ n && n ≤ 1015 && first + n ≤ 8192) .badArg 0 <|
  .done s ((List.range n).map fun i => s.flowE (first + i))

def execClientLaneCfg (h : CmdHdr) (ws : List Word) (s : State) : Res := .next (runCmd 0x0201 cmdClientLaneCfg h ws s)
def execClientLaneRaw (h : CmdHdr) (ws : List Word) (s : State) : Res := .next (runCmd 0x0202 cmdClientLaneRaw h ws s)
def execClientLaneRead (h : CmdHdr) (ws : List Word) (s : State) : Res := .next (runCmd 0x0203 cmdClientLaneRead h ws s)
def execClientPortCfg (h : CmdHdr) (ws : List Word) (s : State) : Res := .next (runCmd 0x0210 cmdClientPortCfg h ws s)
def execClientPfcCfg (h : CmdHdr) (ws : List Word) (s : State) : Res := .next (runCmd 0x0211 cmdClientPfcCfg h ws s)
def execClientRefSel (h : CmdHdr) (ws : List Word) (s : State) : Res := .next (runCmd 0x0212 cmdClientRefSel h ws s)
def execClientTsAdj (h : CmdHdr) (ws : List Word) (s : State) : Res := .next (runCmd 0x0213 cmdClientTsAdj h ws s)
def execClassKeySet (h : CmdHdr) (ws : List Word) (s : State) : Res := .next (runCmd 0x0220 cmdClassKeySet h ws s)
def execFlowSet (h : CmdHdr) (ws : List Word) (s : State) : Res := .next (runCmd 0x0300 cmdFlowSet h ws s)
def execFlowRead (h : CmdHdr) (ws : List Word) (s : State) : Res := .next (runCmd 0x0301 cmdFlowRead h ws s)

/-- A merged flow goes to SYNC (R220, R235): every held cell is discarded. The count says under which name. -/
def mergeSync (f idx : Nat) (s : State) : State :=
  let held := ((s.mg f).slots.ents.filter fun e => e.2.st == .held || e.2.st == .weak).length
  (s.onMg f fun m => { m with run := false, slots := .const {}, stale0 := 0, stale1 := 0 }).count 6 idx f held

/-- A raw-mode command takes effect (R147 to R149). -/
def applyRaw (i : Nat) (w : Word) (s : State) : State :=
  s.onLane i fun c =>
    let c := { c with err := if flag w 1 then 0 else c.err }
    if flag w 0 then
      let same := c.raw && fld c.rawCfg 6 4 == fld w 6 4
      { c with raw := true, rawCfg := w, slip := (c.slip + fld w 30 24) % 128, lock := c.lock && same, sent := if same then c.sent else 0 }
    else { c with raw := false, rawCfg := w, rx := .off, due := none, txOn := false, sigdet := false, lock := false }

/-- A port leaves its states for another from its first tick, with nothing held over. -/
def portRestart (p : Nat) (st : PortState) (s : State) : State :=
  s.onPort p fun x => { x with st := st, ticks := 0, due := false, faultTick := false, aligned := false, rxLf := false, rxRf := false, lfSent := false }

/-- A port's settings take effect (R150, R153): enabling starts it, disabling stops it and its lanes. -/
def applyPort (p : Nat) (ws : List Word) (s : State) : State :=
  let old := s.port p
  let s := s.onPort p fun x => { x with cfg := ws }
  if portEnabled ws && !old.enabled then portRestart p .laneWait s
  else if !portEnabled ws then
    let s := s.each (if old.enabled then lanesOf p old.mode else []) fun s i =>
      s.onLane i fun c => { c with rx := .off, ticks := 0, due := none, txOn := false, sigdet := false, lock := false }
    portRestart p .disabled s
  else s

/-- A flow entry takes effect (R167, R168, R220). -/
def applyFlow (f : Nat) (w : Word) (s : State) : State :=
  let old := s.flowE f
  let s := { s with cl := { s.cl with flow := s.cl.flow.set f w } }
  if flowValid w && !flowValid old then
    mergeSync f 0xD (s.onFlow f fun x => { x with seq := 0, open_ := [], fptr := 255, age := 0, due := false, inStep := false, rx := [], rxSeq := none })
  else if flowValid old && !flowValid w then s.onFlow f fun x => { x with open_ := [], fptr := 255, age := 0, due := false }
  else s

/-- An entry is added at the lowest free place of its bucket, replaced, or deleted (R165); its words are whole again. -/
def putKey (k : BitVec 64) (f : Option Nat) (s : State) : State :=
  let free := ((List.range 4).map fun i => 4 * bucketOf k + i).find? fun i => (s.cl.keys.get i).isNone
  match (keySlot s k).or free with
  | some i => sramWrite 5 (2 * i) 2 { s with cl := { s.cl with keys := s.cl.keys.set i (f.map fun n => (k, n)) } }
  | none => s

/-- A staged client item takes effect at its boundary. -/
def applyClient (g : Staged) (s : State) : State :=
  let w := wd g.ws 0
  match g.item with
  | .laneCfg => s.onLane g.idx fun c => { c with cfg := w, ctle := if fld w 17 16 = 2 then fld w 15 10 else c.ctle }
  | .laneRaw => applyRaw g.idx w s
  | .port => applyPort g.idx g.ws s
  | .pfc => s.onPort g.idx fun x => { x with pfc := g.ws }
  | .refSel => { s with cl := { s.cl with refSel := w } }
  | .tsAdj => s.onPort g.idx fun x => { x with inAdj := sword (wd g.ws 1), outAdj := sword (wd g.ws 2) }
  | .key =>
    let k := BitVec.ofNat 64 g.idx
    if g.op = 0 then putKey k (some (fld w 12 0)) s else if (keySlot s k).isSome then putKey k none s else s
  | .flow => applyFlow g.idx w s
  | _ => s

end Sys2Proof.Machine
end

