-- ==== Sys2Proof/Machine/Sett.lean ====
section
/-! DEFINITION. Chapter 7: the Sett. Cells in its memory, its states, the dual-path merge, elastic buffering, capture, the arbiter
and the SETT commands. -/

namespace Sys2Proof.Machine

/-! ### Cells and bytes in the Sett's memory (R208, R240) -/

/-- Data words from bytes, each with its first byte as row 0 (R240); structural on a word count. -/
def dataWords : Nat → List Byte → List (BitVec 64)
  | 0, _ => []
  | n + 1, bs => BitVec.ofNat 64 (leNat (bs.take 8)) :: dataWords n (bs.drop 8)

/-- Bytes stored from a granule on, n granules. -/
def storeBytes : Nat → Nat → List Byte → State → State
  | 0, _, _, s => s
  | n + 1, g, bs, s => storeBytes n (g + 1) (bs.drop 64) (settWrite g (dataWords 8 bs) s)

/-- Bytes read from a granule on, n granules: whether none was poison, the bytes, and the state. -/
def loadBytes : Nat → Nat → State → (Bool × List Byte) × State
  | 0, _, s => ((true, []), s)
  | n + 1, g, s =>
    let r := settRead g false s
    let q := loadBytes n (g + 1) r.1
    (((granuleData r.2).isSome && q.1.1, (r.2.flatMap fun w => leBytes 8 (shownData w).toNat) ++ q.1.2), q.2)

/-- A cell is written at a byte address: four granules (R228). -/
def storeCell (a : Nat) (c : Cell) (s : State) : State := storeBytes 4 (a / 64) (cellBytes c) s

/-- A cell is read from a byte address: none when it is poison. -/
def loadCell (a : Nat) (s : State) : Option Cell × State :=
  let r := loadBytes 4 (a / 64) s
  (if r.1.1 then some (cellOf r.1.2) else none, r.2)

/-! ### Capture (R226, R227) -/

/-- Records that the capture region holds at most. -/
def capRoom (s : State) : Nat := regionSize s 3 / 320

/-- Records held. -/
def capHeld (s : State) : Nat := min s.sett.recs (capRoom s)

/-- Fields of SETT_CAP_CFG (Table 7-6). -/
def capSrc (s : State) : Nat := fld (wd s.sett.capCfg 0) 2 0
def capTrig (s : State) : Nat := fld (wd s.sett.capCfg 1) 1 0
def capPost (s : State) : Nat := fld (wd s.sett.capCfg 4) 26 0

/-- The source chosen includes a tap: 0 and 1 received on L0 and L1, 3 and 4 sent, 5 merge output. -/
def capWants (s : State) (tap : Nat) : Bool := capSrc s == tap || (capSrc s == 2 && tap ≤ 1)

/-- The header of a record (R226): the manual names its fields and not their places. -/
def capHeader (s : State) (tap line num pos : Nat) (weak : Bool) : List Byte :=
  (leBytes 6 (s.now / secUnits) ++ leBytes 4 (s.now % secUnits / nsUnits) ++ leBytes 4 s.tick32 ++ leBytes 1 tap ++ leBytes 1 line ++
    leBytes 4 num ++ leBytes 2 pos ++ leBytes 1 (bitAt s.sett.capSkip 0 + bitAt weak 1) ++ List.replicate 64 0).take 64

/-- A cell passes a tap: while capture is ARMED or TRIGGERED with records to go, it is recorded (R226). The writer cannot store a record
(R227) while transfers of its records of an earlier tick still wait (DESIGN CHOICE, log entry 86). -/
def capture (tap line num pos : Nat) (weak : Bool) (c : Cell) (s : State) : State :=
  let open_ := s.sett.cap == .armed || (s.sett.cap == .triggered && s.sett.capLeft != 0)
  let pass := !flag (wd s.sett.capCfg 0) 3 || fld (wd s.sett.capCfg 0) 28 16 == c.flow
  if s.sett.st == .ready && open_ && pass && capWants s tap then
    if capRoom s = 0 || s.sett.capBehind then
      (State.count { s with sett := { s.sett with capGap := true, capSkip := true } } 6 0x40 0 1).settFault 5
    else
      let a := regionBase s 3 + 320 * (s.sett.recs % capRoom s)
      let s := storeBytes 5 (a / 64) (capHeader s tap line num pos weak ++ cellBytes c) (request 7 (granulePcs a 5) s)
      { s with sett := { s.sett with recs := s.sett.recs + 1, capSkip := false, capLeft := s.sett.capLeft - 1 } }
  else s

/-- Capture is triggered (R226). -/
def capTrigger (s : State) : State :=
  if s.sett.cap = .armed then { s with sett := { s.sett with cap := .triggered, capLeft := capPost s } } else s

/-- CAPTURE_TRIGGER (R226): by the chosen fault source, or in the chosen tick. -/
def execCaptureTrigger (fs : Fin 512) (s : State) : Res :=
  let w := s.sett.capCfg
  if s.up && s.sett.cap == .armed &&
      ((capTrig s == 1 && fld (wd w 1) 24 16 == fs.val && s.flt.pend.getLsbD fs) || (capTrig s == 2 && ofLohi (wd w 2) (wd w 3) == s.tick.num)) then
    .next (capTrigger s)
  else .next s

/-- CAPTURE_DONE (R226). -/
def execCaptureDone (s : State) : Res :=
  if s.up && s.sett.cap == .triggered && s.sett.capLeft == 0 then .next { s with sett := { s.sett with cap := .done } } else .next s

/-! ### States (R211, R212, R234, R235) -/

/-- The Sett enters a state. -/
def toSett (x : SettState) (s : State) : State := { s with sett := { s.sett with st := x, ticks := 0 } }

/-- The Sett stops holding data (R211, R212, R235): merge and elastic contents are discarded and counted, every flow goes to SYNC,
no operation waits, capture is idle. -/
def leaveReady (s : State) : State :=
  let s := s.each s.sett.el fun s x => s.count 6 0xD x.cell.flow 1
  let s := s.each s.sett.elQ fun s x => s.count 6 0xC x.cell.flow 1
  let s := s.each s.sett.arb.keys fun s k => onArb (k / 16) (k % 16) (fun x => { x with waiting := 0 }) s
  let s := { s with sett := { s.sett with el := [], elQ := [], txnQ := [], capBehind := false, cap := .idle } }
  s.each s.sett.merge.keys fun s f => mergeSync f 0xD s

/-- Stacks fail (R211): the bits of STACK_FAIL, one message, and FAILED. -/
def settFail (sts : List Nat) (why : Nat) (s : State) : State :=
  let s := leaveReady (toSett .failed s)
  let s := { s with sett := { s.sett with stackFail := sts.foldl (fun b i => putBit b i true) s.sett.stackFail } }
  (s.settFault 9).send 0 1 (sts.headD 0) why

/-- Stacks have failed: the next boundary enters FAILED. -/
def failStacks (sts : List Nat) (why : Nat) (s : State) : State :=
  { s with sett := { s.sett with failDue := some (match s.sett.failDue with
    | some p => (p.1 ++ sts, p.2)
    | none => (sts, why)) } }

/-- SETT_TRAIN_DONE (R211). -/
def execSettTrainDone (s : State) : Res :=
  if s.up && s.sett.st == .train && s.sett.ticks ≤ 2500 then .next { s with sett := { s.sett with due := some .clear } } else .next s

/-- SETT_TRAIN_TIMEOUT (R211). -/
def execSettTrainTimeout (untrained : BitVec 4) (s : State) : Res :=
  if s.up && s.sett.st == .train && 2500 ≤ s.sett.ticks && untrained != 0 then .next (failStacks (onesOf 4 untrained.toNat) 1 s) else .next s

/-- SETT_CLEAR_DONE (R211). -/
def execSettClearDone (s : State) : Res :=
  if s.up && s.sett.st == .clear then .next { s with sett := { s.sett with due := some .ready } } else .next s

/-- CLEAR has ended (R211, R255): every data and metadata word holds zero with valid checks, and the scrubber starts afresh. -/
def clearDone (s : State) : State :=
  let s := s.each [16, 17, 18, 19] fun s t => s.onTgt t fun x => { x with pos := 0, wb := [] }
  let sram := s.ecc.sram.keys.foldl (fun t k => if 8 * 2 ^ 40 ≤ k then t.set k (0, 0) else t) s.ecc.sram
  toSett .ready { s with sett := { s.sett with mem := .const [] }, ecc := { s.ecc with sram := sram } }

/-- STACK_INTERFACE_ERROR (R211). -/
def execStackInterfaceError (st : Fin 4) (s : State) : Res :=
  if s.up && s.sett.st == .ready then .next (failStacks [st] 3 s) else .next s

/-- SETT_STACK_TEMP (R234): REFX2 above 85, HOT from 95, TRIP from 105 degC, which takes the Sett to FAILED at the next boundary. -/
def execSettStackTemp (st : Fin 4) (temp : BitVec 8) (s : State) : Res :=
  if s.up && s.sett.st != .off then
    let t := temp.toInt
    let was := s.sett.hot.getLsbD st
    let s := { s with sett := { s.sett with temp := s.sett.temp.set st temp, refx2 := putBit s.sett.refx2 st (decide (85 < t)),
                                            hot := putBit s.sett.hot st (decide (95 ≤ t)) } }
    let s := s.when (decide (95 ≤ t) && !was) fun s => (s.settFault 7).trigger 4
    .next (s.when (decide (105 ≤ t) && s.sett.st != .failed) fun s => failStacks [st] 2 (s.settFault 8))
  else .next s

/-- The transition that the tick has brought about takes place at its boundary (R211). -/
def settTurn (s : State) : State :=
  let x := s.sett
  let s := { s with sett := { s.sett with due := none, failDue := none } }
  match x.failDue, x.due with
  | some p, _ => if x.st = .off ∨ x.st = .failed then s else settFail p.1 p.2 s
  | none, some .clear => if x.st = .train then toSett .clear s else s
  | none, some .ready => if x.st = .clear then clearDone s else s
  | none, _ => s

/-! ### The merge (R212 to R222) -/

/-- Slots of a flow's ring. -/
def MergeS.ring (m : MergeS) : Nat := 256 * m.ringU

/-- (a - b) modulo 2^32. -/
def seqDiff (a b : Nat) : Nat := (a + 2 ^ 32 - b % 2 ^ 32) % 2 ^ 32

/-- The delay of a line is valid (R216): not since its FR_STATE left IN_FRAME. -/
def delayValid (s : State) (l : Nat) : Bool := s.sett.dlyValid.get l && (s.fr l).fr == .inFrame

/-- Some line has a valid delay (R216). -/
def anyDelay (s : State) : Bool := delayValid s 0 || delayValid s 1

/-- The receiving entry makes the flow a protected one (R213). -/
def isProtected (s : State) (f : Nat) : Bool := flowValid (s.flowE f) && flowPath (s.flowE f) == 2

/-- Copies of the flow are handled in direct mode (R212, R216). -/
def isDirect (s : State) (f : Nat) : Bool := s.sett.st != .ready || (s.mg f).ringU == 0 || !anyDelay s

/-- HEAD and HEAD_IDX move on by n. -/
def MergeS.advance (m : MergeS) (n : Nat) : MergeS :=
  { m with head := (m.head + n) % 2 ^ 32, headIdx := if m.ringU = 0 then 0 else (m.headIdx + n) % m.ring }

/-- A copy in direct mode (R212). -/
def directCopy (c : Copy) (s : State) : State :=
  let f := c.cell.flow
  let d := seqDiff c.cell.seq (s.mg f).head
  if d < 2 ^ 31 then rxCell c.cell (s.onMg f fun m => m.advance (d + 1)) else s.count 6 1 f 1

/-- The byte address of a slot's cell (R214). -/
def slotAddr (m : MergeS) (i : Nat) : Nat := 65536 * m.base + 256 * i

/-- The first of the two metadata words of a slot record (R214). -/
def slotWord (m : MergeS) (i : Nat) : Nat := 2 * (256 * m.base + i)

/-- The pseudo-channels of a slot's five transfers: its record and its cell (R228). -/
def mergePcs (m : MergeS) (i : Nat) : List Nat := unitPc 10 (slotWord m i / 8) :: granulePcs (slotAddr m i) 4

/-- The slot holds this sequence number. -/
def holds (m : MergeS) (i seq : Nat) : Bool :=
  let x := m.slots.get i
  x.st != .empty && x.seq == seq % 2 ^ 32 && x.epoch == m.epoch

/-- A copy is stored at offset d from HEAD (R214, R217, R219): the record, the cell, and whether its release comes late. -/
def storeCopy (c : Copy) (d : Nat) (s : State) : State :=
  let f := c.cell.flow
  let m := s.mg f
  let i := (m.headIdx + d) % m.ring
  let r := c.ns + m.hold
  let s := s.onMg f fun m => { m with slots := m.slots.set i { st := if c.weak then .weak else .held, seq := c.cell.seq, rel := r % 2 ^ 32, line := c.line, epoch := m.epoch } }
  let s := storeCell (slotAddr m i) c.cell (sramWrite 10 (slotWord m i) 2 (request c.line (mergePcs m i) s))
  s.when (decide (r < s.tick.num + 1)) fun s => (s.count 6 7 f 1).settFault 0

/-- A line's run of consecutive STALE copies. -/
def setStale (f line n : Nat) (s : State) : State :=
  s.onMg f fun m => if line = 0 then { m with stale0 := n } else { m with stale1 := n }

/-- A flow restarts at a copy (R220). -/
def restartFlow (c : Copy) (s : State) : State :=
  let f := c.cell.flow
  let held := (s.mg f).slots.ents.length
  let s := s.onMg f fun m => { m with run := true, head := c.cell.seq, headIdx := 0, slots := .const {}, epoch := (m.epoch + 1) % 65536, stale0 := 0, stale1 := 0 }
  let s := (s.count 6 0xA f held).settFault 3
  storeCopy c 0 (s.count 6 0 f 1)

/-- A STALE copy (R220). -/
def staleCopy (c : Copy) (s : State) : State :=
  let f := c.cell.flow
  let n := (if c.line = 0 then (s.mg f).stale0 else (s.mg f).stale1) + 1
  let s := s.count 6 5 f 1
  if c.cell.seq = 0 ∨ 8 ≤ n then restartFlow c s else setStale f c.line n s

/-- The record of a slot that holds a cell is read for a copy (R228): one that is poison drops that cell (R240). -/
def checkSlot (f line i : Nat) (s : State) : State :=
  let m := s.mg f
  if (m.slots.get i).st = .empty then s
  else
    let r := sramUse 10 (slotWord m i) 2 (request line [unitPc 10 (slotWord m i / 8)] s)
    if r.1 then r.2 else (r.2.onMg f fun m => { m with slots := m.slots.set i {} }).count 6 8 f 1

/-- A copy of a flow in RUN (Table 7-3). -/
def runCopy (c : Copy) (s : State) : State :=
  let f := c.cell.flow
  let m := s.mg f
  let d := seqDiff c.cell.seq m.head
  let i := (m.headIdx + d) % m.ring
  if 2 ^ 31 ≤ d ∧ m.ring < 2 ^ 32 - d then staleCopy c s
  else
    let s := setStale f c.line 0 s
    if 2 ^ 31 ≤ d then s.count 6 4 f 1
    else if m.ring ≤ d then (s.count 6 3 f 1).settFault 1
    else
      let s := checkSlot f c.line i s
      let m := s.mg f
      if !holds m i c.cell.seq then storeCopy c d (s.count 6 0 f 1)
      else if (m.slots.get i).st = .weak ∧ m.replace ∧ !c.weak then storeCopy c d (s.count 6 2 f 1)
      else s.count 6 1 f 1

/-- A copy at a merged flow (Table 7-3). -/
def mergeCopy (c : Copy) (s : State) : State :=
  let f := c.cell.flow
  if (s.mg f).run then runCopy c s
  else storeCopy c 0 ((s.onMg f fun m => { m with run := true, head := c.cell.seq % 2 ^ 32, headIdx := 0 }).count 6 0 f 1)

/-- SETT_COPY_RECEIVE (R212, R216, R218): the oldest copy at the Sett's input. -/
def execSettCopyReceive (s : State) : Res :=
  match s.sett.inQ with
  | c :: cs =>
    if s.up then
      let s := { s with sett := { s.sett with inQ := cs } }
      .next (if isDirect s c.cell.flow then directCopy c s
        else if !delayValid s c.line then s.count 6 0xB c.cell.flow 1
        else mergeCopy c s)
    else .next s
  | [] => .next s

/-- A stored release tick has come (R219): R <= T in the low 32 bits. -/
def isDue (t rel : Nat) : Bool := seqDiff (t % 2 ^ 32) rel < 2 ^ 31

/-- The live slots of a ring by offset from HEAD, ascending: offset, slot number, record. -/
def liveSlots (m : MergeS) : List (Nat × Nat × SlotS) :=
  sortBy Prod.fst ((m.slots.ents.filter fun e => e.2.st != .empty && seqDiff e.2.seq m.head < m.ring).map fun e => (seqDiff e.2.seq m.head, e.1, e.2))

/-- A slot that the tick releases: its flow, its number and its record. -/
structure RelS where
  flow : Nat
  slot : Nat
  record : SlotS

/-- The release loop of R219 over the live slots, HEAD standing at offset p of the first one: GAPs are counted, HEAD moves on, and the
slots released are gathered, the last one first. -/
def releaseRun (f t : Nat) : List (Nat × Nat × SlotS) → Nat → State × List RelS → State × List RelS
  | [], _, a => a
  | e :: es, p, a =>
    if (e :: es).any fun x => isDue t x.2.2.rel then
      let s := (a.1.onMg f fun m => m.advance (e.1 - p)).count 6 6 f (e.1 - p)
      if isDue t e.2.2.rel then releaseRun f t es (e.1 + 1) (s.onMg f fun m => m.advance 1, { flow := f, slot := e.2.1, record := e.2.2 } :: a.2)
      else (s, a.2)
    else a

/-- The releases of a tick (R219) for every merged flow, in SEQ order within each. -/
def releasePlan (s : State) : State × List RelS :=
  let r := (s.sett.merge.keys.filter fun f => 0 < (s.mg f).ringU && isProtected s f && (s.mg f).run).foldl
    (fun a f => releaseRun f s.tick.num (liveSlots (a.1.mg f)) 0 a) (s, [])
  (r.1, r.2.reverse)

/-- A slot's cell is released (R219): it goes on, or is dropped where its record or its data is poison, or where its reads have not
completed by the end of the tick. -/
def releaseSlot (s : State) (p : RelS × Bool) : State :=
  let r := p.1
  let f := r.flow
  let m := s.mg f
  let clear (s : State) : State := s.onMg f fun m => { m with slots := m.slots.set r.slot {} }
  if p.2 then
    let ok := sramUse 10 (slotWord m r.slot) 2 s
    let q := loadCell (slotAddr m r.slot) ok.2
    match (if ok.1 then q.1 else none) with
    | some c => rxCell c (capture 5 r.record.line 0 0 (r.record.st == .weak) c (clear q.2))
    | none => (clear q.2).count 6 8 f 1
  else ((clear s).count 6 9 f 1).settFault 6

/-- A renumbering moves every stored release tick (R221). -/
def shiftReleases (d : Int) (s : State) : State :=
  s.each s.sett.merge.keys fun s f => s.onMg f fun m =>
    { m with slots := m.slots.ents.foldl (fun t e => t.set e.1 { e.2 with rel := wrapInt 32 (e.2.rel + d) }) m.slots }

/-- TXP in units of 2^-16 ns (R215). -/
def txpUnits : Nat := 2944 * 65536

/-- N_s of a frame (R215) from the marker's send time, and whether S - TXP lies more than 1,000 ns off its position. -/
def sendTick (sTime : Int) : Nat × Bool :=
  let x := sTime - txpUnits
  let n := roundDiv x tickUnits
  (n.toNat, decide (1000 * 65536 < (x - n * tickUnits).natAbs))

/-- HOLD_MIN of a line with one-way delay d, in 2^-16 ns (R217). -/
def holdMin (d : Int) : Nat := 3 + ((txpUnits + d) / tickUnits).toNat

/-! ### Elastic buffering (R223 to R225) -/

/-- The class table of a direction. -/
def clsEntry (s : State) (rx : Bool) (c : Nat) : List Word := (if rx then s.sett.clsRx else s.sett.clsTx).get c

/-- RESERVE, CEILING, XOFF or XON of a class in cells: 4,096 to the MB. -/
def clsCells (s : State) (rx : Bool) (c i : Nat) : Nat := 4096 * (wd (clsEntry s rx c) i).toNat

/-- Occupancy of a class. -/
def occ (s : State) (rx : Bool) (c : Nat) : Nat := s.sett.el.countP fun x => x.rx == rx && x.cls == c

/-- The region of a direction in cells. -/
def elCells (s : State) (rx : Bool) : Nat := regionSize s (if rx then 2 else 1) / 256

/-- The shared pool in cells, and the cells of it in use (R224). -/
def poolSize (s : State) (rx : Bool) : Nat := elCells s rx - ((List.range 8).map fun c => clsCells s rx c 0).sum
def poolUsed (s : State) (rx : Bool) : Nat := ((List.range 8).map fun c => occ s rx c - clsCells s rx c 0).sum

/-- LIMIT of a class (R224). -/
def elLimit (s : State) (rx : Bool) (c : Nat) : Nat :=
  if rx || (List.range 8).any (fun p => (s.port p).enabled && (s.port p).txEn ((s.port p).pri c)) then clsCells s rx c 1 else clsCells s rx c 2

/-- A cell of class c is admitted (R224). -/
def admits (s : State) (rx : Bool) (c : Nat) : Bool :=
  occ s rx c < clsCells s rx c 0 || (occ s rx c < elLimit s rx c && poolUsed s rx < poolSize s rx)

/-- The lowest free 256-byte place of a direction's region. -/
def freePlace (s : State) (rx : Bool) : Nat :=
  let base := regionBase s (if rx then 2 else 1)
  base + 256 * (((List.range (s.sett.el.length + 1)).find? fun i => !(s.sett.el.any fun x => x.addr == base + 256 * i)).getD 0)

/-- CELL_ELASTIC_ADMIT (R212, R224): the oldest cell that waits for admission. -/
def execCellElasticAdmit (s : State) : Res :=
  match s.sett.elQ with
  | x :: xs =>
    if s.up then
      let s := { s with sett := { s.sett with elQ := xs } }
      .next (if s.sett.st ≠ .ready then s.count 6 0xC x.cell.flow 1
        else if admits s x.rx x.cls then
          let a := freePlace s x.rx
          let s := metaWrite (acctWord x.rx x.cls) 1 (request (if x.rx then 3 else 6) (granulePcs a 4) s)
          storeCell a x.cell { s with sett := { s.sett with el := s.sett.el ++ [{ x with addr := a }] } }
        else (s.count 6 0xC x.cell.flow 1).settFault 4)
    else .next s
  | [] => .next s

/-- Cells of a class that a line's frame of this tick takes (R119, R223): what higher classes leave of its positions. -/
def frameShare (s : State) (l c : Nat) : Nat :=
  let have_ (k : Nat) : Nat := ((s.fr l).queue.get k).length + s.sett.el.countP fun x => !x.rx && x.cls == k && x.lines.contains l
  let higher := (((List.range 8).filter fun k => c < k).map have_).sum
  min (have_ c) (txNcell s l - higher)

/-- A class queue takes a cell of the elastic region (R223): its 1,024 places are free again as the frame of this tick takes cells. -/
def queueRoom (s : State) (l c : Nat) (share : Nat) : Bool := s.sends l && ((s.fr l).queue.get c).length < 1024 + share

/-- A cell of the transmit elastic region is read for one line whose class queue has room (R223); `ok` says that its read completes. -/
def drainLine (share : Nat → Nat → Nat) (ok : Nat → Nat → Bool) (x : ElCell) (l : Nat) (a : State × List Nat) : State × List Nat :=
  let s := a.1
  if queueRoom s l x.cls (share l x.cls) && ok x.addr l then
    let r := loadCell x.addr s
    match r.1 with
    | some c => (pushQueue l x.cls c r.2, a.2)
    | none => (r.2.count 6 8 x.cell.flow 1, a.2)
  else (s, a.2 ++ [l])

/-- One cell of the elastic regions moves on if it may: `stuck` holds what already waits, by direction, class and line or port. -/
def drainCell (share : Nat → Nat → Nat) (ok : Nat → Nat → Bool) (a : State × List ElCell) (x : ElCell) : State × List ElCell :=
  let s := a.1
  if x.rx then
    if (s.port x.port).classPaused x.cls || a.2.any (fun y => y.rx && y.cls == x.cls && y.port == x.port) || !ok x.addr 2 then (s, a.2 ++ [x])
    else
      let r := loadCell x.addr s
      match r.1 with
      | some c => (reassemble c r.2, a.2)
      | none => (r.2.count 6 8 x.cell.flow 1, a.2)
  else
    let blocked := x.lines.filter fun l => a.2.any fun y => !y.rx && y.cls == x.cls && y.lines.contains l
    let r := (x.lines.filter fun l => !blocked.contains l).foldl (fun b l => drainLine share ok x l b) (s, blocked)
    if r.2.isEmpty then (r.1, a.2) else (r.1, a.2 ++ [{ x with lines := r.2 }])

/-- The elastic readers at a boundary (R223): every class in order, as far as its line or port takes cells and its reads complete. The
accounting of a class that a cell leaves is written (R240). -/
def drainRun (ok : Nat → Nat → Bool) (s : State) : State :=
  let r := s.sett.el.foldl (drainCell (frameShare s) ok) (s, [])
  let gone := s.sett.el.filter fun x => !(r.2.any fun y => y.addr == x.addr)
  let s := { r.1 with sett := { r.1.sett with el := r.2 } }
  s.each gone fun s x => metaWrite (acctWord x.rx x.cls) 1 s

/-- The reads that the elastic readers ask for: byte address, and the line, 2 for a read toward a port. -/
def drainPlan (s : State) : List (Nat × Nat) :=
  let after := (drainRun (fun _ _ => true) s).sett.el
  s.sett.el.flatMap fun x =>
    let left := after.find? fun y => y.addr == x.addr
    if x.rx then (if left.isNone then [(x.addr, 2)] else [])
    else (x.lines.filter fun l => !((left.map (·.lines)).getD []).contains l).map fun l => (x.addr, l)

/-- A class's posting (R225): XOFF, XON or unchanged. -/
def postClass (s : State) (rx : Bool) (b : BitVec 8) (c : Nat) : BitVec 8 :=
  let n := occ s rx c
  let used := poolUsed s rx
  let size := poolSize s rx
  if clsCells s rx c 2 ≤ n || (size ≤ used && clsCells s rx c 0 ≤ n) then putBit b c true
  else if n ≤ clsCells s rx c 3 && 16 * used < 15 * size then putBit b c false
  else b

/-- The postings of a boundary (R225). -/
def postTick (s : State) : State :=
  let s := { s with sett := { s.sett with txXoff := (List.range 8).foldl (postClass s false) s.sett.txXoff } }
  { s with sett := { s.sett with rxHigh := (List.range 8).foldl (postClass s true) s.sett.rxHigh } }

/-! ### The arbiter (R230 to R233) -/

/-- Default BAND and WEIGHT of a requester (Table 7-7). -/
def bandDflt (q : Nat) : Nat := if q ≤ 2 then 3 else if q ≤ 5 then 2 else if q ≤ 7 then 1 else 0
def weightDflt (q : Nat) : Nat := if q = 5 then 8 else if 7 ≤ q then 1 else 4

/-- BAND and WEIGHT in force of a requester at a pseudo-channel. -/
def bandOf (s : State) (pc q : Nat) : Nat := let b := (s.sett.arb.get (16 * pc + q)).band; if b = 4 then bandDflt q else b
def weightOf (s : State) (pc q : Nat) : Nat := let w := (s.sett.arb.get (16 * pc + q)).weight; if w = 0 then weightDflt q else w

/-- The requesters waiting at a pseudo-channel. -/
def waiters (s : State) (pc : Nat) : List Nat := (List.range 9).filter fun q => 0 < waitingOf s pc q

/-- The requester last served in a band of a pseudo-channel. -/
def lastOf (s : State) (pc b : Nat) : Nat := s.sett.lastReq.get (4 * pc + b)

/-- The requesters in ascending order from the one after the last served in a band. -/
def fromLast (s : State) (pc b : Nat) : List Nat := (List.range 9).map fun i => (lastOf s pc b + 1 + i) % 9

/-- Credit left to the requester last served in its band. -/
def creditOf (s : State) (pc q : Nat) : Nat := (s.sett.arb.get (16 * pc + q)).credit

/-- The order in which a band's requesters come in its current round (R230), each with its remaining credit: the one last served while
it has credit, then the others with their WEIGHT. -/
def roundOf (s : State) (pc b : Nat) : List (Nat × Nat) :=
  let ws := (waiters s pc).filter fun q => bandOf s pc q == b
  let last := lastOf s pc b
  let rest := ((fromLast s pc b).filter ws.contains).map fun q => (q, weightOf s pc q)
  if ws.contains last && 0 < creditOf s pc last then (last, creditOf s pc last) :: rest else rest

/-- The winner of a cycle (R230): the first of the round of the highest band that waits, and its credit. -/
def winner (s : State) (pc : Nat) : Option (Nat × Nat) :=
  (roundOf s pc (((waiters s pc).map (bandOf s pc)).foldl max 0)).head?

/-- ECC work that waits for a pseudo-channel in the ECC cycles from the j-th of the tick on (R231): write-backs, then the scrub quota. -/
def eccWork (s : State) (pc j : Nat) : Nat :=
  wbWaiting s pc + (if scrubRuns s then (s.ecc.quota - s.ecc.scrubbed.get pc) - (j - s.ecc.used.get pc) else 0)

/-- The turn estimate of a requester that lost cycle n of the tick (R232). -/
def turnEstimate (s : State) (pc n q : Nat) : Nat :=
  let b := bandOf s pc q
  let h := (((waiters s pc).filter fun r => b < bandOf s pc r).map (waitingOf s pc)).sum
  let ahead := (roundOf s pc b).takeWhile fun r => r.1 != q
  let a := (ahead.map fun r => min r.2 (waitingOf s pc r.1)).sum
  let w := min ((n + h + a) / 32 - n / 32) (eccWork s pc (n / 32 + 1))
  min (5 * (h + a + w)) 0xFFFF

/-- The requesters that have lost cycle n receive their turn estimates; the largest is kept (R232). -/
def losers (pc n : Nat) (qs : List Nat) (s : State) : State :=
  if qs.isEmpty then s else s.count 6 0x21 pc ((qs.map (turnEstimate s pc n)).foldl max 0)

/-- One transfer is granted: its entry is freed (R229), and its requester's credit shrinks. -/
def grant (pc q credit : Nat) (s : State) : State :=
  let b := bandOf s pc q
  let s := onArb pc q (fun x => { x with waiting := x.waiting - 1, credit := credit - 1 }) s
  State.count { s with sett := { s.sett with lastReq := s.sett.lastReq.set (4 * pc + b) q } } 6 0x20 pc 1

/-- An ECC cycle goes to the oldest write-back of the pseudo-channel, or is kept for the scrubber's reads of the tick (R231). -/
def eccCycle (pc : Nat) (s : State) : State :=
  match (s.tgt (16 + pc / 16)).wb.find? fun w => w.held && w.pc == pc with
  | some w => takeWb (16 + pc / 16) w (useEcc pc 1 s)
  | none => s

/-- Arbitration cycle n of the tick on a pseudo-channel (R230 to R232). -/
def arbCycle (n pc : Nat) (s : State) : State :=
  if n % 32 = 0 ∧ 0 < eccWork s pc (n / 32) then
    let s := eccCycle pc s
    losers pc n (waiters s pc) s
  else match winner s pc with
    | some q =>
      let s := grant pc q.1 q.2 s
      losers pc n ((waiters s pc).filter (· != q.1)) s
    | none => s

/-- The pseudo-channels at which something waits. -/
def busyPcs (s : State) : List Nat := (List.range 64).filter fun pc => !(waiters s pc).isEmpty

/-- The arbiters from cycle n on, k cycles, as long as anything waits (R230); entries freed go to waiting operations in each. -/
def arbRun : Nat → Nat → State → State
  | 0, _, s => s
  | k + 1, n, s =>
    let s := allocate s.sett.txnQ.length s
    let pcs := busyPcs s
    if pcs.isEmpty then s else arbRun k (n + 1) (s.each pcs fun s pc => arbCycle n pc s)

/-- The ECC cycles that the arbiters' run has left take the write-backs that still wait (R231). -/
def wbRest (s : State) : State :=
  s.each [16, 17, 18, 19] fun s t => s.each ((s.tgt t).wb.filter (·.held)) fun s w =>
    if s.ecc.used.get w.pc < eccCycles then takeWb t w (useEcc w.pc 1 s) else s

/-- Which of a requester's operations of this tick have had all their grants: transfers still waiting belong to the last of them. -/
def opsDone (q : Nat) (ops : List (List Nat)) (s : State) : List Bool :=
  let queued := (s.sett.txnQ.filter fun o => o.req == q).flatMap (·.pcs)
  let left := queued.foldl (fun (t : Table Nat) pc => t.upd pc (· + 1))
    ((List.range 64).foldl (fun (t : Table Nat) pc => t.set pc (waitingOf s pc q)) (.const 0))
  (ops.foldr (fun pcs a => (pcs.foldl (fun t pc => t.upd pc (· - 1)) a.1, (!(pcs.any fun pc => 0 < a.1.get pc)) :: a.2)) (left, [])).2

/-- Reads of a requester that the tick has left undone are given up: their entries are free. -/
def dropReads (q : Nat) (s : State) : State :=
  let s := s.each (List.range 64) fun s pc => if waitingOf s pc q = 0 then s else onArb pc q (fun x => { x with waiting := 0 }) s
  { s with sett := { s.sett with txnQ := s.sett.txnQ.filter fun o => o.req != q } }

/-! ### The boundary -/

/-- The Sett as a tick ends: its state, and a delay that became invalid with its line (R216). -/
def settTick (s : State) : State :=
  let s := settTurn { s with sett := { s.sett with ticks := min (s.sett.ticks + 1) 65535 } }
  s.each [0, 1] fun s l =>
    if (s.fr l).fr = .inFrame then s else { s with sett := { s.sett with dlyValid := s.sett.dlyValid.set l false } }

/-- The Sett as a tick begins: the reads of the tick's releases (R219) and of the elastic readers (R223) join the transfers that wait, the
arbiters run their 2,560 cycles (R208), and the cells whose reads complete move on. Transfers asked for within a tick
wait for the next tick's run (DESIGN CHOICE, log entry 87). -/
def settBegin (s : State) : State :=
  if s.sett.st = .ready then
    let p := releasePlan s
    let rel := p.2.map fun r => mergePcs (p.1.mg r.flow) r.slot
    let reads := drainPlan p.1
    let rx := reads.filter fun r => r.2 == 2
    let tx := reads.filter fun r => r.2 != 2
    let s := p.1.each rel fun s pcs => request 2 pcs s
    let s := s.each reads fun s r => request (if r.2 = 2 then 4 else 5) (granulePcs r.1 4) s
    let s := wbRest (arbRun 2560 0 s)
    let relOk := opsDone 2 rel s
    let rxOk := opsDone 4 (rx.map fun r => granulePcs r.1 4) s
    let txOk := opsDone 5 (tx.map fun r => granulePcs r.1 4) s
    let done := ((rx.zip rxOk) ++ (tx.zip txOk)).filterMap fun r => if r.2 then some r.1 else none
    let s := [2, 4, 5].foldl (fun s q => dropReads q s) s
    let s := drainRun (fun a l => done.contains (a, l)) (s.each (p.2.zip relOk) releaseSlot)
    let behind := (List.range 64).any (fun pc => 0 < waitingOf s pc 7) || s.sett.txnQ.any fun o => o.req == 7
    { s with sett := { s.sett with capBehind := behind } }
  else s

/-! ### Commands (Table 7-10) -/

/-- Every SETT command but SETT_MERGE_STATUS needs READY (R212); the boot table's records wait for it. -/
def needReady (s : State) (k : CmdRes) : CmdRes := need (s.sett.st == .ready || s.cmd.accepting) .busy 0 k

/-- SETT_REGION_CFG (R210). -/
def cmdSettRegionCfg (_h : CmdHdr) (ws : List Word) (s : State) : CmdRes :=
  let a := wd ws 0
  let b := wd ws 1
  let off := [0, 1].all fun l => (s.cv l).tx == .off && (s.cv l).rx == .off
  let rings := s.sett.merge.keys.any (fun f => (s.mg f).ringU != 0) || s.tick.staged.any fun g => g.item == .merge && g.op == 0
  needLen ws 2 <| need (onlyBits a 0x0FFF0FFF && fld a 27 16 + fld a 11 0 + fld b 27 16 + fld b 11 0 == 2048) .badArg 0 <|
  need (onlyBits b 0x0FFF0FFF && fld b 11 0 ≤ 512) .badArg 1 <|
  needReady s <| need (off && !rings) .busy 0 <| stageOne s .region 0 0 ws

/-- The class entry that will be in force at the next boundary. -/
def nextCls (s : State) (rx : Bool) (c : Nat) : List Word :=
  match s.tick.staged.find? fun g => g.item == .cls && g.idx == (if rx then 8 + c else c) with
  | some g => g.ws
  | none => clsEntry s rx c

/-- SETT_CLASS_SET (Table 7-5). -/
def cmdSettClassSet (_h : CmdHdr) (ws : List Word) (s : State) : CmdRes :=
  let w := wd ws 0
  let rx := flag w 8
  let c := fld w 2 0
  let v (i : Nat) : Nat := (wd ws i).toNat
  let size := regionSize s (if rx then 2 else 1) / 2 ^ 20
  let others := (((List.range 8).filter (· != c)).map fun k => (wd (nextCls s rx k) 0).toNat).sum
  let wide := [1, 2, 3, 4].find? fun i => !onlyBits (wd ws i) 0xFFFFF
  needLen ws 5 <| need (onlyBits w 0x107) .badArg 0 <| need wide.isNone .badArg (wide.getD 0) <|
  need (v 1 ≤ v 4 && others + v 1 ≤ size) .badArg 1 <| need (v 3 ≤ v 2 && v 2 ≤ size) .badArg 2 <| need (v 4 < v 3) .badArg 3 <|
  needReady s <| stageOne s .cls (if rx then 8 + c else c) 0 (ws.drop 1)

/-- Rings in use or staged, as (base, size) in units of 64 KB. -/
def ringSpans (s : State) : List (Nat × Nat) :=
  ((s.sett.merge.keys.filter fun f => (s.mg f).ringU != 0).map fun f => ((s.mg f).base, (s.mg f).ringU)) ++
  (s.tick.staged.filter fun g => g.item == .merge && g.op == 0).map fun g => ((wd g.ws 3).toNat, (wd g.ws 1).toNat)

/-- The lowest place where a ring of u units fits (R214): at 0 or behind a ring. -/
def firstFit (s : State) (u : Nat) : Option Nat :=
  let spans := ringSpans s
  let room := regionSize s 0 / 65536
  let starts := sortBy id (0 :: spans.map fun r => r.1 + r.2)
  starts.find? fun b => b + u ≤ room && spans.all fun r => b + u ≤ r.1 || r.1 + r.2 ≤ b

/-- SETT_MERGE_SET (R214, R221, Table 7-11): the place of a new ring is fixed at the commit and kept as a fourth word. -/
def cmdSettMergeSet (_h : CmdHdr) (ws : List Word) (s : State) : CmdRes :=
  let w := wd ws 0
  let op := fld w 31 30
  let f := fld w 12 0
  let u := fld (wd ws 1) 21 0
  let has := (s.mg f).ringU != 0
  needLen ws 3 <| need (onlyBits w 0xC0011FFF && (op == 0) != has) .badArg 0 <|
  need (onlyBits (wd ws 1) 0x3FFFFF && (op != 0 || u != 0)) .badArg 1 <|
  need (onlyBits (wd ws 2) 0xFFFF && (2 ≤ op || 3 ≤ fld (wd ws 2) 15 0)) .badArg 2 <|
  needReady s <| needFree s .merge f <|
  match op, firstFit s u with
  | 0, none => .fail .noResource 0
  | 0, some b => .done (s.stage .merge f 0 (ws ++ [mkWord b])) []
  | _, _ => .done (s.stage .merge f op ws) []

/-- The state of a flow as SETT_MERGE_STATUS says it (R237). -/
def mergeState (s : State) (f : Nat) : Nat :=
  if !isProtected s f then 0 else if isDirect s f then 3 else if (s.mg f).run then 2 else 1

/-- SETT_MERGE_STATUS (R237). -/
def cmdSettMergeStatus (_h : CmdHdr) (ws : List Word) (s : State) : CmdRes :=
  let f := fld (wd ws 0) 12 0
  let m := s.mg f
  needLen ws 1 <| need (onlyBits (wd ws 0) 0x1FFF) .badArg 0 <|
  .done s [mkWord (mergeState s f), mkWord m.head, mkWord m.hold, mkWord m.ringU, mkWord m.slots.ents.length]

/-- SETT_ARB_SET (R233): at once where no other requester waits, else at the next boundary. -/
def cmdSettArbSet (_h : CmdHdr) (ws : List Word) (s : State) : CmdRes :=
  let w := wd ws 0
  let q := fld w 3 0
  let pcs := onesOf 64 (ofLohi (wd ws 1) (wd ws 2))
  let alone (pc : Nat) : Bool := (waiters s pc).all fun r => r == q
  needLen ws 3 <| need (onlyBits w 0x000F030F && q ≤ 8 && 1 ≤ fld w 19 16) .badArg 0 <|
  needReady s <| need (!(pcs.any fun pc => s.isStaged .arb (16 * pc + q))) .busy 0 <|
  .done (s.each pcs fun s pc =>
    if alone pc then onArb pc q (fun x => { x with band := fld w 9 8, weight := fld w 19 16, credit := fld w 19 16 }) s
    else s.stage .arb (16 * pc + q) 0 [w]) []

/-- SETT_CAP_CFG (Table 7-6). -/
def cmdSettCapCfg (_h : CmdHdr) (ws : List Word) (s : State) : CmdRes :=
  let w := wd ws 0
  needLen ws 5 <| need (onlyBits w 0x1FFF000F && fld w 2 0 ≤ 5) .badArg 0 <|
  need (onlyBits (wd ws 1) 0x01FF0003 && fld (wd ws 1) 1 0 ≤ 2) .badArg 1 <| need (onlyBits (wd ws 4) 0x07FFFFFF) .badArg 4 <|
  needReady s <| need (s.sett.cap == .idle || s.sett.cap == .done) .busy 0 <| stageOne s .capCfg 0 0 ws

/-- SETT_CAP_ARM (R226). -/
def cmdSettCapArm (_h : CmdHdr) (ws : List Word) (s : State) : CmdRes :=
  needLen ws 1 <| need (onlyBits (wd ws 0) 3) .badArg 0 <| needReady s <| stageOne s .capArm 0 0 ws

/-- One capture record of five granules is read, and its words follow those before it. -/
def readRecord (g : Nat) (a : State × List Word) : State × List Word :=
  let q := loadBytes 5 g a.1
  (q.2, a.2 ++ wordsOf q.1.2)

/-- SETT_CAP_READ (R227): record 0 is the oldest; 80 words a record. -/
def cmdSettCapRead (_h : CmdHdr) (ws : List Word) (s : State) : CmdRes :=
  let first := (wd ws 0).toNat
  let n := fld (wd ws 1) 3 0
  let at_ (i : Nat) : Nat := regionBase s 3 + 320 * ((s.sett.recs - capHeld s + first + i) % capRoom s)
  needLen ws 2 <| need (onlyBits (wd ws 1) 0xF && 1 ≤ n && n ≤ 12) .badArg 1 <| need (first + n ≤ capHeld s) .badArg 0 <|
  needReady s <| need (s.sett.cap == .idle || s.sett.cap == .done) .busy 0 <|
  let s := s.each (List.range n) fun s i => request 8 (granulePcs (at_ i) 5) s
  let r := (List.range n).foldl (fun a i => readRecord (at_ i / 64) a) (s, [])
  .done r.1 r.2

def execSettRegionCfg (h : CmdHdr) (ws : List Word) (s : State) : Res := .next (runCmd 0x0401 cmdSettRegionCfg h ws s)
def execSettClassSet (h : CmdHdr) (ws : List Word) (s : State) : Res := .next (runCmd 0x0402 cmdSettClassSet h ws s)
def execSettMergeSet (h : CmdHdr) (ws : List Word) (s : State) : Res := .next (runCmd 0x0403 cmdSettMergeSet h ws s)
def execSettMergeStatus (h : CmdHdr) (ws : List Word) (s : State) : Res := .next (runCmd 0x0404 cmdSettMergeStatus h ws s)
def execSettArbSet (h : CmdHdr) (ws : List Word) (s : State) : Res := .next (runCmd 0x0405 cmdSettArbSet h ws s)
def execSettCapCfg (h : CmdHdr) (ws : List Word) (s : State) : Res := .next (runCmd 0x0406 cmdSettCapCfg h ws s)
def execSettCapArm (h : CmdHdr) (ws : List Word) (s : State) : Res := .next (runCmd 0x0407 cmdSettCapArm h ws s)
def execSettCapRead (h : CmdHdr) (ws : List Word) (s : State) : Res := .next (runCmd 0x0408 cmdSettCapRead h ws s)

/-- The words of the free map that a run of 64 KB units lies in. -/
def mapRun (base u : Nat) (s : State) : State := metaWrite (mapWord base) (mapWord (base + u - 1) + 1 - mapWord base) s

/-- Ring, HOLD and resync of a flow take effect (R214, R220, R221). -/
def applyMerge (f op : Nat) (ws : List Word) (s : State) : State :=
  let hold := fld (wd ws 2) 15 0
  let u := fld (wd ws 1) 21 0
  let base := (wd ws 3).toNat
  match op with
  | 0 => (mapRun base u s).onMg f fun m =>
      { m with ringU := u, base := base, hold := hold, replace := flag (wd ws 0) 16, run := false, headIdx := 0, slots := .const {} }
  | 1 => s.onMg f fun m => { m with hold := hold }
  | 2 => (mapRun (s.mg f).base (s.mg f).ringU (mergeSync f 0xD s)).onMg f fun m => { m with ringU := 0, base := 0, headIdx := 0 }
  | _ => mergeSync f 0xD s

/-- SETT_CAP_ARM takes effect (R226, R227): arming discards every record; TRIGGER leaves an ARMED capture's records. While the Sett is
not READY capture is idle (R212). -/
def applyCapArm (w : Word) (s : State) : State :=
  let armed := s.sett.cap == .armed || s.sett.cap == .triggered
  let arm (s : State) : State := { s with sett := { s.sett with cap := .armed, recs := 0, capLeft := 0, capGap := false, capSkip := false } }
  if s.sett.st ≠ .ready then s
  else if flag w 1 then capTrigger (if flag w 0 && !armed then arm s else s)
  else if flag w 0 then arm s
  else { s with sett := { s.sett with cap := .idle } }

/-- A staged Sett item takes effect at its boundary. -/
def applySett (g : Staged) (s : State) : State :=
  let w := wd g.ws 0
  match g.item with
  | .region => { s with sett := { s.sett with region := g.ws, cap := .idle, recs := 0, capGap := false, capSkip := false } }
  | .cls => { s with sett := if g.idx < 8 then { s.sett with clsTx := s.sett.clsTx.set g.idx g.ws } else { s.sett with clsRx := s.sett.clsRx.set (g.idx - 8) g.ws } }
  | .merge => applyMerge g.idx g.op g.ws s
  | .arb => onArb (g.idx / 16) (g.idx % 16) (fun x => { x with band := fld w 9 8, weight := fld w 19 16, credit := fld w 19 16 }) s
  | .capCfg => { s with sett := { s.sett with capCfg := g.ws } }
  | .capArm => applyCapArm w s
  | _ => s

end Sys2Proof.Machine
end

