-- ==== Sys2Proof/Machine/Timing.lean ====
section
/-! DEFINITION. Chapter 9: references and their monitors, the DPLL, selection and switching, holdover, the time of day, outputs, time
over the chain, and the timing commands. -/

namespace Sys2Proof.Machine

/-! ### Readings -/

/-- Fields of TIM_REF_CFG (Table 9-9). -/
def refPrio (ws : List Word) : Nat := fld (wd ws 0) 31 28
def refBw (ws : List Word) : Nat := fld (wd ws 0) 22 19
def refPbo (ws : List Word) : Bool := flag (wd ws 0) 18
def refEdge (ws : List Word) : Bool := flag (wd ws 0) 17
def refPps (ws : List Word) : Bool := flag (wd ws 0) 16
def refNom (ws : List Word) : Nat := fld (wd ws 1) 29 0
def refDelay (ws : List Word) : Int := sword (wd ws 2)
def RefS.prio (r : RefS) : Nat := refPrio r.cfg
def RefS.pps (r : RefS) : Bool := refPps r.cfg

/-- PPS_WIN in 2^-16 ns: units of 10 ns. -/
def RefS.window (r : RefS) : Nat := fld (wd r.cfg 3) 13 0 * 10 * nsUnits

/-- Fields of TIM_DPLL_CFG (Table 9-10), limits in 10^-12. -/
def TimS.mode (t : TimS) : Nat := fld (wd t.cfg 0) 31 30
def TimS.selRef (t : TimS) : Nat := fld (wd t.cfg 0) 26 24
def TimS.wtr (t : TimS) : Nat := fld (wd t.cfg 0) 9 0
def TimS.qualLim (t : TimS) : Nat := fld (wd t.cfg 1) 31 16 * 10000
def TimS.disLim (t : TimS) : Nat := fld (wd t.cfg 1) 15 0 * 1000
def TimS.window (t : TimS) : Nat := fld (wd t.cfg 2) 31 16
def TimS.guardSec (t : TimS) : Nat := fld (wd t.cfg 2) 15 0
def TimS.slewRate (t : TimS) : Nat := fld (wd t.cfg 3) 31 16
def TimS.ocxoEn (t : TimS) : Bool := flag (wd t.cfg 3) 8
def TimS.xoPpm (t : TimS) : Nat := fld (wd t.cfg 3) 7 0

/-- The frequency limit applied (R259): widened while BASE is XO and XO_CORR_OK is 0. -/
def TimS.freqLimit (t : TimS) : Nat := if !t.ocxo && !t.xoCorrOk then t.qualLim + t.xoPpm * 1000000 else t.qualLim

/-- TIM_OUT_CFG (Table 9-12). -/
def outSquelch (ws : List Word) : Nat := fld (wd ws 0) 30 29
def outSrc (ws : List Word) : Nat := fld (wd ws 0) 18 16

/-- OFS in 2^-16 ns: a signed 37-bit number of 8 ps. -/
def outOfs (ws : List Word) : Int := psUnits (8 * signed 37 (fld (wd ws 1) 31 0 + 2 ^ 32 * fld (wd ws 2) 4 0))

/-- The TIME word's flags on a link: master STATE, ALIGNED, hops. -/
def LinkS.farState (k : LinkS) : Nat := k.flags / 4096 % 4
def LinkS.farAligned (k : LinkS) : Bool := k.flags.testBit 11

/-- MASTER of the flags: the chain's master as the neighbour knows it. -/
def LinkS.farMaster (k : LinkS) : Nat := k.flags / 16384 % 4
/-- Hops of the flags. -/
def LinkS.farHops (k : LinkS) : Nat := k.flags / 512 % 4

/-- The device takes its time from another one (R46): not once both its links have failed (R48). -/
def isFollower (s : State) : Bool := s.chained && s.cmd.id != s.tim.master && !s.tim.isolated

/-- A chain link is in service. -/
def linkUp (s : State) (b : Bool) : Bool := (s.link b).st == .up

/-- Hops to the master through link A (to the next ID) or link B. -/
def hopsVia (s : State) (b : Bool) : Nat :=
  let n := max s.cmd.devs 1
  if b then (s.cmd.id + n - s.tim.master % n) % n else (s.tim.master + n - s.cmd.id % n) % n

/-- The neighbour on a link: the next ID on A, the previous one on B. -/
def neighbour (s : State) (b : Bool) : Nat :=
  let n := max s.cmd.devs 1
  if b then (s.cmd.id + n - 1) % n else (s.cmd.id + 1) % n

/-- Hops to the master through a link as its TIME words tell them, at most one less than the devices: none on a link that is not
up, or whose neighbour has no such path. Before a word has told it, or while the neighbour names another master, the ring's own count. -/
def pathVia (s : State) (b : Bool) : Option Nat :=
  let k := s.link b
  if !linkUp s b then none
  else if neighbour s b = s.tim.master then some 1
  else if k.got && k.farMaster == s.tim.master then (if k.farHops + 2 ≤ s.cmd.devs then some (k.farHops + 1) else none)
  else some (hopsVia s b)

/-- The link that time is taken from (R282): the shorter path that is up, A at equal length. -/
def viaLink (s : State) : Option Bool :=
  match pathVia s false, pathVia s true with
  | some a, some b => some (decide (b < a))
  | some _, none => some false
  | none, some _ => some true
  | none, none => none

/-- Hops to the master on the path that time is taken by; 0 on a device that takes none. -/
def chainHops (s : State) : Nat :=
  if isFollower s then (((viaLink s).bind (pathVia s)).getD 0) else 0

/-- GLOBAL_TICK_STAT.STATE (Table 9-3): 0 FREE, 1 LOCKED, 2 HOLDOVER. -/
def tickState (s : State) : Nat :=
  match s.tim.st with
  | .freerun | .acquire => 0
  | .locked | .switch => 1
  | .holdover => 2
  | .chain => if s.tim.chainLock then (match viaLink s with
      | some b => (s.link b).farState
      | none => 0) else 0

/-! ### History and the holdover value (R270, R271) -/

/-- A mean of control words. -/
def meanOf (xs : List Int) : Int := roundDiv xs.sum xs.length

/-- The holdover value and HO_QUAL that a loss in second sl would use (R271). -/
def holdoverOf (t : TimS) (sl : Nat) : Int × Nat :=
  let valid := t.hist.filter fun h => h.valid && h.sec < sl
  let old := valid.filter fun h => h.sec + t.guardSec < sl
  let v := old.filter fun h => sl ≤ h.sec + t.guardSec + t.window
  let inside := (valid.filter fun h => sl ≤ h.sec + t.guardSec).reverse
  let few := old.take 10
  let short := few ++ inside.take (10 - few.length)
  if 10 ≤ v.length then (meanOf (v.map HistS.mean), if v.length = t.window then 3 else 2)
  else if short.isEmpty then (0, 0)
  else (meanOf (short.map HistS.mean), 1)

/-- The TAI second in which the tick under way lies. -/
def State.second (s : State) : Nat := s.tick.num / 125000

/-! ### States of the DPLL (R262 to R269) -/

/-- The DPLL takes a state from its first tick. -/
def toDpll (x : DpllState) (s : State) : State := { s with tim := { s.tim with st := x, ticks := 0, lockRun := 0, meas := 0 } }

/-- The control word is no longer led by a reference. -/
def enterFreerun (s : State) : State :=
  let s := toDpll .freerun s
  { s with tim := { s.tim with sel := 15, target := 15 } }

/-- Holdover, or FREERUN when no second of the history is valid (R265, R271). -/
def enterHoldover (s : State) : State :=
  let r := holdoverOf s.tim s.second
  if r.2 = 0 then (enterFreerun s).send 2 3 0 0
  else
    let s := toDpll .holdover s
    let s := { s with tim := { s.tim with sel := 15, target := 15, ho := r.1, hoQual := r.2 } }
    (s.timFault 1).send 2 2 0 r.2

/-- A reference is QUALIFIED. -/
def qualified (s : State) (k : Nat) : Bool := (s.ref k).st == .qualified

/-- The nominal frequency of a frequency reference, Hz (Table 9-1). -/
def refHz (s : State) (k : Nat) : Nat :=
  if k < 4 then refNom (s.ref k).cfg
  else if k < 6 then (8000 + 500 * (s.dsp.get (k - 4)).baud) * 1000000
  else 156250000

/-- A phase in ps modulo the period of a frequency, from minus one half to plus one half of it (R267). -/
def phaseMod (hz : Nat) (ps : Int) : Int := roundDiv ((ps * hz + 500000000000) % 1000000000000 - 500000000000) hz

/-- A measured phase as it is absorbed: of a frequency reference modulo its nominal period. -/
def absorbed (s : State) (k : Nat) (ps : Int) : Int := if (s.ref k).pps then ps else phaseMod (refHz s k) ps

/-- ACQUIRE on a reference (R269): a PPS edge is placed on the nearest TAI second; a frequency reference is built out. -/
def enterAcquire (k : Nat) (phase : Int) (s : State) : State :=
  let s := toDpll .acquire s
  let s := { s with tim := { s.tim with sel := k, target := k } }
  if (s.ref k).pps then { s with tim := { s.tim with retime := s.tim.retime - psUnits ((s.ref k).ph.getD 0) } }
  else { s with tim := { s.tim with pbo := absorbed s k phase } }

/-- The frequency that a switch holds (R267): the mean of the last complete LOCKED second while the old reference is still QUALIFIED,
the holdover frequency after a loss, what is held already in a switch; none where no such second exists. -/
def heldWord (s : State) : Option Int :=
  let t := s.tim
  let r := holdoverOf t s.second
  match t.st with
  | .switch => some t.held
  | .holdover => some t.ho
  | .locked => if qualified s t.sel then (if t.xoCorrOk then some t.xoCorr else none) else (if r.2 = 0 then none else some r.1)
  | _ => if r.2 = 0 then none else some r.1

/-- A switch to a reference (R267): the frequency is held, and the phase of the target is measured. -/
def enterSwitch (k : Nat) (s : State) : State :=
  let h := heldWord s
  let s := toDpll .switch { s with tim := { s.tim with held := h.getD (Config.heldWord s.free) }, free := s.free + (if h.isNone then 1 else 0) }
  { s with tim := { s.tim with target := k } }

/-! ### Loop bandwidth (R263, Table 9-4) -/

/-- The effective bandwidth code: the type default where BW is 0. -/
def effBw (r : RefS) : Nat := if refBw r.cfg = 0 then (if r.pps then 3 else 5) else refBw r.cfg

/-- The code in ACQUIRE: the effective code plus 2, capped at 8 and, on a PPS reference, at 3. -/
def acqBw (r : RefS) : Nat := min (effBw r + 2) (if r.pps then 3 else 8)

/-- The bandwidth code of the loop in the present state; 100 Hz (code 8) on the chain (R282), 0 where no loop runs. -/
def loopBw (s : State) : Nat :=
  match s.tim.st with
  | .acquire => acqBw (s.ref s.tim.sel)
  | .locked => effBw (s.ref s.tim.sel)
  | .chain => 8
  | _ => 0

/-- The QUALIFIED references of the best rank (R265). -/
def bestRank (s : State) : List Nat :=
  let q := (List.range 8).filter fun k => qualified s k && (s.ref k).prio != 0
  let p := (q.map fun k => (s.ref k).prio).foldl min 16
  q.filter fun k => (s.ref k).prio == p

/-- Two references of the best rank disagree (R266). -/
def ranksDisagree (s : State) : Bool :=
  let r := bestRank s
  r.any fun a => r.any fun b => match (s.ref a).offset, (s.ref b).offset with
    | some x, some y => decide (s.tim.disLim < (x - y).natAbs)
    | _, _ => false

/-- best() of R265 with the tie rule of R266. -/
def bestRef (s : State) (current : Option Nat) : Option Nat :=
  let r := bestRank s
  if s.tim.disagree then
    match current with
    | some k => some k
    | none => if r.all fun k => (s.ref k).strict then r.head? else none
  else r.head?

/-- The reference in use. -/
def currentRef (s : State) : Option Nat := if s.tim.sel < 8 && qualified s s.tim.sel then some s.tim.sel else none

/-- What selection wants (R265): 0 AUTO, 1 MANUAL, 2 FORCED, 3 HOLDOVER. -/
def wanted (s : State) : Option Nat :=
  let k := s.tim.selRef
  match s.tim.mode with
  | 0 => bestRef s (currentRef s)
  | 1 => if qualified s k then some k else bestRef s (currentRef s)
  | 2 => if qualified s k then some k else none
  | _ => none

/-- Selection at a boundary (R265, R268). -/
def selectRef (phase : Int) (s : State) : State :=
  if !s.tim.baseDone then s
  else match s.tim.st with
    | .chain => s
    | .freerun => match wanted s with
        | some k => enterAcquire k phase s
        | none => s
    | .acquire => match wanted s with
        | some k => if qualified s s.tim.sel && k == s.tim.sel then s else enterAcquire k phase s
        | none => enterFreerun s
    | .locked => match wanted s with
        | some k => if k = s.tim.sel then s else enterSwitch k s
        | none => enterHoldover s
    | .switch => if qualified s s.tim.target then s else match wanted s with
        | some k => enterSwitch k s
        | none => enterHoldover s
    | .holdover => match wanted s with
        | some k => enterSwitch k s
        | none => s

/-- The reference in use or the target has been disqualified (Table 13-2, R271): REF_LOSS and one message; ACQUIRE ends. -/
def refLost (k : Nat) (s : State) : State :=
  let r := s.ref k
  let s := (s.timFault 0).send 2 1 k (bitAt r.los 3 + bitAt r.freq 4 + bitAt r.phase 5)
  if s.tim.st = .acquire then enterFreerun s else s

/-! ### Monitors (R258 to R260) -/

/-- The reference's source is in service: far clock of a line, or an assigned lane (Table 9-2). -/
def sourceOk (s : State) (k : Nat) : Bool :=
  if k = 4 ∨ k = 5 then (s.fr (k - 4)).fr == .inFrame
  else
    let w := s.cl.refSel
    let hi := if k = 6 then 7 else 15
    flag w hi && (s.lane (fld w (hi - 4) (hi - 7))).rx == .ready

/-- Ticks without an edge after which a frequency input fails (Table 9-2). -/
def quietLimit (r : RefS) : Nat := max 4 ((250000 + refNom r.cfg - 1) / max (refNom r.cfg) 1)

/-- The monitors of a frequency reference over the tick that ended. -/
def freqMonitor (s : State) (k : Nat) (m : Option RefMeas) (r : RefS) : RefS :=
  let edge := match m with
    | some x => x.edges
    | none => false
  let quiet := if edge then 0 else min (r.quiet + 1) 65535
  let moved := match m with
    | some x => decide (20000 < x.phaseMove)
    | none => false
  { r with quiet := quiet, los := if k < 4 then decide (quietLimit r ≤ quiet) else !sourceOk s k, phase := moved }

/-- A PPS reference's second has ended without the expected edge (Table 9-2): two of them fail it, and it loses its anchor. An edge in
the window moves the expected position on (inWindow), so a position that has passed is one without its edge. -/
def ppsSecond (now : Nat) (r : RefS) : RefS :=
  match r.expect with
  | some e =>
    if e + r.window < now then
      let miss := min (r.missed + 1) 2
      let out := if r.outEdge then min (r.outside + 1) 2 else 0
      let r := { r with missed := miss, outside := out, outEdge := false, expect := some (e + secUnits) }
      if r.seen && 2 ≤ miss then
        { r with los := true, phase := r.phase || 2 ≤ out, expect := none, seen := false, missed := 0, outside := 0 }
      else r
    else r
  | none => { r with los := true }

/-- An offset measured on the base oscillator, against the timebase (R259): the OCXO itself, or the XO corrected by XO_CORR. -/
def TimS.onTimebase (t : TimS) (o : Int) : Int := if t.ocxo then o else o - roundDiv t.xoCorr 1000

/-- A measured offset against the limits (R258, R259, R266). -/
def offsetMonitor (t : TimS) (m : Option RefMeas) (r : RefS) : RefS :=
  match (m.bind fun x => x.offset).map t.onTimebase with
  | some o => { r with offset := some o, freq := decide (t.freqLimit < o.natAbs), strict := decide (o.natAbs ≤ t.qualLim) }
  | none => r

/-- The state of a reference after its monitors (R260); whether it has just left QUALIFIED. -/
def refState (t : TimS) (r : RefS) : RefS :=
  if r.prio = 0 then { r with st := .disabled, wtrLeft := 0 }
  else if r.los || r.freq || r.phase then { r with st := .failed, wtrLeft := 0 }
  else match r.st with
    | .disabled | .failed => { r with st := .wait, wtrLeft := 125000 * t.wtr }
    | .wait => { r with wtrLeft := r.wtrLeft - 1 }
    | .qualified => r

/-- One reference at a boundary. -/
def refTick (ms : List RefMeas) (s : State) (k : Nat) : State :=
  let m := ms.find? fun x => x.ref.val == k
  let used := (s.tim.sel == k && (s.tim.st == .acquire || s.tim.st == .locked)) || (s.tim.target == k && s.tim.st == .switch)
  let was := qualified s k
  let s := s.onRef k fun r =>
    let r := if r.pps then ppsSecond s.now r else freqMonitor s k m r
    refState s.tim (offsetMonitor s.tim m r)
  if used && was && !qualified s k then refLost k s else s

/-- REF_WTR_EXPIRE (R260). -/
def execRefWtrExpire (k : Fin 8) (s : State) : Res :=
  if s.up && (s.ref k).st == .wait && (s.ref k).wtrLeft == 0 then .next (s.onRef k fun r => { r with st := .qualified }) else .next s

/-- The TAI second nearest to a time. -/
def nearestSecond (t : Nat) : Nat := (t + secUnits / 2) / secUnits * secUnits

/-- Units of 2^-16 ns as picoseconds. -/
def unitsPs (u : Int) : Int := roundDiv (u * 1000) 65536

/-- An in-window edge: what waits for it takes it (R258, R264, R267, R278). -/
def inWindow (k ph : Nat) (s : State) : State :=
  let s := s.onRef k fun r => { r with expect := some (ph + secUnits), seen := true, outEdge := false, missed := 0, outside := 0, los := false, phase := false }
  let t := s.tim
  let s := { s with tim :=
    { t with meas := if decide (t.st = DpllState.switch) && t.target == k then t.meas + 1 else t.meas,
             lockRun := if decide (t.st = DpllState.acquire) && t.sel == k then (if t.phErr.natAbs ≤ 50000 then t.lockRun + 1 else 0) else t.lockRun } }
  s.each [4, 5] fun s o =>
    let x := s.tim.out.get o
    if outSrc x.cfg = k + 1 then
      let s := s.onOut o fun x => { x with edge := true, fly := false, ofs := (s.ref k).ph.getD 0 }
      if x.on then s.emit (.pulse o ((ph : Int) + outOfs x.cfg)) else s
    else s

/-- PPS_EDGE (R257, R258): the edge is stamped and less DELAY gives its phase. -/
def execPpsEdge (k : Fin 4) (sub : Nat) (s : State) : Res :=
  if s.up && (s.ref k).pps then
    let s := s.atSub sub
    let ph := addPs s.now (-(refDelay (s.ref k).cfg))
    let s := s.onRef k fun r => { r with ph := some (unitsPs ((ph : Int) - nearestSecond ph)) }
    .next (match (s.ref k).expect with
      | none => s.onRef k fun r => { r with expect := some (ph + secUnits), missed := 0, outside := 0 }
      | some e =>
        if e ≤ ph + (s.ref k).window ∧ ph ≤ e + (s.ref k).window then inWindow k ph s
        else if (s.ref k).seen then s.onRef k fun r => { r with outEdge := true }
        else s.onRef k fun r => { r with expect := some (ph + secUnits) })
  else .next s

/-! ### DPLL events: each marks what the next boundary does (R262) -/

/-- The mark of a DPLL event takes effect at the boundary, in the state in which it was made (R262, R264, R267, R282). -/
def dpllTurn (s : State) : State :=
  let t := s.tim
  let s0 := { s with tim := { t with due := none } }
  match t.due, t.st with
  | some (.locked, _), .acquire => toDpll .locked s0
  | some (.freerun, _), .acquire =>
    enterFreerun ((s0.onRef t.sel fun r => { r with phase := true, st := .failed, wtrLeft := 0, expect := none, seen := false }).timFault 4)
  | some (.locked, p), .switch =>
    let r := s.ref t.target
    let p := absorbed s t.target p
    let s := toDpll .locked s0
    let s := { s with tim := { s.tim with sel := t.target } }
    { s with tim := if !r.pps || refPbo r.cfg then { s.tim with pbo := p } else { s.tim with retime := s.tim.retime - psUnits p } }
  | some (.chain, _), .chain => { s0 with tim := { s0.tim with chainLock := true } }
  | _, _ => s0

/-- DPLL_LOCK (R264): 125,000 ticks within 10 ns, or 8 edges within 50 ns. -/
def execDpllLock (s : State) : Res :=
  let t := s.tim
  if s.up && t.st == .acquire && (if (s.ref t.sel).pps then 8 ≤ t.lockRun else 125000 ≤ t.lockRun) then
    .next { s with tim := { t with due := some (.locked, 0) } }
  else .next s

/-- DPLL_ACQ_FAIL (R264). -/
def execDpllAcqFail (s : State) : Res :=
  let t := s.tim
  if s.up && t.st == .acquire && (if (s.ref t.sel).pps then 37500000 ≤ t.ticks else 1250000 ≤ t.ticks) then
    .next { s with tim := { t with due := some (.freerun, 0) } }
  else .next s

/-- DPLL_SWITCH_DONE (R267, R269): the measured phase is built out, or with PBO_EN 0 moves the time of day. -/
def execDpllSwitchDone (phase : Int) (s : State) : Res :=
  let t := s.tim
  let r := s.ref t.target
  if s.up && t.st == .switch && (if r.pps then 2 ≤ t.meas else 16 ≤ t.meas) then
    .next { s with tim := { t with due := some (.locked, phase) } }
  else .next s

/-- HISTORY_SECOND (R259, R270, R271): the mean of the second that ended enters the history. -/
def execHistorySecond (s : State) : Res :=
  if s.up && s.atSecond && s.tim.fcwCnt != 0 then
    let t := s.tim
    let mean := roundDiv t.fcwSum t.fcwCnt
    let ok := t.secValid && t.fcwCnt == 125000
    let h : HistS := { sec := s.second - 1, mean := mean, valid := ok }
    let t := { t with hist := (h :: t.hist).take 1024, fcwSum := 0, fcwCnt := 0, secValid := true, secLocked := true,
                      xoCorr := if t.secLocked then mean else t.xoCorr, xoCorrOk := t.xoCorrOk || t.secLocked }
    let r := holdoverOf t s.second
    .next { s with tim := if t.st = .holdover then t else { t with ho := r.1, hoQual := r.2 } }
  else .next s

/-- The limit of the OCXO against the XO, 10^-12 (R261). -/
def TimS.ocxoLimit (t : TimS) : Nat := (t.xoPpm + 2) * 1000000

/-- OCXO_MEASURE_DONE (R261): offset `dev` against the XO in 10^-12. -/
def execOcxoMeasureDone (active : Bool) (dev : Int) (s : State) : Res :=
  match s.tim.ocxoMeas with
  | some n =>
    if s.up && 125000 ≤ n then
      let good := active && decide (dev.natAbs ≤ s.tim.ocxoLimit)
      let s := { s with tim := { s.tim with ocxoMeas := none, baseDone := true, ocxo := good, ocxoOfs := dev } }
      .next (if good then s else (s.timFault 3).send 2 4 0 0)
    else .next s
  | none => .next s

/-- OCXO_FAIL (R261): the OCXO is no longer active, or its last measured offset lies beyond the limit. The base moves to the XO for
good, and every control word in use is translated by that offset. -/
def execOcxoFail (s : State) : Res :=
  let t := s.tim
  if s.up && t.ocxo && (t.ocxoDead || decide (t.ocxoLimit < t.ocxoOfs.natAbs)) then
    let d := 1000 * t.ocxoOfs
    let s := { s with tim := { t with ocxo := false, fcw := t.fcw + d, ho := if t.st = DpllState.holdover then t.ho + d else t.ho, held := t.held + d,
                                      hist := [], fcwSum := 0, fcwCnt := 0,
                                      secValid := false, secLocked := false, xoCorrOk := false } }
    .next ((s.timFault 3).send 2 4 0 0)
  else .next s

/-- XO_ACTIVITY_LOST (R383). -/
def execXoActivityLost (s : State) : Res :=
  if s.up && s.tim.xoActive then .next (State.send { s with tim := { s.tim with xoActive := false } } 2 5 0 0) else .next s

/-- DISAGREE_END (R266). -/
def execDisagreeEnd (s : State) : Res :=
  if s.up && s.tim.disagree && 125000 * s.tim.wtr ≤ s.tim.agreeTicks then
    .next { s with tim := { s.tim with disagree := false, agreeTicks := 0 } }
  else .next s

/-- SLEW_DONE (R275). -/
def execSlewDone (s : State) : Res :=
  if s.up && s.tim.slewing && s.tim.slew == 0 then .next { s with tim := { s.tim with slewing := false } } else .next s

/-! ### Time of day (R20, R274, R275) -/

/-- Some line transmits (R20). -/
def anySends (s : State) : Bool := s.sends 0 || s.sends 1

/-- An offset joins what is still to be removed by slew (R275). -/
def addSlew (d : Int) (s : State) : State := { s with tim := { s.tim with slew := s.tim.slew + d, slewing := s.tim.slewing || d != 0 } }

/-- Expected PPS edges move with the device's own time of day (R258). -/
def shiftExpected (d : Int) (s : State) : State :=
  if d = 0 then s
  else s.each (List.range 8) fun s k => s.onRef k fun r => { r with expect := r.expect.map fun e => ((e : Int) + d).toNat }

/-- Fields of MARTEN_LINE_CFG (Table 10-10). -/
def MartenL.ttAvg (m : MartenL) : Nat := fld (wd m.cfg 0) 28 12

/-- The ticks have been renumbered by k at this boundary (R20): windows that count by tick number end early (R114, R292), stored
release ticks and RENUM move with the numbering (R221, R293), and the second under way leaves the history (R270). A window that began
at this very boundary has lost nothing of the last one. -/
def renumbered (k : Int) (s : State) : State :=
  if k = 0 then s
  else
    let s := s.each [0, 1] fun s l => windowEnd l true s
    let s := s.each [0, 1] fun s l => s.onMar l fun m =>
      let fresh := ((s.tick.num : Int) - k) % (max m.ttAvg 1 : Nat) = 0
      let cut := m.win.isOpen && !decide fresh
      { m with win := { isOpen := s.tick.num % max m.ttAvg 1 == 0 }, due := m.due || cut, lastS := none,
               dueWin := if cut then { m.win with broken := true } else m.dueWin }
    let s := shiftReleases k s
    { s with mar := { s.mar with renum := s.mar.renum + k }, tim := { s.tim with secValid := false } }

/-- The time of day at this boundary changes by d (R20): whole ticks are renumbered; the rest is slewed while a line transmits, and
otherwise stretches this tick. -/
def changeTime (d : Int) (s : State) : State :=
  let s := shiftExpected d s
  let s := [false, true].foldl (fun s b => s.onLink b fun k => { k with theta := none, t3 := none, t4 := none, skip := 2 }) s
  let old := s.tick.num
  let s := s.each [0, 1] fun s l => s.onMar l fun m => { m with win := { m.win with moved := true }, mcMoved := true }
  let done (s : State) : State := renumbered ((s.tick.num : Int) - old) s
  if anySends s then
    let k := roundDiv d tickUnits
    done <| addSlew (d - k * tickUnits)
      { s with tick := { s.tick with num := ((s.tick.num : Int) + k).toNat, tod := ((s.tick.tod : Int) + k * tickUnits).toNat } }
  else
    let x := ((s.tick.tod : Int) + d).toNat
    let k : Int := if x % tickUnits = 0 then (x / tickUnits : Nat) - (old : Int) else ((x + 2 * tickUnits - 1) / tickUnits - 1 : Nat) - (old : Int)
    let s := s.each [0, 1] fun s l => s.onMar l fun m => { m with sl := m.sl + (d - k * tickUnits) }
    done <| if x % tickUnits = 0 then { s with tick := { s.tick with tod := x, num := x / tickUnits, stretched := false } }
    else { s with tick := { s.tick with tod := x, num := (x + 2 * tickUnits - 1) / tickUnits - 1, stretched := true,
                                        stretchCnt := if s.tick.stretched then s.tick.stretchCnt else min (s.tick.stretchCnt + 1) 0xFFFF } }

/-- The time that TIME_SET OP 0 gives. -/
def setTime (ws : List Word) : Nat :=
  ((wd ws 1).toNat + 2 ^ 32 * fld (wd ws 2) 15 0) * secUnits + fld (wd ws 3) 29 0 * nsUnits + fld (wd ws 4) 15 0

/-- The signed OFFSET of OP 1 and 3. -/
def setOffset (ws : List Word) : Int := signed 64 (ofLohi (wd ws 5) (wd ws 6))

/-- TIME_SET takes effect (R274, R275). -/
def applyTime (ws : List Word) (s : State) : State :=
  let t := s.tick.tod
  let align (s : State) : State := { s with tick := { s.tick with aligned := true } }
  match fld (wd ws 0) 1 0 with
  | 0 => align (changeTime ((setTime ws : Int) - t) { s with tim := { s.tim with slew := 0 } })
  | 1 => align (changeTime (setOffset ws) s)
  | 2 => align (changeTime ((setTime ws + t % secUnits : Nat) - (t : Int)) s)
  | _ => addSlew (setOffset ws) s

/-- What a slew removes in one tick, in 2^-16 ns (R275): 0.01 ppm of 8 us is 5.24288. -/
def slewPerTick (t : TimS) : Int := max 1 (roundDiv (t.slewRate * 524288) 100000)

/-- One tick of slew: local time has changed by what was removed (R258, R293). -/
def slewTick (s : State) : State :=
  let r := slewPerTick s.tim
  let a := clamp (-r) r s.tim.slew
  if s.tim.slewing then
    let s := s.each [0, 1] fun s l => s.onMar l fun m => { m with sl := m.sl + a, win := { m.win with moved := true }, mcMoved := true }
    shiftExpected a { s with tim := { s.tim with slew := s.tim.slew - a } }
  else s

/-! ### Outputs (R277 to R279) -/

/-- An output is squelched (R279). -/
def squelched (s : State) (ws : List Word) : Bool :=
  match outSquelch ws with
  | 0 => false
  | 1 => tickState s == 0
  | _ => tickState s != 1

/-- OUTPUT_START (R279): at the first TAI second after its boundary. -/
def execOutputStart (o : Fin 6) (s : State) : Res :=
  let x := s.tim.out.get o
  if s.up && s.atSecond && x.due then
    let ws := x.next.getD x.cfg
    .next (s.onOut o fun x => { x with cfg := ws, next := none, due := false, on := flag (wd ws 0) 31 && !squelched s ws })
  else .next s

/-- PPS_OUT_FLYWHEEL (R278). -/
def execPpsOutFlywheel (n : Fin 2) (s : State) : Res :=
  let o := 4 + n.val
  let x := s.tim.out.get o
  if s.up && x.on && outSrc x.cfg != 0 && x.missed then
    let s := (s.onOut o fun x => { x with missed := false, fly := true }).timFault 7
    .next (s.emit (.pulse o ((s.tick.tod : Int) + psUnits x.ofs + outOfs x.cfg)))
  else .next s

/-- An output at a boundary: squelch, and at a TAI second the pulses and the count of edges. -/
def outTick (s : State) (o : Nat) : State :=
  let x := s.tim.out.get o
  let en := flag (wd x.cfg 0) 31
  let sq := squelched s x.cfg
  let s := if x.on && sq then s.onOut o fun x => { x with on := false }
    else if en && !x.on && !sq && x.next.isNone then s.onOut o fun x => { x with due := true } else s
  if s.atSecond && 4 ≤ o then
    let x := s.tim.out.get o
    if outSrc x.cfg = 0 then (if x.on then s.emit (.pulse o ((s.tick.tod : Int) + outOfs x.cfg)) else s)
    else s.onOut o fun x => { x with missed := !x.edge, edge := false }
  else s

/-! ### The chain (R280 to R283) -/

/-- TYPE of a chain word with a valid complement. -/
def chainType (w : ChainWord) : Option Nat :=
  let n := w.toNat
  if bitsOf n 127 124 + bitsOf n 123 120 = 15 then some (bitsOf n 127 124) else none

/-- A chain word. -/
def chainWord (type src dst hop payload : Nat) : ChainWord :=
  BitVec.ofNat 128 (type * 2 ^ 124 + (15 - type) * 2 ^ 120 + src % 4 * 2 ^ 118 + dst % 4 * 2 ^ 116 + hop % 4 * 2 ^ 114 + payload % 2 ^ 112)

/-- One payload bit through the chain's self-synchronous scrambler x^58 + x^39 + 1 (R280): the state holds the 58 latest bits sent. -/
def chainScrBit (st : Nat) (b : Bool) : Bool × Nat :=
  let o := (b != st.testBit 38) != st.testBit 57
  (o, (2 * st + o.toNat) % 2 ^ 58)

/-- A word's payload as it stands on the link, msb first, and the scrambler after it. The words of this model are those before the
scrambler of the sender and after that of the receiver. -/
def chainScramble : Nat → Nat → Nat → Nat × Nat
  | 0, st, _ => (0, st)
  | n + 1, st, payload =>
    let o := chainScrBit st (payload.testBit n)
    let r := chainScramble n o.2 payload
    (o.1.toNat * 2 ^ n + r.1, r.2)

/-- Whole 128-bit words that a 26.5625 Gb/s lane carries in 8 us. -/
def wordsPerTick : Nat := 1660

/-- The FILL word. -/
def fillWord (s : State) (b : Bool) : ChainWord := chainWord 0 s.cmd.id (neighbour s b) 0 0

/-- A word leaves on a link at once; after 1,023 words in a row that are none, a FILL word follows it (R281). -/
def linkPut (b : Bool) (w : ChainWord) (s : State) : State :=
  let s := (s.emit (.chainWord b w)).onLink b fun k => { k with room := k.room - 1, sinceFill := k.sinceFill + 1 }
  if 1023 ≤ (s.link b).sinceFill then
    (s.emit (.chainWord b (fillWord s b))).onLink b fun k => { k with room := k.room - 1, sinceFill := 0 }
  else s

/-- Waiting command words leave while the tick has room for them (R45: behind fault and time words). -/
def linkDrain (b : Bool) (s : State) : State :=
  let k := s.link b
  let now := k.q.take k.room
  (s.onLink b fun k => { k with q := k.q.drop now.length }).each now fun s w => linkPut b w s

/-- A command word joins the link's queue (R45). -/
def linkQueue (b : Bool) (w : ChainWord) (s : State) : State :=
  if (s.link b).q.isEmpty && 0 < (s.link b).room then linkPut b w s else s.onLink b fun k => { k with q := k.q ++ [w] }

/-- A link at the start of a tick (R45, R281): what the last tick had no word for went out as filler, and this one's room begins. -/
def linkFill (b : Bool) (s : State) : State :=
  let k := s.link b
  let s := if 0 < k.room then (s.emit (.chainFill b k.room)).onLink b fun k => { k with sinceFill := 0 } else s
  s.onLink b fun k => { k with room := wordsPerTick }

/-- Time from the boundary to the first bit of the TIME word that this model sends, in 2^-16 ns. -/
def txOfs : Nat := 0

/-- The flags of the TIME words sent (Table 9-5). -/
def timeFlags (s : State) : Nat :=
  s.tim.master % 4 * 2 ^ 14 + tickState s * 2 ^ 12 + bitAt s.tick.aligned 11 + chainHops s % 4 * 2 ^ 9

/-- The TIME word and the ECHO word of a tick on a link (R280), then the command words that waited. -/
def sendTime (b : Bool) (s : State) : State :=
  let k := s.link b
  if k.st = .up then
    let dst := neighbour s b
    let s := linkPut b (chainWord 2 s.cmd.id dst 0 (s.tick.num % 2 ^ 64 * 2 ^ 48 + txOfs * 2 ^ 16 + timeFlags s)) (linkFill b s)
    let s := if k.heard then
        (linkPut b (chainWord 3 s.cmd.id dst 0 (k.farTick % 2 ^ 32 * 2 ^ 80 + k.rxTick % 2 ^ 32 * 2 ^ 48 + k.rxOfs % 2 ^ 32 * 2 ^ 16)) s).onLink b
          fun k => { k with heard := false }
      else s
    linkDrain b s
  else s

/-- A link leaves UP (R281, R285); the last one to do so leaves the device on its own (R48). -/
def linkLost (b : Bool) (x : LinkState) (s : State) : State :=
  let s := (s.onLink b fun k => { k with st := x, t1 := none, t2 := none, t3 := none, t4 := none, theta := none, heard := false, got := false,
                                         q := [], room := 0, sinceFill := 0 }).timFault 5
  s.when (!linkUp s false && !linkUp s true) fun s => State.timFault { s with tim := { s.tim with isolated := true } } 6

/-- CHAIN_LINK_ALIGN (R281): the receiver has slipped its word boundary by so many bits, and 64 words in a row are valid. -/
def execChainLinkAlign (x : LinkAlign) (s : State) : Res :=
  if s.up && s.chained && (s.link x.linkB).st == .align then
    .next (s.onLink x.linkB fun k => { k with st := .up, slip := (k.slip + x.slips) % 128 })
  else .next s

/-- CHAIN_LINK_DOWN (R281). -/
def execChainLinkDown (b : Bool) (s : State) : Res :=
  if s.up && linkUp s b then .next (linkLost b .align s) else .next s

/-- CHAIN_TIME_WORD_RX (R280, R282): `stamp` is the receive offset in the tick, 2^-16 ns. -/
def execChainTimeWordRx (b : Bool) (w : ChainWord) (stamp : Nat) (s : State) : Res :=
  if s.up && linkUp s b && chainType w == some 2 then
    let s := s.atSub stamp
    let n := w.toNat
    let t := bitsOf n 111 48
    let src := bitsOf n 119 118
    let s := { s with tim := { s.tim with lost := putBit s.tim.lost src false } }
    .next (s.onLink b fun k =>
      { k with heard := true, got := true, farTick := t, rxTick := s.tick.num, rxOfs := stamp, flags := bitsOf n 15 0,
               t3 := some (t * tickUnits + bitsOf n 47 16), t4 := some (s.tick.num * tickUnits + stamp) })
  else .next s

/-- The tick number nearest to n whose 32 low bits are given. -/
def nearTick (n low : Nat) : Int := (n : Int) + signed 32 ((low + 2 ^ 32 - n % 2 ^ 32) % 2 ^ 32)

/-- CHAIN_ECHO_WORD_RX (R282): link delay and the neighbour's offset. -/
def execChainEchoWordRx (b : Bool) (w : ChainWord) (s : State) : Res :=
  if s.up && linkUp s b && chainType w == some 3 && (s.link b).skip == 0 then
    let n := w.toNat
    let own := nearTick s.tick.num (bitsOf n 111 80)
    let far := nearTick (s.link b).farTick (bitsOf n 79 48)
    let t1 := own * tickUnits + txOfs
    let t2 := far * tickUnits + bitsOf n 47 16
    .next (s.onLink b fun k => match k.t3, k.t4 with
      | some t3, some t4 =>
        let up := t2 - t1
        let down := (t4 : Int) - t3
        { k with t1 := some t1.toNat, t2 := some t2.toNat, dly := roundDiv (unitsPs (up + down)) 20, theta := some (roundDiv (up - down - psUnits k.asym) 2) }
      | _, _ => k)
  else .next s

/-- CHAIN_FIRST_LOCK (R282): the follower adopts the master's tick number at the next boundary. -/
def execChainFirstLock (s : State) : Res :=
  match viaLink s with
  | some b =>
    match (s.link b).theta with
    | some d =>
      if s.up && s.tim.st == .chain && !s.tim.chainOnce then
        .next { s with tim := { s.tim with chainOnce := true, due := some (.chain, 0), retime := s.tim.retime + d } }
      else .next s
    | none => .next s
  | none => .next s

/-- A follower leads its DPLL from the chain (R262). -/
def enterChain (once : Bool) (s : State) : State :=
  let s := toDpll .chain s
  { s with tim := { s.tim with sel := 8, target := 15, chainOnce := once, chainLock := once } }

/-- The device no longer takes time from the chain. -/
def dropChain (s : State) : State := { s with tim := { s.tim with chainLock := false, chainOnce := false, sel := 15 } }

/-- A new master leaves CHAIN for its own selection or holdover (R262, R283). -/
def leaveChain (s : State) : State :=
  let s := dropChain s
  match wanted s with
  | some k => if s.tim.baseDone then enterSwitch k s else enterHoldover s
  | none => enterHoldover s

/-- The chain's master changes (R48, R283): the new one leaves CHAIN and the old one enters it; no device's tick moves. What the
neighbours last said of the path holds no longer. -/
def setMaster (m : Nat) (s : State) : State :=
  let old := s.tim.master
  if m = old then s
  else
    let s := [false, true].foldl (fun s b => s.onLink b fun k => { k with got := false }) { s with tim := { s.tim with master := m } }
    if !s.chained then s
    else if s.cmd.id = m then (if s.tim.st = .chain then leaveChain s else s)
    else if s.cmd.id = old && !s.tim.isolated then enterChain true s
    else s

/-- CHAIN_MASTER_APPLY (R283): in tick n + 15; the boundary that begins tick n + 16 names the master. -/
def execChainMasterApply (s : State) : Res :=
  match s.tim.newMaster with
  | some (m, 1) => if s.up then .next { s with tim := { s.tim with newMaster := some (m, 0) } } else .next s
  | _ => .next s

/-- The change of master at its boundary (R283). -/
def masterTurn (s : State) : State :=
  match s.tim.newMaster with
  | some (m, 0) => setMaster m { s with tim := { s.tim with newMaster := none, lost := putBit s.tim.lost m false } }
  | some (m, n) => { s with tim := { s.tim with newMaster := some (m, max 1 (n - 1)) } }
  | none => s

/-- Another master that a neighbour names and that is not lost. -/
def namedMaster (s : State) : Option Nat :=
  ([false, true].filterMap fun b =>
    let k := s.link b
    if linkUp s b && k.got && neighbour s b != s.tim.master && k.farMaster != s.tim.master && !s.tim.lost.getLsbD k.farMaster
      then some k.farMaster else none).head?

/-- A follower whose links show no path to its master any more (R48): it takes the master that a neighbour names, or else the lowest
remaining ID. -/
def chainReform (s : State) : State :=
  if isFollower s && (linkUp s false || linkUp s true) then
    let known := [false, true].any fun b => linkUp s b && (neighbour s b == s.tim.master || (pathVia s b).isSome && (s.link b).farMaster == s.tim.master)
    match if known then none else namedMaster s with
    | some m => setMaster m { s with tim := { s.tim with lost := putBit s.tim.lost s.tim.master true } }
    | none =>
      if (viaLink s).isNone then
        let lost := putBit s.tim.lost s.tim.master true
        setMaster (((List.range s.cmd.devs).find? fun i => !lost.getLsbD i).getD s.cmd.id) { s with tim := { s.tim with lost := lost } }
      else s
  else s

/-- The tick number of a locked follower follows that of its TIME words (R46): whole ticks between the two boundaries. -/
def followNumber (b : Bool) (s : State) : State :=
  let k := s.link b
  match k.t3, k.t4 with
  | some t3, some t4 =>
    let n := roundDiv ((t3 : Int) + psUnits (10 * k.dly) - t4) tickUnits
    if k.heard && s.tim.chainLock && n != 0 then { s with tim := { s.tim with retime := s.tim.retime + n * tickUnits } } else s
  | _, _ => s

/-- A chain link at a boundary: it aligns once its lane is READY. -/
def linkTick (s : State) (b : Bool) : State :=
  let ready := s.chained && (s.lane (if b then 17 else 16)).rx == .ready
  let s := s.onLink b fun k => { k with skip := k.skip - 1 }
  match (s.link b).st with
  | .down => if ready then s.onLink b fun k => { k with st := .align } else s
  | .align => if ready then s else s.onLink b fun k => { k with st := .down }
  | .up => if ready then s else linkLost b .down s

/-- Chain time at a boundary (R46, R48, R262, R282): entry to CHAIN, its loss with both links, the master, and ALIGNED and the tick
number of a locked follower. -/
def chainTick (s : State) : State :=
  let s := linkTick (linkTick s false) true
  let s := s.when (linkUp s false || linkUp s true) fun s => { s with tim := { s.tim with isolated := false } }
  let s := masterTurn (chainReform s)
  if isFollower s then
    if s.tim.st != .chain then enterChain false s
    else match viaLink s with
      | some b =>
        let s := followNumber b s
        if s.tim.chainLock && (s.link b).heard then { s with tick := { s.tick with aligned := (s.link b).farAligned } } else s
      | none => s
  else if s.tim.st = .chain then enterHoldover (dropChain s)
  else s

/-! ### The boundary -/

/-- The base oscillator once the table's records are in force (R261): measured when OCXO_EN is 1, and decided otherwise. -/
def baseTurn (s : State) : State :=
  let t := s.tim
  { s with tim :=
    if t.baseDone || !s.cmd.accepted || s.pwr.replay || t.ocxoMeas.isSome then t
    else if t.ocxoEn then { t with ocxoMeas := some 0 } else { t with baseDone := true } }

/-- What staged items and selection leave for the loop and the base oscillator in the tick that begins (R261, R263). -/
def timBegin (s : State) : State :=
  let s := baseTurn s
  { s with tim := { s.tim with bw := loopBw s } }

/-- The control word of the tick that ended (Table 9-3, R270): 0 in FREERUN, the holdover frequency in HOLDOVER, the held one in SWITCH,
and what the loop gave in the others; whether that tick was LOCKED, and locked to a reference or to the chain. -/
def fcwTick (i : TickIn) (s : State) : State :=
  let t := s.tim
  let f := match t.st with
    | .freerun => 0
    | .holdover => t.ho
    | .switch => t.held
    | _ => i.fcw
  { s with tim := { t with fcw := f, wasLocked := t.st == .locked, wasValid := t.st == .locked || (t.st == .chain && t.chainLock),
                           ocxoOfs := if t.ocxo then i.ocxo.getD t.ocxoOfs else t.ocxoOfs, ocxoDead := t.ocxo && (t.ocxoDead || i.ocxoDead)
                           ocxoMeas := t.ocxoMeas.map (· + 1) } }

/-- Lock counts and times of the DPLL over the tick that ended (R264, R267). -/
def dpllCounts (i : TickIn) (t : TimS) (pps : Bool) : TimS :=
  { t with ticks := t.ticks + 1, phErr := i.phErr,
           lockRun := if t.st == .acquire && !pps then (if i.phErr.natAbs ≤ 10000 then t.lockRun + 1 else 0) else t.lockRun,
           meas := if t.st == .switch && !pps then t.meas + 1 else t.meas }

/-- Timing at a boundary before the staged items: monitors, chain, selection (R258, R265). -/
def timTick (i : TickIn) (s : State) : State :=
  let s := fcwTick i s
  let t := s.tim
  let s := dpllTurn { s with tim := dpllCounts i t (s.ref (if t.st = .switch then t.target else t.sel)).pps }
  let s := (List.range 8).foldl (refTick i.refs) s
  let dis := ranksDisagree s
  let s := { s with tim := { s.tim with disagree := s.tim.disagree || dis } }
  let s := s.when (s.tim.disagree && !s.tim.fault.getLsbD 2) fun s => s.timFault 2
  let s := { s with tim := { s.tim with agreeTicks := if s.tim.disagree && !dis then s.tim.agreeTicks + 1 else 0 } }
  let chain := s.tim.st == .chain
  let s := chainTick s
  if chain then s else selectRef i.refPhase s

/-- The holdover sample of the tick that ended (R28 step 3, R259, R270). -/
def historyTick (s : State) : State :=
  let t := s.tim
  { s with tim := { t with fcwSum := t.fcwSum + t.fcw, fcwCnt := t.fcwCnt + 1, secValid := t.secValid && t.wasValid && !t.tickBroken,
                           secLocked := t.secLocked && t.wasLocked, tickBroken := s.tick.stretched } }

/-! ### Commands (Table 9-8) -/

/-- A bandwidth code is allowed for the type (Table 9-4). -/
def bwOk (pps : Bool) (bw : Nat) : Bool := bw ≤ (if pps then 3 else 8)

/-- TIM_REF_CFG (R286, Table 9-9). -/
def cmdTimRefCfg (_h : CmdHdr) (ws : List Word) (s : State) : CmdRes :=
  let w := wd ws 0
  let k := fld w 2 0
  let held := s.tim.mode == 1 || s.tim.mode == 2
  needLen ws 4 <|
  need (onlyBits w 0xF07F0007 && !(refPps ws && 4 ≤ k) && bwOk (refPps ws) (refBw ws) && !(refPrio ws == 0 && held && k == s.tim.selRef)) .badArg 0 <|
  need (onlyBits (wd ws 1) 0x3FFFFFFF && (refPps ws || 4 ≤ k || (1000 ≤ refNom ws && refNom ws ≤ 800000000))) .badArg 1 <|
  need (decide (-1000000 ≤ refDelay ws) && decide (refDelay ws ≤ 1000000)) .badArg 2 <|
  need (onlyBits (wd ws 3) 0x3FFF && 1 ≤ fld (wd ws 3) 13 0 && fld (wd ws 3) 13 0 ≤ 10000) .badArg 3 <|
  stageOne s .ref k 0 ws

/-- TIM_DPLL_CFG (R286, Table 9-10). -/
def cmdTimDpllCfg (_h : CmdHdr) (ws : List Word) (s : State) : CmdRes :=
  let t : TimS := { s.tim with cfg := ws }
  let held := t.mode == 1 || t.mode == 2
  needLen ws 4 <|
  need (onlyBits (wd ws 0) 0xC70003FF && 1 ≤ t.wtr && t.wtr ≤ 600 && !(held && (s.ref t.selRef).prio == 0)) .badArg 0 <|
  need (10 ≤ fld (wd ws 1) 31 16 && fld (wd ws 1) 31 16 ≤ 5000 && 10 ≤ fld (wd ws 1) 15 0 && fld (wd ws 1) 15 0 ≤ 10000) .badArg 1 <|
  need (10 ≤ t.window && t.window ≤ 900 && t.guardSec ≤ 120) .badArg 2 <|
  need (onlyBits (wd ws 3) 0xFFFF01FF && 1 ≤ t.slewRate && t.slewRate ≤ 10000 && t.xoPpm ≤ 50 && (s.cmd.accepting || t.ocxoEn == s.tim.ocxoEn)) .badArg 3 <|
  stageOne s .dpll 0 0 ws

/-- The first parameter word of TIME_SET that is out of order, if any (Table 9-11). -/
def timeSetBad (s : State) (ws : List Word) : Option Nat :=
  let op := fld (wd ws 0) 1 0
  let sec := (wd ws 1).toNat + 2 ^ 32 * fld (wd ws 2) 15 0
  let zero (i : Nat) : Bool := wd ws i == 0
  let goal := ((s.tick.tod + tickUnits : Nat) : Int) + setOffset ws
  let far : Bool := decide (goal < 0) || decide (((2 ^ 47 * secUnits : Nat) : Int) ≤ goal)
  let ok : Nat → Bool := fun i => match i with
    | 0 => onlyBits (wd ws 0) 3
    | 1 => op == 0 || op == 2 || zero 1
    | 2 => if op == 0 || op == 2 then onlyBits (wd ws 2) 0xFFFF && decide (sec < 2 ^ 47) else zero 2
    | 3 => if op == 0 then onlyBits (wd ws 3) 0x3FFFFFFF && decide (fld (wd ws 3) 29 0 ≤ 999999999) else zero 3
    | 4 => if op == 0 then onlyBits (wd ws 4) 0xFFFF else zero 4
    | 5 => if op == 1 then !far else if op == 3 then decide ((setOffset ws).natAbs ≤ 65536000000) else zero 5
    | _ => op == 1 || op == 3 || zero 6
  (List.range 7).find? fun i => !ok i

/-- TIME_SET (R274, R276). -/
def cmdTimeSet (_h : CmdHdr) (ws : List Word) (s : State) : CmdRes :=
  let bad := timeSetBad s ws
  let led := s.tim.sel < 8 && (s.ref s.tim.sel).pps && (s.tim.st == .acquire || s.tim.st == .locked || s.tim.st == .switch)
  needLen ws 7 <| need bad.isNone .badArg (bad.getD 0) <|
  need (!(led && fld (wd ws 0) 1 0 != 2)) .busy 0 <| stageOne s .timeSet 0 0 ws

/-- TIM_OUT_CFG (Table 9-12). -/
def cmdTimOutCfg (_h : CmdHdr) (ws : List Word) (s : State) : CmdRes :=
  let w := wd ws 0
  let o := fld w 2 0
  let ofs := signed 37 (fld (wd ws 1) 31 0 + 2 ^ 32 * fld (wd ws 2) 4 0)
  let num := fld (wd ws 3) 23 0
  let den := fld (wd ws 4) 23 0
  let src := outSrc ws
  needLen ws 5 <|
  need (onlyBits w 0xE0070007 && o ≤ 5 && outSquelch ws != 3 && (o < 4 || (src ≤ 4 && (src == 0 || (s.ref (src - 1)).pps)))) .badArg 0 <|
  need (decide (-62500000000 ≤ ofs) && decide (ofs ≤ 62500000000)) .badArg 1 <|
  need (onlyBits (wd ws 2) 0xFFFFF01F && 1 ≤ fld (wd ws 2) 31 12 && fld (wd ws 2) 31 12 ≤ 500000) .badArg 2 <|
  need (onlyBits (wd ws 3) 0xFFFFFF && onlyBits (wd ws 4) 0xFFFFFF && den != 0 && 1000 * den ≤ 1600000000 * num && 1600000000 * num ≤ 800000000 * den) .badArg 3 <|
  stageOne s .out o 0 ws

/-- CHAIN_MASTER (R283). -/
def cmdChainMaster (_h : CmdHdr) (ws : List Word) (s : State) : CmdRes :=
  needLen ws 1 <| need (onlyBits (wd ws 0) 3 && fld (wd ws 0) 1 0 < s.cmd.devs) .badArg 0 <|
  need s.tim.newMaster.isNone .busy 0 <|
  .done { s with tim := { s.tim with newMaster := some (fld (wd ws 0) 1 0, 16) } } []

/-- CHAIN_ASYM (R282). -/
def cmdChainAsym (_h : CmdHdr) (ws : List Word) (s : State) : CmdRes :=
  let ok (w : Word) : Bool := (sword w).natAbs ≤ 100000
  needLen ws 2 <| need (ok (wd ws 0)) .badArg 0 <| need (ok (wd ws 1)) .badArg 1 <| stageOne s .chainAsym 0 0 ws

def execTimRefCfg (h : CmdHdr) (ws : List Word) (s : State) : Res := .next (runCmd 0x0601 cmdTimRefCfg h ws s)
def execTimDpllCfg (h : CmdHdr) (ws : List Word) (s : State) : Res := .next (runCmd 0x0602 cmdTimDpllCfg h ws s)
def execTimeSet (h : CmdHdr) (ws : List Word) (s : State) : Res := .next (runCmd 0x0603 cmdTimeSet h ws s)
def execTimOutCfg (h : CmdHdr) (ws : List Word) (s : State) : Res := .next (runCmd 0x0604 cmdTimOutCfg h ws s)
def execChainMaster (h : CmdHdr) (ws : List Word) (s : State) : Res := .next (runCmd 0x0C01 cmdChainMaster h ws s)
def execChainAsym (h : CmdHdr) (ws : List Word) (s : State) : Res := .next (runCmd 0x0C02 cmdChainAsym h ws s)

/-- A reference fails and starts again from nothing (R258, R286). -/
def restartRef (k : Nat) (s : State) : State :=
  s.onRef k fun r => { r with st := if r.prio = 0 then .disabled else .failed, wtrLeft := 0, expect := none, seen := false, missed := 0, outside := 0, outEdge := false,
                              quiet := 0, phase := false, freq := false, los := r.pps, offset := none, ph := none }

/-- A reference's settings take effect (R276, R286). -/
def applyRef (k : Nat) (ws : List Word) (s : State) : State :=
  let old := (s.ref k).cfg
  let t := s.tim
  let led := t.sel == k && refPps old && (t.st == .acquire || t.st == .locked || t.st == .switch)
  let s := s.onRef k fun r => { r with cfg := ws }
  let d := psUnits (refDelay ws - refDelay old)
  let s := s.onRef k fun r => { r with expect := r.expect.map fun e => ((e : Int) - d).toNat }
  let s := if led then addSlew d s else s
  if refPps old == refPps ws && refEdge old == refEdge ws && refNom old == refNom ws then s else restartRef k s

/-- An output's settings take effect (R279): disabling at once, all else at the next TAI second. -/
def applyOut (o : Nat) (ws : List Word) (s : State) : State :=
  if flag (wd ws 0) 31 then s.onOut o fun x => { x with next := some ws, due := true }
  else s.onOut o fun x => { x with cfg := ws, next := none, due := false, on := false, fly := false }

/-- A staged timing item takes effect at its boundary. -/
def applyTim (g : Staged) (s : State) : State :=
  match g.item with
  | .ref => applyRef g.idx g.ws s
  | .dpll => { s with tim := { s.tim with cfg := g.ws } }
  | .timeSet => applyTime g.ws s
  | .out => applyOut g.idx g.ws s
  | .chainAsym => (s.onLink false fun k => { k with asym := sword (wd g.ws 0) }).onLink true fun k => { k with asym := sword (wd g.ws 1) }
  | _ => s

end Sys2Proof.Machine
end

