-- ==== Sys2Proof/Machine/Clove.lean ====
section
/-! DEFINITION. Clove (chapter 11): slices, lanes and the fall-back engine, conversions, the two sequences, detectors, the
test DAC and the bias outputs. Time within a tick is counted in modulator clocks, 160 to a tick (R318). -/

namespace Sys2Proof.Machine

/-- Rewrite Clove. -/
def State.onClv (s : State) (f : CloveS → CloveS) : State := { s with clv := f s.clv }

/-- One modulator clock of 50 ns in 2^-16 ns (R318). -/
def clockUnits : Nat := 3276800

/-- The modulator clock of the boundary that began this tick, counted from the release of reset. -/
def State.clkBoundary (s : State) : Nat := 160 * s.tick.count
/-- The modulator clock now. -/
def State.clkNow (s : State) : Nat := s.clkBoundary + s.tick.sub / clockUnits
/-- Clove converts: RUN, DEGRADED or FALLBACK (Table 11-1). -/
def CloveState.runs : CloveState → Bool
  | .run | .degraded | .fallback => true
  | _ => false
/-- STATE of CLOVE_STAT (Table 11-1). -/
def CloveState.code : CloveState → Nat
  | .off => 0 | .cal => 1 | .run => 2 | .degraded => 3 | .fallback => 4 | .failed => 5

/-! ### Slices and lanes (R318 to R323) -/

/-- The slice that serves lane j; 7 is the fall-back engine (LANE_MAP). -/
def CloveS.slice (c : CloveS) (j : Nat) : Nat := if c.map.get j = 8 then j else c.map.get j
/-- Put a slice on a lane. -/
def CloveS.serve (c : CloveS) (j x : Nat) : CloveS := { c with map := c.map.set j (if x = j then 8 else x) }
/-- CAL_DWELL of CLOVE_CAL_CFG. -/
def CloveS.calDwell (c : CloveS) : Nat := fld c.cal 13 0
/-- SETTLE of CLOVE_CAL_CFG. -/
def CloveS.settleLen (c : CloveS) : Nat := fld c.cal 19 16
/-- ROT_EN of CLOVE_CAL_CFG. -/
def CloveS.rotEn (c : CloveS) : Bool := flag c.cal 31
/-- Retired slices. -/
def CloveS.retiredCount (c : CloveS) : Nat := popcount 5 c.retired.toNat

/-- The offline slice takes lane j, the slice it replaces goes offline and a dwell begins (R319, R320). -/
def CloveS.swapIn (j : Nat) (c : CloveS) : CloveS :=
  { c.serve j c.offline with offline := c.slice j, dwell := 0, dwellLen := c.calDwell, dwellDue := none, checkBad := c.checkBad.set j 0 }

/-- All lanes on the fall-back engine (R322, R323). -/
def toFallback (s : State) : State :=
  (s.onClv fun c =>
    { (((c.serve 0 7).serve 1 7).serve 2 7).serve 3 7 with st := .fallback, offline := 7, spareOk := false, suspects := [], dwellDue := none }).clvFault 3

/-- The fall-back engine fails: no lane is served and every result has VALID 0 (Table 11-1). -/
def toCloveFailed (s : State) : State :=
  (s.onClv fun c =>
    { c with st := .failed, failDue := false, suspects := [], dwellDue := none, step := none, xstep := none, injStep := none, injRes := [], injDone := false,
             injDue := false, fresh := [], supNew := [], offline := 7, spareOk := false, syncDue := false, paceDue := false
             res := { c.res with ents := c.res.ents.map fun e => (e.1, { e.2 with valid := false }) }
             sup := { c.sup with ents := c.sup.ents.map fun e => (e.1, { e.2 with valid := false }) }
             pInjRes := c.pInjRes.map fun r => { r with valid := false } }).clvFault 4

/-- Retire a slice (R319, R320): the first retirement takes the spare, the second brings in the fall-back engine. -/
def retireClv (x : Nat) (s : State) : State :=
  let s := ((s.onClv fun c => { c with retired := putBit c.retired x true }).count 9 0 0 1).clvFault 2
  if 2 ≤ s.clv.retiredCount then toFallback s
  else s.onClv fun c =>
    let c := match (List.range 4).find? fun j => c.slice j == x with
      | some j => c.serve j c.offline
      | none => c
    { c with st := .degraded, offline := 7, spareOk := false, dwellDue := none }

/-- A lane whose slice is suspect, at the next boundary (R320): the spare takes it, or without one its slice is retired. -/
def handleSuspect (s : State) (j : Nat) : State :=
  if !(s.clv.st == .run || s.clv.st == .degraded) then s
  else if s.clv.spareOk then s.onClv fun c => { c.swapIn j with spareOk := false }
  else retireClv (s.clv.slice j) s

/-! ### Sequences and steps (R328 to R331) -/

/-- MODE of a sequence. -/
def seqMode (q : List Word) : Nat := fld (wd q 0) 29 28
/-- LEN of a sequence. -/
def seqLen (q : List Word) : Nat := fld (wd q 0) 21 16
/-- Modulator clocks of one conversion at the sequence's OSR: 6 x 2^(6 + OSR_CODE) (R325). -/
def seqClocks (q : List Word) : Nat := 6 * 2 ^ (6 + fld (wd q 0) 26 24)
/-- OSR of a sequence (R325). -/
def seqOsr (q : List Word) : Nat := 2 ^ (6 + fld (wd q 0) 26 24)
/-- Steps of a scan or run. -/
def seqSteps (q : List Word) : Nat := (seqLen q + 3) / 4
/-- PACE of a sequence. -/
def seqPace (q : List Word) : Nat := fld (wd q 0) 15 0
/-- Channel of entry e. -/
def seqChan (q : List Word) (e : Nat) : Nat := fld (wd q (2 + e / 4)) (8 * (e % 4) + 5) (8 * (e % 4))

/-- The settings that a step starting at clock k takes. -/
def CloveS.stepAt (c : CloveS) (k : Nat) : CvStep := { clk := k, tdac := c.tdac, fb := c.st == .fallback }

/-- The regular scan goes on, on clock k: with a new sequence if one waits, from entry 0 when it is continuous (R329). -/
def CloveS.regFrom (c : CloveS) (k : Nat) : CloveS :=
  let c := match c.seqNext with
    | some q => { c with seq := q, seqNext := none, step := if seqMode q == 1 then some 0 else none }
    | none => c
  { c with reg := c.stepAt k }

/-- A step boundary on clock k: a check step or supervisor steps that are due come before the regular step (R320, R321). -/
def CloveS.nextStep (c : CloveS) (k : Nat) : CloveS :=
  if c.checkDue then { c with checkDue := false, xstep := some 0, xclk := k, xlen := seqClocks c.seq }
  else if c.supDue then { c with supDue := false, xstep := some 1, xclk := k, xlen := 1536, xdone := 0 }
  else c.regFrom k

/-- Start the regular scan at entry 0 on clock k, with a new sequence if one waits (R328, R329); behind extra steps under way. -/
def CloveS.scanFrom (c : CloveS) (k : Nat) : CloveS :=
  let c := { c with seq := c.seqNext.getD c.seq, seqNext := none, paceDue := false }
  let c := { c with step := if seqMode c.seq == 0 then none else some 0 }
  if c.xstep.isSome then c else c.nextStep k

/-- What follows a regular step that ended on clock k (R328, R329). -/
def CloveS.afterStep (c : CloveS) (j k : Nat) : CloveS :=
  let next := if j + 1 < seqSteps c.seq then some (j + 1) else if seqMode c.seq == 1 then some 0 else none
  CloveS.nextStep { c with step := next } k

/-- Clocks that the extra steps under way still need. -/
def CloveS.xleft (c : CloveS) : Nat := if c.xstep = some 1 then (3 - c.xdone) * c.xlen else c.xlen

/-- Extra steps are cut short on clock k: a supervisor step that has ended stands, the one under way is repeated (R321). -/
def CloveS.cutExtra (c : CloveS) (k : Nat) : CloveS :=
  if c.xstep = some 1 then { c with xdone := min 2 (c.xdone + (k - c.xclk) / c.xlen) } else c

/-- After an injected run that ended on clock k: the step that was abandoned starts again (R321, R330). -/
def CloveS.resume (c : CloveS) (k : Nat) : CloveS := if c.xstep.isSome then { c with xclk := k } else c.nextStep k

/-- The extra steps have ended on clock k. -/
def CloveS.endExtra (c : CloveS) (k : Nat) : CloveS := CloveS.nextStep { c with xstep := none } k

/-- EDGE and SRC_MASK of the injected sequence. -/
def CloveS.edge (c : CloveS) : Nat := fld (wd c.inj 1) 1 0
/-- SRC_MASK of the injected sequence (Table 11-5). -/
def CloveS.srcMask (c : CloveS) : Nat := fld (wd c.inj 1) 15 10

/-- A trigger of the injected sequence on clock k at a time of day (R330 to R332); srcs as TRIG_SRC. -/
def injTrigger (srcs time k : Nat) (s : State) : State :=
  if seqMode s.clv.inj == 0 || !s.clv.st.runs then s
  else if s.clv.injStep == some 0 && s.clv.run.clk == k then
    s.onClv fun c => { c with injSrc := c.injSrc ||| srcs }
  else if s.clv.injStep.isSome || s.clv.injDone then (s.count 9 4 0 1).clvFault 5
  else (s.onClv fun c => { c.cutExtra k with injStep := some 0, run := c.stepAt k, injRes := [], injSrc := srcs, injTime := time }).count 9 3 0 1

/-- A sync takes effect on clock k: conversions are abandoned and the scan restarts at entry 0 (R334); extra steps under way start
again before it. -/
def syncNow (k : Nat) (s : State) : State :=
  if s.clv.st.runs then
    s.onClv fun c => CloveS.scanFrom { c.cutExtra k with xclk := if c.xstep.isSome then k else c.xclk, syncDue := false } k
  else s

/-- A sync arrives: during an injected run it is deferred and counted (R335). -/
def syncArrives (k : Nat) (s : State) : State :=
  if s.clv.injStep.isSome then (s.onClv fun c => { c with syncDue := true }).count 9 5 0 1 else syncNow k s

/-! ### Results (R325, R333, R336, R338) -/

/-- The largest and smallest result codes. -/
def resMax : Int := 0x7FFFFF
/-- The smallest result code. -/
def resMin : Int := -0x800000

/-- The width of the CIC's integrators and combs: they wrap modulo 2^37 (R326). -/
def cicMod : Nat := 2 ^ 37

/-- The three integrators over modulator bits, each one +1 or -1 (R325). -/
def cicIntegrate : List Bool → Nat × Nat × Nat → Nat × Nat × Nat
  | [], x => x
  | b :: bs, (i, j, k) =>
    let i := (i + (if b then 1 else cicMod - 1)) % cicMod
    let j := (j + i) % cicMod
    cicIntegrate bs (i, j, (k + j) % cicMod)

/-- The third integrator after each of n blocks of OSR bits. -/
def cicBlocks (osr : Nat) : Nat → List Bool → Nat × Nat × Nat → List Nat
  | 0, _, _ => []
  | n + 1, bs, x =>
    let y := cicIntegrate (bs.take osr) x
    y.2.2 :: cicBlocks osr n (bs.drop osr) y

/-- Output n of the decimation chain (R325, R326): the third difference of the decimated integrator. -/
def cicOut (osr : Nat) (bits : List Bool) (n : Nat) : Int :=
  let x := [0, 0, 0] ++ cicBlocks osr 6 bits (0, 0, 0)
  let at_ (i : Nat) : Nat := x.getD i 0
  signed 37 ((at_ (n + 3) + 3 * at_ (n + 1) + 3 * (cicMod - at_ (n + 2)) + (cicMod - at_ n)) % cicMod)

/-- The result before clamping (R325): outputs 3, 4 and 5 through the FIR filter with taps -1/8, 5/4 and -1/8, normalised so that FS
maps to 2^23. -/
def outValue (osr : Nat) (o : ConvOut) : Int :=
  roundDiv ((10 * cicOut osr o.bits 4 - cicOut osr o.bits 3 - cicOut osr o.bits 5) * 2 ^ 23) o.full

/-- A conversion is over-range (R333). -/
def overRange (osr : Nat) (o : ConvOut) : Bool :=
  o.overload.isSome || decide (resMax < outValue osr o) || decide (outValue osr o < resMin)

/-- The clamped result, after the sign of the overload (R333). -/
def outData (osr : Nat) (o : ConvOut) : Int :=
  match o.overload with
  | some true => resMin
  | some false => resMax
  | none => clamp resMin resMax (outValue osr o)

/-- Form the result of one conversion of a channel, with the settling of its lane (R325, R333, R338). -/
def formRes (st : CvStep) (osr ch : Nat) (o : ConvOut) (s : State) : ResS × State :=
  let n := s.clv.settle.get o.lane.val
  let r : ResS := { valid := true, ovr := overRange osr o, uns := 0 < n, fb := st.fb,
                    tst := fld st.tdac 17 16 == 2 && fld st.tdac 28 24 == ch && decide (ch < 32), lane := o.lane.val, data := outData osr o }
  let s := s.onClv fun c => { c with settle := c.settle.set o.lane.val (if overRange osr o then c.settleLen else n - 1) }
  (r, s.when (overRange osr o) fun s => (s.count 9 1 ch 1).clvFault 0)

/-- KIND of a detector. -/
def DetS.kind (d : DetS) : Nat := fld (wd d.cfg 0) 5 4
/-- Channel of a detector. -/
def DetS.ch (d : DetS) : Nat := fld (wd d.cfg 0) 13 8
/-- WIN of a detector. -/
def DetS.winLen (d : DetS) : Nat := fld (wd d.cfg 0) 31 16
/-- The envelope after a result x (R336). -/
def envStep (decay : Nat) (e : Option Int) (x : Int) : Int :=
  match e with
  | none => |x|
  | some e => if e ≤ |x| then |x| else e - (e - |x|) / ((2 ^ decay : Nat) : Int)

/-- A result enters a detector that watches its channel (R336). -/
def DetS.take (ch : Nat) (r : ResS) (d : DetS) : DetS :=
  if d.kind = 0 || d.ch != ch || r.uns || r.tst then d
  else { d with win := d.win ++ [r.data], ovr := d.ovr || r.ovr, env := some (envStep (fld (wd d.cfg 1) 27 24) d.env r.data) }

/-- EN, TARGET, SIGN, LINE, CH, NPER of a bias output (Table 11-11). -/
def BiasS.en (b : BiasS) : Bool := flag (wd b.cfg 0) 31
/-- TARGET. -/
def BiasS.target (b : BiasS) : Nat := fld (wd b.cfg 0) 29 28
/-- LINE. -/
def BiasS.line (b : BiasS) : Nat := fld (wd b.cfg 0) 26 26
/-- CH. -/
def BiasS.ch (b : BiasS) : Nat := fld (wd b.cfg 0) 21 16
/-- NPER. -/
def BiasS.nper (b : BiasS) : Nat := fld (wd b.cfg 0) 15 8
/-- MAX. -/
def BiasS.max (b : BiasS) : Nat := fld (wd b.cfg 1) 31 16
/-- MIN. -/
def BiasS.min (b : BiasS) : Nat := fld (wd b.cfg 1) 15 0
/-- SAFE. -/
def BiasS.safe (b : BiasS) : Nat := fld (wd b.cfg 2) 31 16
/-- P. -/
def BiasS.per (b : BiasS) : Nat := fld (wd b.cfg 3) 31 16
/-- AMP. -/
def BiasS.amp (b : BiasS) : Nat := fld (wd b.cfg 3) 11 0

/-- The half-period (numbered from tick 0) that holds both ticks, if one does (R340). -/
def halfOf (per first last : Nat) : Option Nat :=
  if first / (per / 2) = last / (per / 2) then some (first / (per / 2)) else none

/-- A regular result of a bias output's channel, whose conversion ran from tick `first` to tick `last` (R340). -/
def BiasS.take (ch first last : Nat) (r : ResS) (b : BiasS) : BiasS :=
  if !b.en || b.target = 0 || b.ch != ch || r.tst || b.atSafe then b
  else match halfOf b.per first last with
    | none => b
    | some h =>
      if h % 2 = 0 then { b with hi := b.hi ++ [r.data], ovr := b.ovr || r.ovr }
      else { b with lo := b.lo ++ [r.data], ovr := b.ovr || r.ovr }

/-- The tick number in which a modulator clock lies. -/
def tickOfClock (s : State) (k : Nat) : Nat := s.tick.num - (s.tick.count - k / 160)

/-- A regular result goes to the post of the next boundary, the detectors and the bias loops (R327, R336, R340). -/
def takeRegular (ch first last : Nat) (r : ResS) (s : State) : State :=
  s.onClv fun c =>
    { c with fresh := c.fresh ++ [(ch, r)]
             det := (List.range 16).foldl (fun t k => t.upd k (DetS.take ch r)) c.det
             bias := (List.range 16).foldl (fun t k => t.upd k (BiasS.take ch first last r)) c.bias }

/-! ### The tick -/

/-- The code that an output drives in this tick (R339): s is +1 in the first half of each period. -/
def biasCode (num : Nat) (b : BiasS) : Option Nat :=
  if !b.en then none
  else if b.atSafe then some b.safe
  else
    let d : Int := if num % b.per < b.per / 2 then b.amp else -b.amp
    some (clamp b.min b.max (b.base + d)).toNat

/-- LOOP of a bias output (R341, R342, Table 11-7). -/
def biasLoop (s : State) (b : BiasS) : LoopState :=
  if !b.en then .off
  else if b.atSafe then .safe
  else if b.target = 0 || s.clv.st == .failed then .hold
  else if !((s.cv b.line).tx == .ready || (s.cv b.line).tx == .degraded) then .paused
  else if b.starved then .starved
  else .running

/-- LIMIT after a change of BASE, with BIAS_LIMIT at the first of an episode (R341). -/
def biasLimit (k : Nat) (s : State) : State :=
  let b := s.clv.bias.get k
  let at_ := b.en && (b.base == b.max || b.base == b.min)
  (s.onBias k fun b => { b with limit := at_ }).when (at_ && !b.limit) (·.clvFault 8)

/-- The change of BASE that an update asks for (R340), exact before it is clamped and rounded toward zero. -/
def biasDelta (b : BiasS) : Int :=
  let nh : Int := b.hi.length
  let nl : Int := b.lo.length
  let sh := b.hi.foldl (· + ·) 0
  let sl := b.lo.foldl (· + ·) 0
  let gain : Int := fld (wd b.cfg 4) 31 16
  let diff := sh * nl - sl * nh
  match b.target with
  | 1 => Int.tdiv (-(gain * diff)) (65536 * nh * nl)
  | 2 => Int.tdiv (gain * diff) (65536 * nh * nl)
  | _ =>
    let e := 2 * signed 24 (fld (wd b.cfg 5) 23 0) * nh * nl - (sh * nl + sl * nh)
    Int.tdiv ((if flag (wd b.cfg 0) 27 then -1 else 1) * (gain * e)) (131072 * nh * nl)

/-- The results of a bias loop's periods are used up. -/
def BiasS.clear (b : BiasS) : BiasS := { b with due := false, hi := [], lo := [], ovr := false }

/-- An update of BASE from the periods just ended (R340, R341). -/
def biasUpdate (k : Nat) (s : State) : State :=
  let b := s.clv.bias.get k
  if biasLoop s { b with starved := false } != .running then s.onBias k BiasS.clear
  else if b.hi.length < 2 * b.nper || b.lo.length < 2 * b.nper then
    (s.onBias k fun b => { b.clear with starved := true }).when (!b.starved) (·.clvFault 9)
  else if b.ovr then s.onBias k fun b => { b.clear with starved := false }
  else
    let m : Int := fld (wd b.cfg 4) 15 0
    let base := clamp b.min b.max (b.base + clamp (-m) m (biasDelta b))
    biasLimit k (s.onBias k fun b => { b.clear with starved := false, base := base.toNat })

/-- A bias output at a boundary (R339, R340, R342): out of SAFE in P0 or P1, the update of its loop where the firmware makes one, its
loop state and its code. -/
def biasTick (s : State) (k : Nat) : State :=
  let b := s.clv.bias.get k
  if b.en || b.code.isSome || b.loop != .off then
    let back := b.atSafe && (s.pwr.st == .p0 || s.pwr.st == .p1) && s.pwr.p2Step.isNone
    let s := s.onBias k fun b => { b with atSafe := b.atSafe && !back }
    let ends := s.tick.num % (b.nper * b.per) == 0
    let s := if !ends then s else if b.due && s.fwRuns && b.en && b.target != 0 then biasUpdate k s else s.onBias k BiasS.clear
    s.onBias k fun b => { b with loop := biasLoop s b, code := biasCode s.tick.num b }
  else s

/-- A detector at a boundary: the window that ends waits to be posted (R336). -/
def detTick (num : Nat) (d : DetS) : DetS :=
  if d.kind = 0 then d
  else if d.kind = 3 then { d with due := true, dueOvr := d.ovr, win := [], ovr := false }
  else if num % d.winLen = 0 then { d with due := true, dueWin := d.win, dueOvr := d.ovr, win := [], ovr := false }
  else d

/-- Start-up calibration ends (R342): the slices that failed are retired and Clove enters the state that Table 11-1 gives. -/
def cloveLeaveCal (bad : List Nat) (fbBad : Bool) (s : State) : State :=
  let s := s.onClv fun c => { c with st := .run, calDue := none, spareOk := true, offline := 4, dwell := 0, dwellLen := c.calDwell }
  let s := s.each bad fun s x => retireClv x s
  (s.onClv fun c => c.scanFrom s.clkBoundary).when fbBad toCloveFailed

/-- The offline slice at the boundary that ends its dwell (R319); with ROT_EN 0 it stays offline. -/
def dwellTurn (s : State) : State :=
  match s.clv.dwellDue with
  | some true =>
    s.onClv fun c =>
      if c.rotEn then { c.swapIn c.nextLane with nextLane := (c.nextLane + 1) % 4, spareOk := true } else { c with dwellDue := none }
  | some false => retireClv s.clv.offline s
  | none => s

/-- Clove before the staged items of a boundary: its timers, suspects of the check step, and what a second or 10 ms brings
(R319 to R322, R331). -/
def cloveTick (s : State) : State :=
  match s.clv.st with
  | .off => s
  | .cal => match s.clv.calDue with
    | some r => cloveLeaveCal r.1 r.2 s
    | none => s.onClv fun c => { c with ticks := c.ticks + 1 }
  | .failed => s
  | _ =>
    let s := s.when s.clv.injStep.isSome (·.carry 4)
    let s := s.onClv fun c => { c with dwell := if c.st == .run && c.rotEn then c.dwell + 1 else c.dwell }
    let s := (s.each s.clv.suspects handleSuspect).onClv fun c => { c with suspects := [] }
    let s := (dwellTurn s).when s.clv.failDue toCloveFailed
    s.onClv fun c =>
      if c.st.runs then
        let c := { c with checkDue := c.checkDue || s.tick.num % 125000 == 0, supDue := c.supDue || s.tick.num % 1250 == 0 }
        if c.step.isNone && c.injStep.isNone && c.xstep.isNone then c.nextStep s.clkBoundary else c
      else c

/-- A paced scan falls due at the boundary (R328); one that a sync has just restarted counts as this period's (R334). -/
def cloveAfterApply (s : State) : State :=
  let s := s.onClv fun c =>
    { c with paceDue := c.st.runs && seqMode c.seq == 2 && s.tick.num % seqPace c.seq == 0 && !(c.step == some 0 && c.reg.clk == s.clkBoundary) }
  s.each (List.range 16) biasTick

/-- The largest r below 2^n with r * r at most x. -/
def sqrtBits (x : Nat) : Nat → Nat → Nat
  | 0, r => r
  | n + 1, r => if (r + 2 ^ n) * (r + 2 ^ n) ≤ x then sqrtBits x n (r + 2 ^ n) else sqrtBits x n r

/-- The square root of a quotient, to the nearest integer. -/
def rootOf (num den : Nat) : Nat := (sqrtBits (4 * num / den) 26 0 + 1) / 2

/-- VALUE and VALUE2 of a window (R336): maximum and minimum, RMS and mean, envelope and 0. -/
def detValues (d : DetS) : Option (Int × Int) :=
  if d.kind = 3 then d.env.map fun e => (e, 0)
  else match d.dueWin with
    | [] => none
    | x :: xs =>
      if d.kind = 1 then some (xs.foldl Max.max x, xs.foldl Min.min x)
      else
        let n := xs.length + 1
        let sum := xs.foldl (· + ·) x
        let sq := xs.foldl (fun a y => a + y * y) (x * x)
        let num := if flag (wd d.cfg 0) 14 then n * sq - sum * sum else n * sq
        some ((rootOf num.toNat (n * n) : Int), roundDiv sum n)

/-- The post of an ended window with its thresholds; the first of an episode raises DET_THR and may trigger (R336, R337). -/
def detPost (s : State) (k : Nat) : State :=
  let d := s.clv.det.get k
  if d.go && d.due then
    let v := detValues d
    let x := (v.getD (0, 0)).1
    let y := (v.getD (0, 0)).2
    let low := if d.kind = 1 then y else x
    let hi := v.isSome && decide (signed 24 (fld (wd d.cfg 1) 23 0) < x)
    let lo := v.isSome && decide (low < signed 24 (fld (wd d.cfg 2) 23 0))
    let s := s.onDet k fun d =>
      { d with due := false, go := false, valid := v.isSome, pOvr := d.dueOvr && v.isSome, hi := hi, lo := lo, value := x, value2 := y }
    s.when ((hi || lo) && !(d.hi || d.lo)) fun s =>
      (s.clvFault 7).when (flag (wd d.cfg 0) 15 && s.clv.srcMask.testBit 0) (injTrigger 4 s.tick.tod s.clkBoundary)
  else s

/-- The post of an injected run (R331): trigger time, sources and results; RUNS saturates. -/
def injPost (c : CloveS) : CloveS :=
  if c.injDone && c.injDue then
    { c with injDone := false, injDue := false, pInjSrc := c.injSrc, pInjTime := c.injTime, pInjRes := c.injRes
             pInjLen := seqLen c.inj, inj := c.injNext.getD c.inj, injNext := none, runs := min 0xFFFF (c.runs + 1) }
  else c

/-- Clove's posts in step 4 of a boundary (R321, R327, R331, R336). -/
def clovePost (s : State) : State :=
  let s := s.onClv fun c =>
    { injPost c with res := c.fresh.foldl (fun t r => t.set r.1 r.2) c.res
                     fresh := []
                     sup := c.sup.setRun 0 c.supNew
                     supNew := []
                     det := (List.range 16).foldl (fun t k => t.upd k (detTick s.tick.num)) c.det }
  s.each (List.range 16) detPost

/-! ### Events -/

/-- CLOVE_CAL_END (R342): in the 250th tick; the slices and the engine that failed are known, and the boundary leaves CAL. -/
def execCloveCalEnd (bad : List (Fin 5)) (fbBad : Bool) (s : State) : Res :=
  if s.live && s.clv.st == .cal && 249 ≤ s.clv.ticks then
    .next (s.onClv fun c => { c with calDue := some (((List.finRange 5).filter fun x => bad.contains x).map Fin.val, fbBad) })
  else .next s

/-- A trim of a slice of Clove has reached an end of its range: +-2,000 ppm of FS for the offset, +-2 % for the gain (R319). -/
def clvSaturated (offset gain : Int) : Bool := decide (2000 ≤ offset.natAbs) || decide (20000 ≤ gain.natAbs)

/-- CLOVE_DWELL_END (R319): in the last tick of a dwell or in any of its extension, with the slice that is offline and its trims in ppm. A passing slice takes
NEXT_LANE at the boundary; one with a saturated trim, or that fails after four dwell lengths, is retired there. -/
def execCloveDwellEnd (slice : Fin 5) (offset gain : Int) (offRes gainRes : Nat) (s : State) : Res :=
  let c := s.clv
  if s.up && c.st == .run && c.rotEn && c.offline == slice.val && c.dwellLen ≤ c.dwell + 1 then
    let sat := clvSaturated offset gain
    let s := s.onClv fun c => { c with trims := c.trims.set slice (clamp (-2000) 2000 offset, clamp (-20000) 20000 gain) }
    if offRes ≤ 2 && gainRes ≤ 5 && !sat then .next (s.onClv fun c => { c with dwellDue := some true })
    else if sat || 4 * c.dwellLen ≤ c.dwell + 1 then .next (s.onClv fun c => { c with dwellDue := some false })
    else .next s
  else .next s

/-- A check result differs from zero by more than 50 ppm of FS (R320). -/
def checkFails (x : Int) : Bool := decide (50 * 2 ^ 23 < |x| * 1000000)

/-- CLOVE_CHECK_STEP (R320, R323): the check step ends; four lanes have converted ZERO, and the fall-back engine is checked. Two
failures in consecutive seconds act at the next boundary. -/
def execCloveCheckStep (res : List Int) (s : State) : Res :=
  let c := s.clv
  if s.up && c.st.runs && c.xstep == some 0 && c.injStep.isNone && c.xclk + c.xleft < s.clkBoundary + 160 then
    let bad := fun i => if checkFails (res.getD i 0) then c.checkBad.get i + 1 else 0
    let t := (List.range 5).foldl (fun t i => t.set i (bad i)) c.checkBad
    let sus := if c.st == .fallback then [] else (List.range 4).filter fun i => 2 ≤ bad i
    let s := s.onClv fun c => { c.endExtra (c.xclk + c.xleft) with checkBad := t, suspects := sus, failDue := decide (2 ≤ bad 4) }
    .next (s.each sus fun s _ => s.clvFault 1)
  else .next s

/-- CLOVE_SUPERVISOR_STEPS (R321): the three steps of MON32 to MON42 at OSR 256 have ended; they are posted at the next boundary. -/
def execCloveSupervisorSteps (res : List ConvOut) (s : State) : Res :=
  let c := s.clv
  if s.up && c.st.runs && c.xstep == some 1 && c.injStep.isNone && c.xclk + c.xleft < s.clkBoundary + 160 then
    let st := c.stepAt c.xclk
    let r := (List.range 11).foldl (fun (acc : List ResS × State) i =>
      let q := formRes st 256 (32 + i) { res.getD i { lane := 0 } with lane := Fin.ofNat 4 i } acc.2
      (acc.1 ++ [q.1], q.2)) ([], s)
    .next (r.2.onClv fun c => { c.endExtra (c.xclk + c.xleft) with supNew := r.1 })
  else .next s

/-- The results of one step: the outputs whose lane has an entry in it, with the channel of each (R328). -/
def stepOuts (q : List Word) (j : Nat) (res : List ConvOut) : List (Nat × ConvOut) :=
  res.filterMap fun o => if 4 * j + o.lane.val < seqLen q then some (seqChan q (4 * j + o.lane.val), o) else none

/-- CLOVE_CONVERSION_END of an injected step (R330, R331). -/
def injStepEnd (j : Nat) (res : List ConvOut) (s : State) : State :=
  let k := s.clv.run.clk + seqClocks s.clv.inj
  let s := s.each (stepOuts s.clv.inj j res) fun s x =>
    let q := formRes s.clv.run (seqOsr s.clv.inj) x.1 x.2 s
    q.2.onClv fun c => { c with injRes := c.injRes ++ [q.1] }
  s.onClv fun c =>
    if j + 1 < seqSteps c.inj then { c with injStep := some (j + 1), run := c.stepAt k }
    else { c.resume k with injStep := none, injDone := true, syncAt := k }

/-- CLOVE_CONVERSION_END of a regular step (R325 to R328, R333). -/
def regStepEnd (j : Nat) (res : List ConvOut) (s : State) : State :=
  let k := s.clv.reg.clk + seqClocks s.clv.seq
  let first := tickOfClock s s.clv.reg.clk
  let last := tickOfClock s (k - 1)
  let s := s.each (stepOuts s.clv.seq j res) fun s x =>
    let q := formRes s.clv.reg (seqOsr s.clv.seq) x.1 x.2 s
    takeRegular x.1 first last q.1 q.2
  s.onClv fun c => c.afterStep j k

/-- CLOVE_CONVERSION_END (R325): the conversions of the step under way end 6 x OSR clocks after its start; an injected run
stands before the regular scan (R330). -/
def execCloveConversionEnd (res : List ConvOut) (s : State) : Res :=
  let c := s.clv
  if s.up && c.st.runs then
    match c.injStep, c.step with
    | some j, _ => if c.run.clk + seqClocks c.inj < s.clkBoundary + 160 then .next (injStepEnd j res s) else .next s
    | none, some j => if c.xstep.isNone && c.reg.clk + seqClocks c.seq < s.clkBoundary + 160 then .next (regStepEnd j res s) else .next s
    | none, none => .next s
  else .next s

/-- CLOVE_PACE_START (R328): a scan starts at the pace boundary, or is skipped and counted. -/
def execClovePaceStart (s : State) : Res :=
  let c := s.clv
  if s.up && c.st.runs && c.paceDue then
    if c.step.isNone && c.injStep.isNone then .next (s.onClv fun c => c.scanFrom s.clkBoundary)
    else .next (((s.onClv fun c => { c with paceDue := false }).count 9 2 0 1).clvFault 6)
  else .next s

/-- EXT_TRIG_EDGE (R330 to R332): an edge that EDGE selects triggers the injected sequence at its time of day. -/
def execExtTrigEdge (rising : Bool) (sub : Nat) (s : State) : Res :=
  if s.up then
    let s := s.atSub sub
    .next (s.when (s.clv.edge.testBit (if rising then 0 else 1)) fun s => injTrigger 1 s.now s.clkNow s)
  else .next s

/-- CLOVE_INJ_TRIGGER (R330): internal events that have come in this tick and that SRC_MASK enables trigger the injected sequence. A
detector and the rail alarm trigger it where they are found (R337, R437). -/
def execCloveInjTrigger (srcs : BitVec 6) (s : State) : Res :=
  let m := (srcs &&& s.clv.trig).toNat &&& s.clv.srcMask
  if s.up && m != 0 then
    let s := s.onClv fun c => { c with trig := c.trig &&& ~~~srcs }
    .next (injTrigger (4 * m) (s.tick.tod + s.tick.sub / clockUnits * clockUnits) s.clkNow s)
  else .next s

/-- CLOVE_INJ_POST (R331): the run has ended, and the next boundary posts it. -/
def execCloveInjPost (s : State) : Res :=
  if s.up && s.clv.injDone then .next (s.onClv fun c => { c with injDue := true }) else .next s

/-- MON_SYNC_EDGE (R334, R335). -/
def execMonSyncEdge (s : State) : Res := if s.up then .next (syncArrives s.clkNow s) else .next s

/-- CLOVE_SYNC_DEFERRED (R335): the syncs deferred during a run act as one when it ends. -/
def execCloveSyncDeferred (s : State) : Res :=
  if s.up && s.clv.syncDue && s.clv.injStep.isNone then .next (syncNow s.clv.syncAt s) else .next s

/-- DETECTOR_POST (R336, R337): the next boundary with an ended window posts it. -/
def execDetectorPost (k : Fin 16) (s : State) : Res :=
  if s.up && (s.clv.det.get k.val).kind != 0 then .next (s.onDet k.val fun d => { d with go := true }) else .next s

/-- BIAS_LOOP_UPDATE (R340, R341): the firmware updates BASE at the boundary that ends the dither periods under way. -/
def execBiasLoopUpdate (k : Fin 16) (s : State) : Res :=
  let b := s.clv.bias.get k.val
  if s.up && s.fwRuns && b.en && b.target != 0 then .next (s.onBias k.val fun b => { b with due := true }) else .next s

/-! ### Commands (R344) -/

/-- CLOVE_CHAN_CFG. -/
def cmdCloveChanCfg (_ : CmdHdr) (ws : List Word) (s : State) : CmdRes :=
  needLen ws 1 <| need (onlyBits (wd ws 0) 0x31F) .badArg 0 <| stageOne s .chan (fld (wd ws 0) 4 0) 0 ws

/-- The checks of Table 11-9 on a sequence. -/
def seqOk (ws : List Word) : Bool :=
  let w := wd ws 0
  let inj := flag w 31
  let mode := fld w 29 28
  onlyBits w 0xB73FFFFF && onlyBits (wd ws 1) 0xFC03 && (ws.drop 2).all (onlyBits · 0x3F3F3F3F) &&
  decide (mode < if inj then 2 else 3) &&
  (mode == 0 || (decide (1 ≤ seqLen ws) && decide (seqLen ws ≤ if inj then 8 else 32))) &&
  decide (fld w 26 24 < if inj then 2 else 7) && !(mode == 2 && seqPace ws == 0) &&
  (List.range (seqLen ws)).all fun e => decide (seqChan ws e < 48)

/-- CLOVE_SEQ_SET (Table 11-9). -/
def cmdCloveSeqSet (_ : CmdHdr) (ws : List Word) (s : State) : CmdRes :=
  needLen ws 10 <| need (seqOk ws) .badArg 0 <| stageOne s .seq (fld (wd ws 0) 31 31) 0 ws

/-- CLOVE_SYNC (R334). -/
def cmdCloveSync (_ : CmdHdr) (ws : List Word) (s : State) : CmdRes := needLen ws 0 <| .done (s.stage .sync 0 0 []) []

/-- CLOVE_INJ_FIRE (R330, R332). -/
def cmdCloveInjFire (_ : CmdHdr) (ws : List Word) (s : State) : CmdRes :=
  needLen ws 0 <| need (seqMode s.clv.inj != 0) .badArg 0 <| .done (s.stage .injFire 0 0 []) []

/-- CLOVE_DET_CFG (Table 11-10). -/
def cmdCloveDetCfg (_ : CmdHdr) (ws : List Word) (s : State) : CmdRes :=
  needLen ws 3 <| need (onlyBits (wd ws 0) 0xFFFFFF3F && fld (wd ws 0) 31 16 != 0 && decide (fld (wd ws 0) 13 8 < 48)) .badArg 0 <|
  need (onlyBits (wd ws 1) 0x0FFFFFFF) .badArg 1 <| need (onlyBits (wd ws 2) 0x00FFFFFF) .badArg 2 <|
  stageOne s .det (fld (wd ws 0) 3 0) 0 ws

/-- CLOVE_TDAC (R338). -/
def cmdCloveTdac (_ : CmdHdr) (ws : List Word) (s : State) : CmdRes :=
  needLen ws 1 <| need (onlyBits (wd ws 0) 0x1FF30FFF && fld (wd ws 0) 17 16 != 3) .badArg 0 <| stageOne s .tdac 0 0 ws

/-- The checks of Table 11-11 on a bias output's words. -/
def biasOk (ws : List Word) : Bool :=
  let b : BiasS := { cfg := ws }
  onlyBits (wd ws 0) 0xBC3FFF0F && onlyBits (wd ws 3) 0xFFFF0FFF && onlyBits (wd ws 5) 0x00FFFFFF &&
  decide (b.min ≤ b.max) && decide (b.min ≤ b.safe && b.safe ≤ b.max) &&
  decide (b.min ≤ fld (wd ws 2) 15 0 && fld (wd ws 2) 15 0 ≤ b.max) &&
  b.per % 2 == 0 && decide (8 ≤ b.per && b.per ≤ 1024) && b.nper != 0 && decide (b.ch < 48) &&
  !((b.target == 1 || b.target == 2) && b.amp == 0)

/-- CLOVE_BIAS_CFG (Table 11-11). -/
def cmdCloveBiasCfg (_ : CmdHdr) (ws : List Word) (s : State) : CmdRes :=
  needLen ws 6 <| need (biasOk ws) .badArg 0 <| stageOne s .bias (fld (wd ws 0) 3 0) 0 ws

/-- CLOVE_BIAS_SET (R341): BUSY while TARGET is not 0, BAD_ARG outside MIN to MAX. -/
def cmdCloveBiasSet (_ : CmdHdr) (ws : List Word) (s : State) : CmdRes :=
  let k := fld (wd ws 0) 3 0
  let b := s.clv.bias.get k
  let v := fld (wd ws 0) 31 16
  needLen ws 1 <| need (onlyBits (wd ws 0) 0xFFFF000F && decide (b.min ≤ v && v ≤ b.max)) .badArg 0 <|
  need (b.target == 0) .busy 0 <| stageOne s .bias k 1 ws

/-- CLOVE_CAL_CFG (R319, R333). -/
def cmdCloveCalCfg (_ : CmdHdr) (ws : List Word) (s : State) : CmdRes :=
  needLen ws 1 <| need (onlyBits (wd ws 0) 0x800F3FFF && decide (125 ≤ fld (wd ws 0) 13 0 && fld (wd ws 0) 13 0 ≤ 12500)) .badArg 0 <|
  stageOne s .cloveCal 0 0 ws

/-- A staged Clove item takes effect in step 2 of the boundary (R26, R344). -/
def applyClv (g : Staged) (s : State) : State :=
  match g.item with
  | .chan => s.onClv fun c => { c with range := c.range.set g.idx (fld (wd g.ws 0) 9 8) }
  | .seq =>
    if g.idx = 0 then
      s.onClv fun c =>
        if c.step.isSome then { c with seqNext := some g.ws }
        else
          let c := { c with seq := g.ws, seqNext := none }
          if c.st.runs && seqMode g.ws == 1 then c.scanFrom s.clkBoundary else c
    else s.onClv fun c => if c.injStep.isSome || c.injDone then { c with injNext := some g.ws } else { c with inj := g.ws }
  | .sync => syncArrives s.clkBoundary s
  | .injFire => injTrigger 2 s.tick.tod s.clkBoundary s
  | .det => s.onDet g.idx fun d => { d with cfg := g.ws, win := [], ovr := false, dueWin := [], dueOvr := false, due := false, env := none }
  | .tdac => s.onClv fun c => { c with tdac := wd g.ws 0 }
  | .bias =>
    let s := if g.op = 0 then
        s.onBias g.idx fun b => { b with cfg := g.ws, hi := [], lo := [], ovr := false, due := false, starved := false
                                         base := if flag (wd g.ws 0) 31 && !b.en then fld (wd g.ws 2) 15 0 else b.base }
      else s.onBias g.idx fun b => { b with base := fld (wd g.ws 0) 31 16 }
    biasLimit g.idx s
  | .cloveCal => s.onClv fun c => { c with cal := wd g.ws 0 }
  | _ => s

/-- Command 0x0801 (CLOVE_CHAN_CFG). -/
def execCloveChanCfg (h : CmdHdr) (ws : List Word) (s : State) : Res := .next (runCmd 0x0801 cmdCloveChanCfg h ws s)
/-- Command 0x0802 (CLOVE_SEQ_SET). -/
def execCloveSeqSet (h : CmdHdr) (ws : List Word) (s : State) : Res := .next (runCmd 0x0802 cmdCloveSeqSet h ws s)
/-- Command 0x0803 (CLOVE_SYNC). -/
def execCloveSync (h : CmdHdr) (ws : List Word) (s : State) : Res := .next (runCmd 0x0803 cmdCloveSync h ws s)
/-- Command 0x0804 (CLOVE_INJ_FIRE). -/
def execCloveInjFire (h : CmdHdr) (ws : List Word) (s : State) : Res := .next (runCmd 0x0804 cmdCloveInjFire h ws s)
/-- Command 0x0805 (CLOVE_DET_CFG). -/
def execCloveDetCfg (h : CmdHdr) (ws : List Word) (s : State) : Res := .next (runCmd 0x0805 cmdCloveDetCfg h ws s)
/-- Command 0x0806 (CLOVE_TDAC). -/
def execCloveTdac (h : CmdHdr) (ws : List Word) (s : State) : Res := .next (runCmd 0x0806 cmdCloveTdac h ws s)
/-- Command 0x0807 (CLOVE_BIAS_CFG). -/
def execCloveBiasCfg (h : CmdHdr) (ws : List Word) (s : State) : Res := .next (runCmd 0x0807 cmdCloveBiasCfg h ws s)
/-- Command 0x0808 (CLOVE_BIAS_SET). -/
def execCloveBiasSet (h : CmdHdr) (ws : List Word) (s : State) : Res := .next (runCmd 0x0808 cmdCloveBiasSet h ws s)
/-- Command 0x0809 (CLOVE_CAL_CFG). -/
def execCloveCalCfg (h : CmdHdr) (ws : List Word) (s : State) : Res := .next (runCmd 0x0809 cmdCloveCalCfg h ws s)

end Sys2Proof.Machine
end

