-- ==== Sys2Proof/Machine/Counter.lean ====
section
/-! DEFINITION. The performance counters (R396 to R409): the counter map, configuration and writing at a boundary, the
snapshot, dumps to host memory, and the user window. -/

namespace Sys2Proof.Machine

/-! ### The counter map (Table 13-9) -/

/-- The qualifiers of an event. -/
inductive Qual where
  | below (n : Nat) | target
deriving DecidableEq, Repr

/-- A qualifier is in range (R401). -/
def Qual.ok : Qual → Nat → Bool
  | .below n, q => decide (q < n)
  | .target, q => decide (q < 8) || (decide (16 ≤ q) && decide (q < 20))

/-- An event of the counter map: its qualifiers and whether it is marked "value"; none when not listed. -/
def cntEvent (blk idx : Nat) : Option (Qual × Bool) :=
  match blk with
  | 0 => if idx = 0 then some (.below 6, false) else none
  | 1 => if idx ≤ 2 then some (.below 8, false) else none
  | 2 => if idx ≤ 2 then some (.below 32, false) else none
  | 3 => if idx ≤ 6 then some (.below 2, false) else if idx = 7 then some (.below 2, true)
         else if idx = 0x20 then some (.below 8192, false) else none
  | 4 => if idx ≤ 0xB then some (.below 8, false) else if 0x20 ≤ idx ∧ idx ≤ 0x22 then some (.below 8192, false)
         else if idx = 0x40 then some (.below 18, false) else none
  | 5 => if idx ≤ 0xA then some (.below 8192, false) else if idx = 0x20 ∨ idx = 0x21 then some (.below 2, false) else none
  | 6 => if idx ≤ 0xE then some (.below 8192, false) else if idx = 0x20 then some (.below 64, false)
         else if idx = 0x21 then some (.below 64, true) else if idx = 0x40 then some (.below 1, false) else none
  | 7 => if idx ≤ 7 then some (.target, false) else none
  | 8 => if idx ≤ 5 then some (.below 4, false) else if idx = 0x20 then some (.below 8, false) else none
  | 9 => if idx = 1 then some (.below 48, false) else if idx ≤ 5 then some (.below 1, false) else none
  | 10 => if idx = 0 then some (.below 17, false) else if idx ≤ 4 then some (.below 2, false) else none
  | 11 => if idx = 1 then some (.below 8, false) else if idx ≤ 2 then some (.below 512, false) else none
  | 12 => if idx ≤ 1 then some (.below 8, false) else if idx = 2 then some (.below 8, true)
          else if idx = 0x20 ∨ idx = 0x21 then some (.below 1, false)
          else if idx = 0x22 ∨ idx = 0x23 then some (.below 1, true) else none
  | 13 => if idx = 0 then some (.below 1, false) else none
  | _ => none

/-- A configuration word is valid for counter n (Table 13-8, R401, R409). -/
def cntWordOk (n : Nat) (w : Word) : Bool :=
  onlyBits w 0xF9FFFFFF && cntMode w != 3 && !(flag w 31 && n % 2 == 1) &&
  match cntEvent (fld w 11 8) (fld w 7 0) with
  | some (q, value) => (flag w 27 || q.ok (fld w 24 12)) && (value || cntMode w != 2)
  | none => false

/-! ### Configuration and writing at a boundary (R399) -/

/-- Counter n is the low half of a chain in force. -/
def cntIsLow (t : Table CntC) (n : Nat) : Bool := n % 2 == 0 && flag (t.get n).cfg 31 && cntMode (t.get n).cfg == 1

/-- A counter reconfigured: 0 unless KEEP, OVF cleared. -/
def CntC.recfg (c : CntC) (w : Word) : CntC := { cfg := w, val := if flag w 30 then c.val else 0, ovf := false, later := none }

/-- CNT_CFG takes effect (R399): a word for the high half of a chain in force waits; a word for its low half applies to both. -/
def cntCfgAt (n : Nat) (w : Word) (t : Table CntC) : Table CntC :=
  if cntIsHigh t n then t.upd n fun c => { c with later := some w }
  else if cntIsLow t n then
    let u := t.set n ((t.get n).recfg w)
    let h := t.get (n + 1)
    if cntIsLow u n then u.set (n + 1) { h with val := if flag w 30 then h.val else 0, ovf := false }
    else match h.later with
      | some v => u.set (n + 1) (h.recfg v)
      | none => u.set (n + 1) { h with val := if flag w 30 then h.val else 0, ovf := false }
  else t.set n ((t.get n).recfg w)

/-- CNT_WRITE takes effect (R399): the value, and OVF cleared in the counter or in both halves of its chain. -/
def cntWriteAt (n v : Nat) (t : Table CntC) : Table CntC :=
  let u := t.upd n fun c => { c with val := v % 2 ^ 48, ovf := false }
  if cntIsLow t n then u.upd (n + 1) fun c => { c with ovf := false }
  else if cntIsHigh t n then u.upd (n - 1) fun c => { c with ovf := false }
  else u

/-! ### The snapshot and the dumps (R397, R402 to R405) -/

/-- Step 1 of a boundary (R28, R397): the values at the end of the tick that ended, with the number and time of the new one. -/
def cntSnapshot (s : State) : State :=
  { s with cnt := { s.cnt with snap := s.cnt.cnt, snapTick := s.tick.num, snapTod := s.tick.tod } }

/-- The effective mode of a counter: the high half of a chain counts as its low half does. -/
def cntModeOf (t : Table CntC) (n : Nat) : Nat := if cntIsHigh t n then 1 else cntMode (t.get n).cfg

/-- CNT_n_HI (Table 13-11). -/
def cntHi (t : Table CntC) (n : Nat) : Word :=
  let c := t.get n
  mkWord (bitAt (cntModeOf t n != 0) 31 + bitAt (cntIsHigh t n) 18 + bitAt (cntModeOf t n == 2) 17 + bitAt c.ovf 16 + c.val / 2 ^ 32 % 2 ^ 16)

/-- CNT_n_LO. -/
def cntLo (t : Table CntC) (n : Nat) : Word := mkWord (t.get n).val

/-- A dump entry (R403): value, OVF, peak mode, high half, MODE not off. -/
def dumpEntry (t : Table CntC) (n : Nat) : List Word :=
  let c := t.get n
  lohi (c.val % 2 ^ 48 + bitAt c.ovf 48 + bitAt (cntModeOf t n == 2) 49 + bitAt (cntIsHigh t n) 50 + bitAt (cntModeOf t n != 0) 63)

/-- EN of CNT_DUMP_CFG. -/
def CntS.dumpEn (c : CntS) : Bool := flag (wd c.dumpCfg 0) 31
/-- NBUF. -/
def CntS.nbuf (c : CntS) : Nat := fld (wd c.dumpCfg 0) 23 16
/-- PERIOD. -/
def CntS.period (c : CntS) : Nat := fld (wd c.dumpCfg 1) 23 0
/-- FIRST. -/
def CntS.first (c : CntS) : Nat := fld (wd c.dumpCfg 2) 11 0
/-- COUNT. -/
def CntS.count (c : CntS) : Nat := fld (wd c.dumpCfg 2) 28 16

/-- A dump of the present snapshot with SEQ and FLAGS still at 0 (Table 13-10). -/
def dumpWords (c : CntS) : List Word :=
  [0x4443574B, 0] ++ lohi c.snapTick ++
  [mkWord (c.snapTod / secUnits), mkWord (c.snapTod / secUnits / 2 ^ 32 % 2 ^ 16), mkWord (c.snapTod % secUnits / nsUnits),
   mkWord (c.first + 2 ^ 16 * c.count), mkWord c.skipped, 0, 0, 0, 0, 0, 0, 0] ++
  (List.range c.count).flatMap fun i => dumpEntry c.snap (c.first + i)

/-- Step 5 of a boundary (R403, R404): a due dump starts, or is skipped. -/
def dumpTick (s : State) : State :=
  let c := s.cnt
  if c.dumpEn && (c.dump == .idle || c.dump == .writing) && s.tick.num % max c.period 1 == 0 then
    if c.buf.isSome || c.nbuf ≤ (c.seq + 2 ^ 32 - c.head) % 2 ^ 32 then
      State.signal (State.count { s with cnt := { c with skipped := c.skipped + 1 } } 13 0 0 1) 296
    else { s with cnt := { c with buf := some (dumpWords c), carried := false, dump := .writing, skipped := 0 } }
  else s

/-- DUMP_WRITE_DONE (R403): the header's SEQ is written last and the dump takes its number. -/
def execDumpWriteDone (s : State) : Res :=
  match s.cnt.buf with
  | some ws =>
    if s.up then
      let out := (ws.set 1 (mkWord s.cnt.seq)).set 9 (mkWord (bitAt s.cnt.carried 0))
      .next (State.emit { s with cnt := { s.cnt with buf := none, dump := .idle, seq := (s.cnt.seq + 1) % 2 ^ 32 } }
        (.dump s.cnt.seq s.cnt.carried out))
    else .next s
  | none => .next s

/-- DUMP_DMA_ERROR (R405). -/
def execDumpDmaError (s : State) : Res :=
  if s.up && s.cnt.buf.isSome then
    .next (State.signal { s with cnt := { s.cnt with buf := none, dump := .stopped, dumpCfg := s.cnt.dumpCfg.set 0 (wd s.cnt.dumpCfg 0 &&& 0x7FFFFFFF) } } 297)
  else .next s

/-- CNT_DUMP_HEAD_WRITE (R404): dumps that the host has read. -/
def execCntDumpHeadWrite (val : Word) (s : State) : Res :=
  if s.up then .next { s with cnt := { s.cnt with head := val.toNat } } else .next s

/-- Dumping stops with EN at 0 (R374, R405, R410). -/
def dumpStop (s : State) : State :=
  { s with cnt := { s.cnt with dumpCfg := s.cnt.dumpCfg.set 0 (wd s.cnt.dumpCfg 0 &&& 0x7FFFFFFF), buf := none, carried := false, dump := .off } }

/-! ### Commands (R409) -/

/-- The range of CNT_CFG, CNT_WRITE and CNT_READ. -/
def cntRange (w : Word) (most : Nat) : Bool :=
  onlyBits w 0x1FFF0FFF && decide (1 ≤ fld w 28 16) && decide (fld w 28 16 ≤ most) && decide (fld w 11 0 + fld w 28 16 ≤ 4096)

/-- The counters of a range. -/
def cntSpan (w : Word) : List Nat := (List.range (fld w 28 16)).map (fld w 11 0 + ·)

/-- CNT_CFG. -/
def cmdCntCfg (_ : CmdHdr) (ws : List Word) (s : State) : CmdRes :=
  let w := wd ws 0
  let f := fld w 11 0
  need (cntRange w 1015) .badArg 0 <| needLen ws (1 + fld w 28 16) <|
  match (cntSpan w).find? fun n => !cntWordOk n (wd ws (1 + n - f)) with
  | some n => .fail .badArg (4 * (1 + n - f))
  | none =>
    need (!(cntSpan w).any fun n => s.isStaged .cnt n) .busy 0 <|
    .done (s.each (cntSpan w) fun s n => s.stage .cnt n 0 [wd ws (1 + n - f)]) []

/-- CNT_WRITE. -/
def cmdCntWrite (_ : CmdHdr) (ws : List Word) (s : State) : CmdRes :=
  let w := wd ws 0
  let f := fld w 11 0
  need (cntRange w 507) .badArg 0 <| needLen ws (1 + 2 * fld w 28 16) <|
  match (cntSpan w).find? fun n => !onlyBits (wd ws (2 + 2 * (n - f))) 0xFFFF with
  | some n => .fail .badArg (4 * (2 + 2 * (n - f)))
  | none =>
    need (!(cntSpan w).any fun n => s.isStaged .cnt n) .busy 0 <|
    .done (s.each (cntSpan w) fun s n => s.stage .cnt n 1 [wd ws (1 + 2 * (n - f)), wd ws (2 + 2 * (n - f))]) []

/-- CNT_READ: the snapshot's tick number, then the two words of each counter. -/
def cmdCntRead (_ : CmdHdr) (ws : List Word) (s : State) : CmdRes :=
  let w := wd ws 0
  needLen ws 1 <| need (cntRange w 500) .badArg 0 <|
  .done s (lohi s.cnt.snapTick ++ (cntSpan w).flatMap fun n => [cntLo s.cnt.snap n, cntHi s.cnt.snap n])

/-- CNT_DUMP_CFG (R402). -/
def cmdCntDumpCfg (_ : CmdHdr) (ws : List Word) (s : State) : CmdRes :=
  let c : CntS := { dumpCfg := ws }
  needLen ws 5 <| need (onlyBits (wd ws 0) 0x80FF0000 && decide (2 ≤ c.nbuf)) .badArg 0 <|
  need (onlyBits (wd ws 1) 0x00FFFFFF && decide (16 ≤ c.period)) .badArg 1 <|
  need (onlyBits (wd ws 2) 0x1FFF0FFF && decide (1 ≤ c.count) && decide (c.count ≤ 4096) && decide (c.first + c.count ≤ 4096)) .badArg 2 <|
  need (fld (wd ws 3) 11 0 == 0) .badArg 3 <| stageOne s .dumpCfg 0 0 ws

/-- CNT_UWIN (R406). -/
def cmdCntUwin (_ : CmdHdr) (ws : List Word) (s : State) : CmdRes :=
  let w := wd ws 0
  need (onlyBits w 0x8001FFFF && decide (1 ≤ fld w 16 8) && decide (fld w 7 0 + fld w 16 8 ≤ 256)) .badArg 0 <|
  needLen ws (1 + fld w 16 8) <|
  match (List.range (fld w 16 8)).find? fun i => !onlyBits (wd ws (1 + i)) 0x80000FFF with
  | some i => .fail .badArg (4 * (1 + i))
  | none => stageOne s .uwin 0 0 ws

/-- The user window takes its words (R406, R407). -/
def applyUwin (ws : List Word) (s : State) : State :=
  let w := wd ws 0
  let t := (List.range (fld w 16 8)).foldl (fun t i =>
    t.set (fld w 7 0 + i) (if flag (wd ws (1 + i)) 31 then some (fld (wd ws (1 + i)) 11 0) else none)) s.cnt.uw
  State.raiseVec { s with cnt := { s.cnt with uwEn := flag w 31, uw := t } } true 0

/-- A staged counter item takes effect in step 2 of the boundary (R399, R402, R406). -/
def applyCnt (g : Staged) (s : State) : State :=
  match g.item with
  | .cnt =>
    let t := if g.op = 0 then cntCfgAt g.idx (wd g.ws 0) s.cnt.cnt else cntWriteAt g.idx (ofLohi (wd g.ws 0) (wd g.ws 1)) s.cnt.cnt
    { s with cnt := { s.cnt with cnt := t } }
  | .dumpCfg =>
    { s with cnt := { s.cnt with dumpCfg := g.ws, seq := 0, head := 0, skipped := 0, buf := none, carried := false
                                 dump := if flag (wd g.ws 0) 31 then .idle else .off } }
  | .uwin => applyUwin g.ws s
  | _ => s

/-- Command 0x0A01 (CNT_CFG). -/
def execCntCfg (h : CmdHdr) (ws : List Word) (s : State) : Res := .next (runCmd 0x0A01 cmdCntCfg h ws s)
/-- Command 0x0A02 (CNT_WRITE). -/
def execCntWrite (h : CmdHdr) (ws : List Word) (s : State) : Res := .next (runCmd 0x0A02 cmdCntWrite h ws s)
/-- Command 0x0A03 (CNT_READ). -/
def execCntRead (h : CmdHdr) (ws : List Word) (s : State) : Res := .next (runCmd 0x0A03 cmdCntRead h ws s)
/-- Command 0x0A04 (CNT_DUMP_CFG). -/
def execCntDumpCfg (h : CmdHdr) (ws : List Word) (s : State) : Res := .next (runCmd 0x0A04 cmdCntDumpCfg h ws s)
/-- Command 0x0A05 (CNT_UWIN). -/
def execCntUwin (h : CmdHdr) (ws : List Word) (s : State) : Res := .next (runCmd 0x0A05 cmdCntUwin h ws s)

end Sys2Proof.Machine
end

