-- ==== Sys2Proof/Machine/Ring.lean ====
section
/-! DEFINITION. Chapter 12 around the commands: the ring pairs and their engine, replies, the result store, restarts of the
control processor, resets of the PCIe side, messages over the chain, and the event log. -/

namespace Sys2Proof.Machine

/-! ### Packets (R347, R353) -/

/-- Slots of a ring of a size code. -/
def slotsOf (size : Nat) : Nat := 2 ^ (6 + size)

/-- Slots that a command with `len` parameter bytes occupies. -/
def cmdSlots (len : Nat) : Nat := (32 + len + 63) / 64

/-- Slots that a reply occupies. -/
def replySlots (r : Reply) : Nat := (16 + 4 * r.data.length + 63) / 64

/-- The four words of a reply header (Table 12-5), with its PHASE. -/
def replyHdr (phase : Bool) (r : Reply) : List Word :=
  [mkWord (bitAt phase 31 + bitAt r.repeated 30 + bitAt r.accepted 29 + bitAt r.fwd 28 + r.srcDev % 4 * 2 ^ 24 + r.status.code * 2 ^ 16 + r.opcode % 2 ^ 16),
   mkWord (4 * r.data.length % 2 ^ 12 * 2 ^ 16 + r.tag.toNat), mkWord r.tick, mkWord (r.detail % 2 ^ 16 * 2 ^ 16 + r.arg % 2 ^ 16)]

/-- The status of a code of Table 12-6. -/
def statusOf (n : Nat) : Status :=
  match n with
  | 0 => .ok | 1 => .busy | 2 => .badArg | 3 => .notReady | 4 => .denied | 5 => .noResource | 6 => .timeout | 7 => .unsupported
  | _ => .faulted

/-! ### Boot state (R346, Table 12-13) -/

/-- STATE of GLOBAL_BOOT_STAT. -/
def BootState.code : BootState → Nat
  | .rom => 0 | .load => 1 | .waitPcie => 2 | .runNoCfg => 3 | .run => 4 | .restart => 5

/-- STATE changes: vector 21 (Table 12-2). -/
def toBoot (x : BootState) (s : State) : State :=
  if s.cmd.boot = x then s else State.raiseVec { s with cmd := { s.cmd with boot := x } } false 21

/-- ERR takes the last failure; FS276 when it becomes nonzero (Table 13-1). -/
def bootErr (code : Nat) (s : State) : State :=
  if code = 0 then s
  else State.when { s with cmd := { s.cmd with err := code } } (s.cmd.err == 0) fun s => s.signal 276

/-- GLOBAL_BOOT_STAT (Table 12-13). -/
def bootStat (c : CmdS) : Word :=
  mkWord (c.restarts % 256 * 2 ^ 24 + c.err % 256 * 2 ^ 16 + c.cfgSrc % 4 * 2 ^ 10 + c.slot % 4 * 2 ^ 8 + bitAt c.bootSel 7 + c.boot.code)

/-- Firmware writes a boot entry into the log (Table 12-15). -/
def bootLog (code : Nat) (s : State) : State := s.log { cls := 5, fw := true, code := code, data := [bootStat s.cmd, 0, 0] }

/-! ### Ring pairs (R347 to R352) -/

/-- SQ size in slots. -/
def RingS.sq (k : RingS) : Nat := slotsOf k.sqSize
/-- CQ size in slots. -/
def RingS.cq (k : RingS) : Nat := slotsOf k.cqSize
/-- SQ slots that hold commands. -/
def RingS.sqUsed (k : RingS) : Nat := (k.sqTail + k.sq - k.sqHead) % k.sq
/-- The CQ has room for n more slots (R349). -/
def RingS.room (k : RingS) (n : Nat) : Bool := decide (k.cqUsed + n ≤ k.cq)

/-- A ring halts (R352): its vector whatever IRQ_EN, and FS272. -/
def ringHalt (r cause : Nat) (s : State) : State :=
  ((s.onRing r fun k => { k with st := .halted, halt := cause }).raiseVec false r).signal 272

/-- A reply is written into the CQ (R349, R350). -/
def postReply (r : Nat) (rep : Reply) (s : State) : State :=
  let k := s.ring r
  let n := replySlots rep
  let s := s.onRing r fun k =>
    { k with cqTail := (k.cqTail + n) % k.cq, pass := k.pass + (k.cqTail + n) / k.cq, cqUsed := k.cqUsed + n, flight := none, noFw := false, age := 0 }
  (s.emit (.reply r k.cqTail (k.pass % 2 == 0) rep)).when k.irqEn fun s => s.raiseVec false r

/-- A write of CMD_RING_CTL (R348). -/
def ringCtl (r : Nat) (val : Word) (s : State) : State :=
  let k := s.ring r
  if 10 < fld val 3 0 ∨ 10 < fld val 11 8 then s
  else if flag val 31 then
    if k.en then s.onRing r fun k => { k with irqEn := flag val 30 }
    else if k.st = .drain then s
    else s.onRing r fun k =>
      { k with en := true, irqEn := flag val 30, sqSize := fld val 3 0, cqSize := fld val 11 8, sqTail := 0, sqHead := 0, cqHead := 0
               cqTail := 0, pass := 0, cqUsed := 0, st := .run, halt := 0, age := 0 }
  else if k.en then s.onRing r fun k =>
    { k with en := false, irqEn := flag val 30, st := if k.st = .halted ∧ k.flight.isNone then .off else .drain, halt := 0 }
  else s.onRing r fun k => { k with irqEn := flag val 30, sqSize := fld val 3 0, cqSize := fld val 11 8 }

/-- RING_ENABLE (R348). -/
def execRingEnable (r : Fin 16) (val : Word) (s : State) : Res :=
  if s.live && flag val 31 then .next (ringCtl r val s) else .next s

/-- RING_DISABLE (R348). -/
def execRingDisable (r : Fin 16) (val : Word) (s : State) : Res :=
  if s.live && !flag val 31 then .next (ringCtl r val s) else .next s

/-- SQ_TAIL_DOORBELL (R10, R347, R352): the register takes the value written; a value outside the ring halts it. -/
def execSqTailDoorbell (r : Fin 16) (val : Word) (s : State) : Res :=
  let k := s.ring r
  let v := fld val 15 0
  if !s.live then .next s
  else
    let s := s.onRing r fun k => { k with sqTail := v }
    if k.en && k.st == .run && decide (k.sq ≤ v) then .next (ringHalt r 2 s) else .next s

/-- CQ_HEAD_DOORBELL (R10, R347, R352): the register takes the value written; inside the ring and within the slots in use it
releases (new - old) mod C of them, and any other value halts a ring in RUN. -/
def execCqHeadDoorbell (r : Fin 16) (val : Word) (s : State) : Res :=
  let k := s.ring r
  let v := fld val 15 0
  let n := (v + k.cq - k.cqHead) % k.cq
  if !s.live then .next s
  else if k.cq ≤ v ∨ k.cqUsed < n then
    let s := s.onRing r fun k => { k with cqHead := v }
    if k.en && k.st == .run then .next (ringHalt r 2 s) else .next s
  else .next (s.onRing r fun k => { k with cqHead := v, cqUsed := k.cqUsed - n })

/-- RING_DRAIN_DONE (R348). -/
def execRingDrainDone (r : Fin 16) (s : State) : Res :=
  if s.live && (s.ring r).st == .drain && (s.ring r).flight.isNone then .next (s.onRing r fun k => { k with st := .off })
  else .next s

/-! ### Messages over the chain (R47, R363 to R367) -/

/-- The link on which a message to a device leaves: the shorter way, link A at equal length, the other way when it is down (R47). -/
def routeTo (s : State) (dst : Nat) : Bool :=
  let n := max s.cmd.devs 1
  let b := decide ((s.cmd.id + n - dst % n) % n < (dst + n - s.cmd.id % n) % n)
  if (s.link b).st != .up && (s.link !b).st == .up then !b else b

/-- The words of a message from fragment i on (Table 12-10). -/
def msgWords (src dst msg : Nat) (reply : Bool) : Nat → Nat → List Byte → List ChainWord
  | 0, _, _ => []
  | n + 1, i, bs =>
    let d := (bs ++ List.replicate 10 0).take 10
    chainWord 4 src dst 1 (msg % 2 ^ 16 * 2 ^ 96 + i * 2 ^ 84 + bitAt (n == 0) 83 + bitAt reply 82 + beNat d) ::
      msgWords src dst msg reply n (i + 1) (bs.drop 10)

/-- A message leaves on the chain (R364). -/
def sendMsg (dst msg : Nat) (reply : Bool) (bs : List Byte) (s : State) : State :=
  let b := routeTo s dst
  if (s.link b).st = .up then s.each (msgWords s.cmd.id dst msg reply ((bs.length + 9) / 10) 0 bs) fun s w => linkQueue b w s else s

/-- A reply to a device that forwarded a command here (R363, R366). -/
def sendReply (dst msg : Nat) (r : Reply) (s : State) : State :=
  sendMsg dst msg true (bytesOf (replyHdr false r ++ r.data)) s

/-- CMD_TIMEOUT (R357): 10 ms after the fetch the ring engine posts TIMEOUT; a reply that firmware still makes is late. The remote
queue is served the same way (R366), its TIMEOUT going to the device that asked. -/
def execCmdTimeout (r : Fin 17) (s : State) : Res :=
  let k := s.ring r
  match k.flight with
  | some rep =>
    if !s.live || !(1250 ≤ k.age || !s.tick.running) then .next s
    else
      let t : Reply := { opcode := rep.opcode, tag := rep.tag, status := .timeout, srcDev := s.cmd.id, tick := s.tick32 }
      let late := fun (s : State) => s.onRing r fun q => { q with late := if k.noFw then q.late else q.late + 1 }
      if r.val = 16 then
        let s := late (s.onRing 16 fun k => { k with flight := none, noFw := false, age := 0 })
        match s.cmd.remote with
        | c :: cs => .next (State.signal (sendReply c.src c.msg { t with fwd := true } { s with cmd := { s.cmd with remote := cs } }) 273)
        | [] => .next s
      else if k.room 1 then .next ((late (postReply r t s)).signal 273)
      else .next s
  | none => .next s

/-- FW_REPLY (R349, R357, R363): the reply of the command in flight; a late one is discarded and counted. -/
def execFwReply (r : Fin 17) (dmaErr : Bool) (s : State) : Res :=
  let k := s.ring r
  if !s.fwRuns then .next s
  else if 0 < k.late then .next ((s.onRing r fun k => { k with late := k.late - 1 }).count 10 0 r 1)
  else match k.flight with
    | none => .next s
    | some rep =>
      if k.noFw || rep.cap.isSome then .next s
      else if r.val = 16 then
        match s.cmd.remote with
        | c :: cs =>
          let s := s.onRing 16 fun k => { k with flight := none }
          .next (sendReply c.src c.msg { rep with fwd := true } { s with cmd := { s.cmd with remote := cs } })
        | [] => .next (s.onRing 16 fun k => { k with flight := none })
      else if dmaErr then .next (ringHalt r 3 (s.onRing r fun k => { k with flight := none }))
      else if k.room (replySlots rep) then .next (postReply r rep s)
      else .next s

/-! ### The result store (R359 to R361) -/

/-- An entry finishes (R360): its final reply is kept and vector 16 raised. -/
def finishEnt (p : ResEnt → Bool) (f : Reply → Reply) (s : State) : State :=
  if s.cmd.store.any p then
    State.raiseVec { s with cmd := { s.cmd with store := s.cmd.store.map fun e => if p e then { e with final := f e.final, done := true } else e } } false 16
  else s

/-- Entries finished and entries held (CMD_RES_STAT). -/
def resReady (c : CmdS) : Nat := c.store.countP (·.done)

/-- The entry that RING and TAG name. -/
def findEnt (s : State) (w : Word) : Option ResEnt := s.cmd.store.find? fun e => e.ring == fld w 19 16 && e.tag.toNat == fld w 15 0

/-- SYS_RESULT_GET (R361). -/
def cmdSysResultGet (_ : CmdHdr) (ws : List Word) (s : State) : CmdRes :=
  let w := wd ws 0
  needLen ws 1 <| need (onlyBits w 0xFFFFF) .badArg 0 <|
  match findEnt s w with
  | none => .fail .badArg 0
  | some e =>
    if e.done then
      .full { s with cmd := { s.cmd with store := s.cmd.store.map fun x => if x == e then { x with given := true } else x } }
        e.final.status e.given (replyHdr false e.final ++ e.final.data)
    else .full s .notReady false [mkWord (fld w 15 0)]

/-- SYS_RESULT_RELEASE (R361). -/
def cmdSysResultRelease (_ : CmdHdr) (ws : List Word) (s : State) : CmdRes :=
  let w := wd ws 0
  needLen ws 1 <| need (onlyBits w 0xFFFFF) .badArg 0 <|
  match findEnt s w with
  | none => .fail .badArg 0
  | some e => need e.done .busy 0 <| .done { s with cmd := { s.cmd with store := s.cmd.store.filter (· != e) } } []

/-- FWD_REPLY_TIMEOUT (R367). -/
def execFwdReplyTimeout (msg : BitVec 16) (s : State) : Res :=
  if s.live && s.cmd.fwdOut.any fun m => m.1 == msg.toNat && decide (1250 ≤ m.2) then
    let s := { s with cmd := { s.cmd with fwdOut := s.cmd.fwdOut.filter fun m => m.1 != msg.toNat } }
    .next (finishEnt (fun e => e.kind == .forward msg.toNat && !e.done) (fun r => { r with status := .timeout }) s)
  else .next s

/-- FWD_FRAGMENT_TIMEOUT (R366): a message whose next fragment is 1 ms late is discarded and counted. -/
def execFwdFragmentTimeout (src : Fin 4) (msg : BitVec 16) (reply : Bool) (s : State) : Res :=
  match s.cmd.fwdIn.find? fun m => m.src == src.val && m.msg == msg.toNat && m.reply == reply && decide (125 ≤ m.age) with
  | some m =>
    if s.live then .next (State.count { s with cmd := { s.cmd with fwdIn := s.cmd.fwdIn.filter (· != m) } } 10 3 (if m.linkB then 1 else 0) 1)
    else .next s
  | none => .next s

/-- The reply whose bytes a CMD message carried (Table 12-5), as the final reply of the forwarded command. -/
def replyOf (bs : List Byte) (r : Reply) : Reply :=
  let ws := wordsOf bs
  let w := wd ws 0
  { r with status := statusOf (fld w 23 16), accepted := flag w 29, fwd := true, srcDev := fld w 25 24, tick := (wd ws 2).toNat
           detail := fld (wd ws 3) 31 16, arg := fld (wd ws 3) 15 0, data := (ws.drop 4).take (fld (wd ws 1) 27 16 / 4) }

/-- A message is complete (R366, R367). -/
def takeMsg (m : FwdMsg) (s : State) : State :=
  if m.reply then
    if s.cmd.fwdOut.any fun o => o.1 == m.msg then
      finishEnt (fun e => e.kind == .forward m.msg && !e.done) (replyOf m.bytes)
        { s with cmd := { s.cmd with fwdOut := s.cmd.fwdOut.filter fun o => o.1 != m.msg } }
    else s.count 10 2 (if m.linkB then 1 else 0) 1
  else if 4 ≤ s.cmd.remote.length then
    let ws := wordsOf m.bytes
    sendReply m.src m.msg { opcode := fld (wd ws 0) 15 0, tag := (wd ws 0).extractLsb' 16 16, status := .noResource, srcDev := s.cmd.id, fwd := true, tick := s.tick32 } s
  else { s with cmd := { s.cmd with remote := s.cmd.remote ++ [{ src := m.src, msg := m.msg, linkB := m.linkB, bytes := m.bytes }] } }

/-- A fragment for this device (R366): fragment 0 begins a message, each later one must be the next. -/
def takeFrag (src msg frag : Nat) (last reply b : Bool) (d : List Byte) (s : State) : State :=
  let mine := fun (m : FwdMsg) => m.src == src && m.msg == msg && m.reply == reply
  let old := s.cmd.fwdIn.find? mine
  let others := s.cmd.fwdIn.filter fun m => !mine m
  let put := fun (m : FwdMsg) =>
    let s := { s with cmd := { s.cmd with fwdIn := if last then others else others ++ [m] } }
    if last then takeMsg m s else s
  if frag = 0 then put { src := src, msg := msg, reply := reply, next := 1, bytes := d, linkB := b }
  else match old with
    | some m => if m.next = frag then put { m with next := frag + 1, bytes := m.bytes ++ d, age := 0 } else s
    | none => s

/-- CHAIN_CMD_WORD_RX (R365, R366). -/
def execChainCmdWordRx (b : Bool) (w : ChainWord) (s : State) : Res :=
  let n := w.toNat
  let hop := bitsOf n 115 114
  if s.up && s.chained && (s.link b).st == .up && chainType w == some 4 then
    if bitsOf n 117 116 = s.cmd.id then
      .next (takeFrag (bitsOf n 119 118) (bitsOf n 111 96) (bitsOf n 95 84) (n.testBit 83) (n.testBit 82) b (beBytes 10 (bitsOf n 79 0)) s)
    else if hop = 3 then .next (s.count 10 1 (if b then 1 else 0) 1)
    else .next (s.when ((s.link !b).st == .up) <| linkQueue (!b) (chainWord 4 (bitsOf n 119 118) (bitsOf n 117 116) (hop + 1) (bitsOf n 111 0)))
  else if s.up && linkUp s b && ((chainType w).any fun t => 5 ≤ t) then .next (s.count 10 4 (if b then 1 else 0) 1)
  else .next s

/-! ### The flash table's header (R371, Table 12-12) -/

/-- LEN of a boot configuration table in bytes: units of 4, 0 for 65,536. -/
def tableLen (bs : List Byte) : Nat := let n := leNat ((bs.drop 6).take 2); if n = 0 then 65536 else 4 * n

/-- MAGIC, VER and a LEN that holds the fixed part. -/
def tableHdrOk (bs : List Byte) : Bool :=
  leNat (bs.take 4) == 0x5443574B && leNat ((bs.drop 4).take 2) == 1 && decide (128 ≤ tableLen bs) && decide (tableLen bs ≤ bs.length)

/-- The CRC over bytes 32 to LEN - 1. -/
def tableCrcOk (bs : List Byte) : Bool := leNat ((bs.drop 8).take 4) == crc32 ((bs.drop 32).take (tableLen bs - 32))

/-- SPARE_CNT of the system word. -/
def tableSpareCnt (bs : List Byte) : Nat := leNat ((bs.drop 34).take 2)

/-- The spare records of a table, as 64-bit numbers. -/
def tableSpareNums (bs : List Byte) : List Nat :=
  (List.range (tableSpareCnt bs)).map fun i => leNat ((bs.drop (128 + 8 * i)).take 8)

/-! ### Restarts and PCIe resets (R374, R375) -/

/-- The command in flight on a ring is answered FAULTED (R375). -/
def answerFaulted (r : Nat) (s : State) : State :=
  match (s.ring r).flight with
  | some rep => postReply r { opcode := rep.opcode, tag := rep.tag, status := .faulted, srcDev := s.cmd.id, tick := s.tick32 } s
  | none => s

/-- A ring at a restart of the control processor: its command is answered, and an enabled ring halts (R352, R375). -/
def restartRing (r : Nat) (s : State) : State :=
  let s := answerFaulted r s
  if (s.ring r).en then ringHalt r 4 s else s

/-- The control processor restarts (R375). In ROM, LOAD and WAIT_PCIE no firmware runs and nothing happens. -/
def cpRestart (s : State) : State :=
  if s.cmd.boot = .rom ∨ s.cmd.boot = .load ∨ s.cmd.boot = .waitPcie then s
  else
    let s := s.each (List.range 16) fun s r => restartRing r s
    let s := s.onRing 16 fun _ => {}
    let s := s.each (List.range 17) fun s r => s.onRing r fun k => { k with late := 0 }
    let s := { s with cmd := { s.cmd with store := [], remote := [], fwdOut := [], fwdIn := [], acceptDue := false, table := []
                                          restarts := min 255 (s.cmd.restarts + 1) }
                      flt := { s.flt with wdLeft := none } }
    (toBoot .restart s).signal 274

/-- CP_RESTART (R375): a bus error on a poisoned read of the control processor's memory. -/
def execCpRestart (s : State) : Res := if s.live then .next (cpRestart s) else .next s

/-- CP_RESTART_DONE (R375, R389): firmware runs again; the first watchdog period is doubled. Without an accepted table STATE is
RUN_NOCFG and a valid flash table is taken as at the start (R371). -/
def execCpRestartDone (s : State) : Res :=
  if s.live && s.cmd.boot == .restart then
    let t := s.cmd.flashTable
    let due := !s.cmd.accepted && !s.cmd.bootSel && tableHdrOk t && tableCrcOk t
    let s := toBoot (if s.cmd.accepted then .run else .runNoCfg) { s with cmd := { s.cmd with acceptDue := due, fromHost := false } }
    .next (bootLog 3 { s with flt := { s.flt with wdLeft := some (2 * 125 * s.flt.wd) } })
  else .next s

/-- The command interface and counter dumping stop (R374). The remote queue belongs to no host memory and goes on. -/
def hostSideReset (s : State) : State :=
  dumpStop { s with cmd := { s.cmd with ring := (Table.const {}).set 16 (s.ring 16), store := [], fwdOut := [] } }

/-- Both functions of the endpoint reset: masks, pending bits, and the snapshots each holds (DESIGN CHOICE, log entry 51: R12 says
"from reset"; a reset of a function empties that function's snapshots). -/
def endpointReset (s : State) : State :=
  { s with pci := { s.pci with mask0 := BitVec.allOnes 32, mask1 := 3, pend0 := 0, pend1 := 0, snap0 := .const none, snap1 := .const none } }

/-- PERST (R374). -/
def execPerst (s : State) : Res :=
  if s.live then .next (hostSideReset (endpointReset s)) else .next s

/-- PCIE_HOT_RESET (R374). -/
def execPcieHotReset (s : State) : Res :=
  if s.live then .next (hostSideReset (endpointReset s)) else .next s

/-- FLR_PF0 (R374). -/
def execFlrPf0 (s : State) : Res :=
  if s.live then .next (hostSideReset { s with pci := { s.pci with mask0 := BitVec.allOnes 32, pend0 := 0, snap0 := .const none } }) else .next s

/-- FLR_PF1 (R374): PF1 alone. -/
def execFlrPf1 (s : State) : Res :=
  if s.live then .next { s with pci := { s.pci with mask1 := 3, pend1 := 0, snap1 := .const none } } else .next s

/-- PCIE_LINK_DOWN (R383): M4 KIND 0x01. -/
def execPcieLinkDown (s : State) : Res :=
  if s.live && s.pci.link then .next (State.send (State.emit { s with pci := { s.pci with link := false } } .linkDown) 4 1 0 0) else .next s

/-- MSI_X_UNMASK (R346): a pending vector is raised. -/
def execMsiXUnmask (pf1 : Bool) (vec : Fin 32) (s : State) : Res :=
  if !s.live then .next s
  else if pf1 then
    if vec.val < 2 then
      let p := s.pci.pend1.getLsbD vec
      let s := { s with pci := { s.pci with mask1 := putBit s.pci.mask1 vec false, pend1 := putBit s.pci.pend1 vec false } }
      .next (s.when p fun s => s.emit (.irq true vec))
    else .next s
  else
    let p := s.pci.pend0.getLsbD vec
    let s := { s with pci := { s.pci with mask0 := putBit s.pci.mask0 vec false, pend0 := putBit s.pci.pend0 vec false } }
    .next (s.when p fun s => s.emit (.irq false vec))

/-! ### The event log (R376 to R378) -/

/-- LOG_ENTRY_WRITE (R376, R377): the oldest waiting entry takes the next SEQ. -/
def execLogEntryWrite (s : State) : Res :=
  match s.cmd.logQ with
  | e :: q =>
    if !s.live then .next s
    else
      let s := { s with cmd := { s.cmd with logQ := q } }
      let full := decide (4096 ≤ s.cmd.log.length)
      let lose := fun (s : State) => State.signal { s with cmd := { s.cmd with logLost := min (s.cmd.logLost + 1) 0xFFFFFFFF } } 275
      if full && flag s.cmd.logCfg 0 then .next (lose s)
      else
        let n := s.cmd.logSeq
        let e := { e with seq := n, carried := e.tick != s.tick.num }
        let old := if full then s.cmd.log.drop 1 else s.cmd.log
        let s := sramWrite 6 (logWord n) 4 { s with cmd := { s.cmd with log := old ++ [e], logSeq := (n + 1) % 2 ^ 32 } }
        let s := s.when full lose
        .next (s.when (decide (fld s.cmd.logCfg 7 4 ≤ e.cls)) fun s => s.raiseVec false 17)
  | [] => .next s

/-- LOG_OLDEST_SEQ. -/
def logOldest (c : CmdS) : Nat := match c.log with
  | e :: _ => e.seq
  | [] => c.logSeq

/-- Deliver entries until `n` are taken: the state after the protected reads, the entries, and the poisoned ones skipped. -/
def logTake (n : Nat) : List LogEnt → State × List LogEnt × Nat → State × List LogEnt × Nat
  | [], a => a
  | e :: es, (s, got, bad) =>
    if n ≤ got.length then (s, got, bad)
    else
      let r := sramUse 6 (logWord e.seq) 4 s
      let e' := (r.2.cmd.log.find? fun x => x.seq == e.seq).getD e
      logTake n es (r.2, if r.1 then got ++ [e'] else got, if r.1 then bad else bad + 1)

/-- LOG_READ (R378). -/
def cmdLogRead (_ : CmdHdr) (ws : List Word) (s : State) : CmdRes :=
  let first := (wd ws 0).toNat
  let n := fld (wd ws 1) 6 0
  needLen ws 2 <| need (onlyBits (wd ws 1) 0x7F && decide (1 ≤ n) && decide (n ≤ 126)) .badArg 1 <|
  let back := (s.cmd.logSeq + 2 ^ 32 - first) % 2 ^ 32
  if back = 0 ∨ 2 ^ 31 ≤ back then .done s [mkWord first, 0, 0, 0]
  else
    let held := s.cmd.log.length
    let r := logTake n (s.cmd.log.drop (held - back)) (s, [], 0)
    .done r.1 ([mkWord ((r.2.1.head?.map (·.seq)).getD first), mkWord r.2.1.length, mkWord (back - held), mkWord r.2.2] ++ r.2.1.flatMap logWords)

/-- LOG_CFG (R377): one item. -/
def cmdLogCfg (_ : CmdHdr) (ws : List Word) (s : State) : CmdRes :=
  needLen ws 1 <| need (onlyBits (wd ws 0) 0xF3) .badArg 0 <| stageOne s .logCfg 0 0 ws

/-- LOG_MARK (R376): a class 6 entry of the host. -/
def cmdLogMark (_ : CmdHdr) (ws : List Word) (s : State) : CmdRes :=
  needLen ws 4 <| need (onlyBits (wd ws 0) 0xFFFF) .badArg 0 <|
  .done (s.log { cls := 6, fw := true, code := fld (wd ws 0) 15 0, data := ws.drop 1 }) []

/-- LOG_CLEAR (R378). -/
def cmdLogClear (_ : CmdHdr) (ws : List Word) (s : State) : CmdRes :=
  needLen ws 0 <| .done { s with cmd := { s.cmd with log := [] } } []

/-- Command 0x0002 (SYS_RESULT_GET). -/
def execSysResultGet (h : CmdHdr) (ws : List Word) (s : State) : Res := .next (runCmd 0x0002 cmdSysResultGet h ws s)
/-- Command 0x0003 (SYS_RESULT_RELEASE). -/
def execSysResultRelease (h : CmdHdr) (ws : List Word) (s : State) : Res := .next (runCmd 0x0003 cmdSysResultRelease h ws s)
/-- Command 0x0980 (LOG_READ). -/
def execLogRead (h : CmdHdr) (ws : List Word) (s : State) : Res := .next (runCmd 0x0980 cmdLogRead h ws s)
/-- Command 0x0981 (LOG_CFG). -/
def execLogCfg (h : CmdHdr) (ws : List Word) (s : State) : Res := .next (runCmd 0x0981 cmdLogCfg h ws s)
/-- Command 0x0982 (LOG_MARK). -/
def execLogMark (h : CmdHdr) (ws : List Word) (s : State) : Res := .next (runCmd 0x0982 cmdLogMark h ws s)
/-- Command 0x0983 (LOG_CLEAR). -/
def execLogClear (h : CmdHdr) (ws : List Word) (s : State) : Res := .next (runCmd 0x0983 cmdLogClear h ws s)

/-- Ages of commands and messages at a boundary (R357, R366, R367). A forwarded command's bound runs from its last fragment sent. -/
def cmdTick (s : State) : State :=
  let s := s.each (List.range 17) fun s r => if (s.ring r).flight.isSome then s.onRing r fun k => { k with age := min (k.age + 1) 2047 } else s
  let waits := fun (m : Nat) => [false, true].any fun b => (s.link b).q.any fun w => bitsOf w.toNat 119 118 == s.cmd.id && bitsOf w.toNat 111 96 == m && !w.toNat.testBit 82
  { s with cmd := { s.cmd with fwdOut := s.cmd.fwdOut.map fun m => if waits m.1 then m else (m.1, min (m.2 + 1) 2047)
                               fwdIn := s.cmd.fwdIn.map fun m => { m with age := min (m.age + 1) 255 } } }

end Sys2Proof.Machine
end

