-- ==== Sys2Proof/Machine/Power.lean ====
section
/-! DEFINITION. Chapter 14, power: regulators on PMBus, AVS, the supervisor's use, the power states and their changes. -/

namespace Sys2Proof.Machine

/-- Rewrite power management. -/
def State.onPwr (s : State) (f : PwrS → PwrS) : State := { s with pwr := f s.pwr }

/-- STATE of PWR_STAT. -/
def PwrState.code : PwrState → Nat
  | .p0 => 0 | .p1 => 1 | .p2 => 2 | .p3 => 3
/-- The state of a code. -/
def pwrOf (n : Nat) : PwrState := match n with
  | 0 => .p0 | 1 => .p1 | 2 => .p2 | _ => .p3

/-! ### Regulators (R415 to R417) -/

/-- EN of a record (Table 14-3). -/
def RegS.en (r : RegS) : Bool := flag (wd r.cfg 0) 15
/-- AVS. -/
def RegS.isAvs (r : RegS) : Bool := flag (wd r.cfg 0) 29
/-- OFF_P3. -/
def RegS.offP3 (r : RegS) : Bool := flag (wd r.cfg 0) 28
/-- RAIL. -/
def RegS.rail (r : RegS) : Nat := fld (wd r.cfg 0) 26 24
/-- PAGE and ADDR as one number. -/
def RegS.place (r : RegS) : Nat := fld (wd r.cfg 0) 23 16 * 128 + fld (wd r.cfg 0) 14 8
/-- POLL in ticks. -/
def RegS.poll (r : RegS) : Nat := fld (wd r.cfg 1) 15 0
/-- The regulators in use. -/
def regsOn (s : State) : List Nat := (List.range 8).filter fun r => (s.pwr.reg.get r).en
/-- The regulator that receives the AVS target. -/
def avsReg (s : State) : Option Nat := (regsOn s).find? fun r => (s.pwr.reg.get r).isAvs

/-- Warning bits of STATUS_WORD, in the PMBus layout. -/
def warnBits : BitVec 16 := 0xF604
/-- Fault bits of STATUS_WORD, POWER_GOOD# (bit 11) among them. -/
def faultBits : BitVec 16 := 0x0838

/-- A STATUS_WORD read from REGr: REG_WARN and REG_FAULT (Table 14-15). -/
def takeStatus (r : Nat) (x : BitVec 16) (s : State) : State :=
  let s := s.onReg r fun g => { g with status := x }
  (s.when (x &&& warnBits != 0) fun s => s.pwrFault0 (2 * r)).when (x &&& faultBits != 0) fun s => s.pwrFault0 (2 * r + 1)

/-- POWER of PWR_IN in 10 mW: the sum of READ_VOUT x READ_IOUT. -/
def powerIn (s : State) : Nat := ((regsOn s).map fun r => (s.pwr.reg.get r).vout * (s.pwr.reg.get r).iout).sum / 1000

/-- PWR_LIMIT in 0.1 W. -/
def PwrS.limit (p : PwrS) : Nat := fld (wd p.policy 1) 15 0

/-- POWER_HIGH after a poll (Table 14-15). -/
def powerCheck (s : State) : State :=
  let p := powerIn s
  let s := s.count 12 0x23 0 p
  if 10 * s.pwr.limit < p then
    (s.onPwr fun q => { q with highPolls := min 2 (q.highPolls + 1) }).when (1 ≤ s.pwr.highPolls) fun s => s.pwrFault1 2
  else s.onPwr fun q => { q with highPolls := 0 }

/-- AVS_TRACK after a poll of the AVS regulator (R418). -/
def avsCheck (r : Nat) (s : State) : State :=
  if avsReg s = some r then
    let v := (s.pwr.reg.get r).vout
    let off := decide (20 < v - s.pwr.vcmd) || decide (20 < s.pwr.vcmd - v)
    if off then (s.onPwr fun q => { q with avsOff := min 31 (q.avsOff + 1) }).when (15 ≤ s.pwr.avsOff) fun s => s.pwrFault1 0
    else s.onPwr fun q => { q with avsOff := 0 }
  else s

/-- PMBUS_POLL (R417): up to three tries; the values read, or REG_FAULT when all three go unanswered. -/
def execPmbusPoll (r : Fin 8) (tries : List (Option RegPoll)) (s : State) : Res :=
  let g := s.pwr.reg.get r
  let t := tries.take 3
  let nacks := (t.takeWhile Option.isNone).length
  if s.live && g.en && (g.poll ≤ g.age || !s.tick.running) && !t.isEmpty then
    let s := s.onReg r fun g => { g with age := 0 }
    let s := s.when (0 < nacks) fun s => s.count 12 0 r nacks
    let again := min nacks (t.length - 1)
    let s := s.when (0 < again) fun s => s.count 12 1 r again
    match t.findSome? id with
    | some p =>
      let s := takeStatus r p.status (s.onReg r fun g => { g with vout := p.vout % 2 ^ 16, iout := p.iout % 2 ^ 16, temp := p.temp })
      .next (powerCheck (avsCheck r (s.count 12 2 r p.iout)))
    | none => .next (s.when (nacks == 3) fun s => s.pwrFault0 (2 * r + 1))
  else .next s

/-- PMB_ALERT (R417): every STATUS_WORD is read and FS264 raised. -/
def execPmbAlert (status : List (Fin 8 × BitVec 16)) (s : State) : Res :=
  if s.live then
    let s := (s.onPwr fun p => { p with alert := true }).pwrFault1 8
    .next (s.each (status.filter fun x => (s.pwr.reg.get x.1).en) fun s x => takeStatus x.1 x.2 s)
  else .next s

/-- PMBUS_STUCK (R417): 9 clocks and a STOP leave on the bus, and polling resumes. -/
def execPmbusStuck (s : State) : Res := if s.live then .next ((s.pwrFault1 5).emit .pmbusClear) else .next s

/-! ### AVS (R418) -/

/-- The raw target in uV, rounded up: V_FUSE + K_T x max(0, 85 degC - T) + MARGIN, T a sum of n results of 2^-12 degC. -/
def avsRaw (p : PwrS) (sum : Int) (n : Nat) : Int :=
  let d : Int := (4096 * n : Nat)
  let gap := max 0 (85 * d - sum)
  600000 + 5000 * p.vFuse + 5000 * p.margin + (250 * p.kT * gap + d - 1) / d

/-- The target in mV: clamped, and rounded up to a multiple of 5 mV (R418). -/
def avsTarget (raw : Int) : Nat := (((clamp 650000 850000 raw) + 4999) / 5000 * 5).toNat

/-- The hottest mean of the second: the channel with the largest sum over count. -/
def hottest (p : PwrS) : Option (Int × Nat) :=
  (List.range 5).foldl (fun best i =>
    let x := p.tSum.get i
    if x.2 = 0 then best
    else match best with
      | none => some x
      | some b => if b.1 * x.2 < x.1 * b.2 then some x else best) none

/-- AVS_UPDATE (R418, R419): once a second T_HOT and, with an AVS regulator, the target. Without supervisor results T_HOT counts as
-5 degC. -/
def execAvsUpdate (s : State) : Res :=
  if s.up && s.pwr.avsDue then
    let p := s.pwr
    let lost := p.supLost
    let hot := hottest p
    let t := if lost then some ((-20480 : Int), 1) else hot
    let s := s.onPwr fun p => { p with avsDue := false, tSum := .const (0, 0)
                                       tHot := if lost then none else match hot with
                                         | some x => some (roundDiv (10 * x.1) (4096 * x.2))
                                         | none => p.tHot }
    match t with
    | some x =>
      if (avsReg s).isSome && s.cmd.accepted then
        let raw := avsRaw p x.1 x.2
        .next ((s.onPwr fun p => { p with avs := avsTarget raw }).when (decide (850000 < raw) && !lost) fun s => s.pwrFault1 1)
      else .next s
    | none => .next s
  else .next s

/-- A VOUT_COMMAND value in LINEAR16: mV x 2^-exponent / 1000 (R418). -/
def linear16 (mv : Nat) (expo : Int) : Nat := (roundDiv (mv * (2 ^ (-expo).toNat : Nat)) 1000).toNat

/-- AVS_STEP (R418): one 5 mV step toward the target, at most one a ms. -/
def execAvsStep (s : State) : Res :=
  match avsReg s with
  | some r =>
    if s.live && s.cmd.accepted && s.pwr.vcmd != s.pwr.avs && (125 ≤ s.pwr.avsTicks || !s.tick.running) then
      let v := if s.pwr.vcmd < s.pwr.avs then min s.pwr.avs (s.pwr.vcmd + 5) else max s.pwr.avs (s.pwr.vcmd - 5)
      let s := (s.onPwr fun p => { p with vcmd := v, avsTicks := 0 }).count 12 0x20 0 1
      .next (s.emit (.pmbus r 0x21 (linear16 v (s.pwr.reg.get r).expo)))
    else .next s
  | none => .next s

/-! ### The supervisor's results (R419, R437) -/

/-- Nominal of MON37 + i in uV; VDD_CORE against the AVS target. -/
def railNominal (p : PwrS) (i : Nat) : Int :=
  match i with
  | 0 => 1000 * (p.avs : Int)
  | 1 => 900000 | 2 => 1200000 | 3 => 1100000 | 4 => 1800000 | _ => 3300000

/-- The value in use of a channel: the usable result, or the last one for at most 4 periods (R419). -/
def usableNow (old : Option (Int × Nat)) (r : ResS) : Option (Int × Nat) :=
  if r.valid && !r.ovr && !r.uns then some (r.data, 0)
  else match old with
    | some (v, n) => if n < 4 then some (v, n + 1) else none
    | none => none

/-- The temperature checks of one channel (Table 14-15). -/
def tempCheck (i : Nat) (s : State) : State :=
  match s.pwr.usable.get i with
  | some (v, _) =>
    let s := (s.onPwr fun p => { p with tSum := p.tSum.upd i fun x => (x.1 + v, x.2 + 1) }).count 12 0x22 0 (10 * v / 4096).toNat
    let w : Int := fld (wd s.pwr.policy 0) 7 0
    let c : Int := fld (wd s.pwr.policy 0) 15 8
    (s.when (decide (4096 * w ≤ v)) fun s => s.pwrFault1 3).when (decide (4096 * c ≤ v)) fun s => s.pwrFault1 4
  | none => s

/-- The rail alarm of one channel: two consecutive results more than 5 % from nominal (Table 14-15); it also triggers Clove's
injected sequence when enabled (R437). -/
def railCheck (i : Nat) (s : State) : State :=
  match s.pwr.usable.get (5 + i) with
  | some (v, _) =>
    let n := railNominal s.pwr i
    if 20 * (v - n).natAbs ≤ n.natAbs then s.onPwr fun p => { p with railOff := p.railOff.set i 0 }
    else
      let k := s.pwr.railOff.get i
      (s.onPwr fun p => { p with railOff := p.railOff.set i (min 2 (k + 1)) }).when (1 ≤ k) fun s =>
        (s.pwrFault1 7).when (s.clv.srcMask.testBit 5) (injTrigger 128 s.tick.tod s.clkBoundary)
  | none => s

/-- A complete set of supervisor results has been posted (R419). -/
def supUse (rs : List ResS) (s : State) : State :=
  if rs.length = 11 then
    let s := s.onPwr fun p =>
      { p with supAge := 0, supLost := false
               usable := (List.range 11).foldl (fun t i => t.set i (usableNow (p.usable.get i) (rs.getD i {}))) p.usable }
    s.each (List.range 6) (fun s i => railCheck i s) |>.each (List.range 5) fun s i => tempCheck i s
  else s

/-- SUPERVISOR_LOST (R419): no complete set for four periods of 10 ms. -/
def execSupervisorLost (s : State) : Res :=
  if s.up && 5000 ≤ s.pwr.supAge && !s.pwr.supLost then
    .next ((s.onPwr fun p => { p with supLost := true, tHot := none }).pwrFault1 9)
  else .next s

/-! ### Power states (R420 to R425) -/

/-- The new state is in force and counted. -/
def enterPwr (x : PwrState) (s : State) : State :=
  if s.pwr.st = x then s else State.count (s.onPwr fun p => { p with st := x }) 12 0x21 0 1

/-- A line starts up when it has a used entry and the table has been accepted (R70, R423). -/
def startLine (l : Nat) (s : State) : State :=
  if s.cmd.accepted && (s.cv l).optics != 0 then beginCal l s else s

/-- The lines that a state leaves on (Table 14-4). -/
def linesOn (x : PwrState) (line : Nat) : List Nat :=
  match x with
  | .p0 => [0, 1]
  | .p1 => if line = 0 then [1] else [0]
  | .p2 | .p3 => []

/-- A bias output at SAFE, its loop stopped (R342). -/
def biasSafe (b : BiasS) : BiasS :=
  if b.en then { b with atSafe := true, due := false, hi := [], lo := [], ovr := false, loop := .safe, code := some b.safe } else b

/-- A line is muted with both sides OFF; its PLL goes on (Table 14-5, tick n). -/
def lineSilent (l : Nat) (s : State) : State := (lineOff l s).onConv l fun c => { c with pll := (s.cv l).pll }

/-- One step of the entry to P2 (Table 14-5). The frames that Nutmeg still holds when its clock stops are dropped. -/
def p2Run (k : Nat) (s : State) : State :=
  match k with
  | 0 =>
    let s := lineSilent 1 (lineSilent 0 s)
    let s := s.each (List.range 8) fun s p => portRestart p .disabled s
    let s := s.each (List.range 16) fun s i => s.onLane i fun c => { c with rx := .off, ticks := 0, due := none, txOn := false, sigdet := false, lock := false }
    let s := s.each (List.range 16) fun s k => s.onBias k biasSafe
    { s with mar := { s.mar with stopped := true } }
  | 1 => if s.sett.st = .ready then leaveReady (toSett .selfRefresh s) else s
  | 2 =>
    let s := s.each (s.nut.txQ ++ s.nut.rxQ) fun s f => cellDrop f.flow 1 s
    let s := s.each [0, 1] fun s l => s.onConv l fun c => { c with pll := false }
    { s with nut := { s.nut with txQ := [], rxQ := [], suspended := [] } }
  | _ => (enterPwr .p2 s).onPwr fun p => { p with changing := p.target != .p2 }

/-- The entry to P2 goes one step on (R422). -/
def p2Turn (s : State) : State :=
  match s.pwr.p2Step with
  | some k => p2Run k (s.onPwr fun p => { p with p2Due := false, p2Step := if k < 3 then some (k + 1) else none })
  | none => s

/-- P2_ENTRY_STEP (R422): the step that is next comes about at the boundary that ends this tick. -/
def execP2EntryStep (s : State) : Res :=
  if s.up && s.pwr.p2Step.isSome then .next (s.onPwr fun p => { p with p2Due := true }) else .next s

/-- A SAFE action (R421): both lines are muted and entry to P2 begins at once, superseding a change in progress. -/
def safeAction (s : State) : State :=
  match s.pwr.st with
  | .p3 => s
  | .p2 =>
    if s.pwr.leaving then
      let s := s.onPwr fun p => { p with leaving := false, changing := true, target := .p2, p2Step := some 1, p2Due := false }
      p2Run 0 (muteLine 1 (muteLine 0 s))
    else s
  | .p0 | .p1 =>
    let s := muteLine 1 (muteLine 0 s)
    let s := { s with tick := { s.tick with staged := s.tick.staged.filter fun g => g.item != ItemKind.pwrState } }
    if s.pwr.p2Step.isSome then s.onPwr fun p => { p with target := .p2 }
    else p2Run 0 (s.onPwr fun p => { p with changing := true, target := .p2, p2Step := some 1, p2Due := false })

/-- Every spare in force but the fuse-map ones, as records (R424). -/
def sparesToSave (s : State) : List SpareS := targets.flatMap fun t => (s.tgt t).spares.filter fun r => r.valid && r.origin != 2

/-- The regulators turned off in P3 receive an OPERATION value (R424, R425). -/
def operationP3 (v : Nat) (s : State) : State :=
  s.each ((regsOn s).filter fun r => (s.pwr.reg.get r).offP3) fun s r =>
    (s.onReg r fun g => { g with off := v == 0 }).emit (.pmbus r 1 v)

/-- Items of the units that P3 leaves on (Table 14-4); what was staged for the others goes with them. -/
def runsInP3 (x : ItemKind) : Bool :=
  x == .logCfg || x == .fltCfg || x == .fltGlobal || x == .avs || x == .policy || x == .pin

/-- Entry to P3 at its boundary (R424); the tick that begins there is the last (R23). DESIGN CHOICE (log entry 107): the manual says only
that the time of day becomes invalid; the registers keep the last time and ALIGNED until the tick restarts. -/
def enterP3 (s : State) : State :=
  let s := { s with ecc := { s.ecc with saved := sparesToSave s } }
  let s := toSett .off (leaveReady s)
  let s := dumpStop s
  let s := { s with
    sett := { s.sett with merge := .const {}, mem := .const [], recs := 0, capLeft := 0, capGap := false, capSkip := false, due := none, failDue := none }
    nut := { s.nut with sa := .const {}, stage := [], wrMask := 0, stageTicks := 0, txQ := [], rxQ := [], zeroising := none }
    cnt := { s.cnt with cnt := .const {}, snap := .const {} }
    clv := { st := .off }
    tick := { s.tick with stopDue := true, staged := s.tick.staged.filter fun g => runsInP3 g.item } }
  let s := s.each (List.range 6) fun s o => s.onOut o fun x => { x with on := false }
  operationP3 0 (enterPwr .p3 (s.onPwr fun p => { p with changing := false, avs := if (avsReg s).isSome then 700 else p.avs }))

/-- Leaving P2 toward P0 or P1 at its boundary (R423). -/
def leaveP2 (x : PwrState) (line : Nat) (s : State) : State :=
  let s := s.each (linesOn x line) fun s l => startLine l s
  s.onPwr fun p => { p with leaving := true, target := x, p1Line := line }

/-- One boundary after leaving P2 (R423): the Sett READY, enabled ports in LANE_WAIT, and STATE reads the new state. -/
def p2Left (s : State) : State :=
  let s := if s.sett.st = .selfRefresh then toSett .ready s else s
  let s := s.each (List.range 8) fun s p => if (s.port p).enabled then portRestart p .laneWait s else s
  let s := enterPwr s.pwr.target { s with mar := { s.mar with stopped := false } }
  s.onPwr fun p => { p with leaving := false, changing := false }

/-- A change between P0 and P1 (R423). -/
def changeLines (x : PwrState) (line : Nat) (s : State) : State :=
  let old := linesOn s.pwr.st s.pwr.p1Line
  let new := linesOn x line
  let s := s.each (old.filter fun l => !new.contains l) fun s l => lineOff l s
  let s := enterPwr x (s.onPwr fun p => { p with p1Line := line, target := x, changing := true })
  s.each (new.filter fun l => !old.contains l) fun s l => startLine l s

/-- A staged change of power state takes effect (R420 to R424). -/
def applyPwrState (x : PwrState) (line : Nat) (s : State) : State :=
  match s.pwr.st with
  | .p3 => s
  | .p2 =>
    let s := s.onPwr fun p => { p with changing := true, target := x }
    match x with
    | .p3 => enterP3 s
    | .p2 => s.onPwr fun p => { p with changing := false }
    | y => leaveP2 y line s
  | .p0 | .p1 =>
    match x with
    | .p0 | .p1 => changeLines x line s
    | y => p2Run 0 (s.onPwr fun p => { p with changing := true, target := y, p2Step := some 1, p2Due := false })

/-- A change that passes through P2 goes on at the boundary after STATE reads P2, and one between P0 and P1 ends one tick after it
began (R420, R423, R424). -/
def changeTurn (s : State) : State :=
  match s.pwr.st with
  | .p2 => applyPwrState s.pwr.target s.pwr.p1Line s
  | .p0 | .p1 => s.onPwr fun p => { p with changing := p.target != p.st }
  | .p3 => s

/-- Power management at a boundary: the step of an entry to P2 that is due, a change that goes on or ends, polls and ages. -/
def pwrTick (s : State) : State :=
  let s := if s.pwr.leaving then p2Left s
    else if s.pwr.p2Due then p2Turn s
    else if s.pwr.changing && !s.pwr.replay && s.pwr.p2Step.isNone then changeTurn s
    else s
  let s := s.each (regsOn s) fun s r => s.onReg r fun g => { g with age := min (g.age + 1) 65535 }
  s.onPwr fun p =>
    { p with avsTicks := min (p.avsTicks + 1) 125, supAge := min (p.supAge + 1) 65535, alert := false
             avsDue := p.avsDue || s.tick.num % 125000 == 0 }

/-! ### Commands (Table 14-17) -/

/-- PWR_STATE_SET (R420, R425): a change while another is in progress returns BUSY; the state and line in force change nothing. -/
def cmdPwrStateSet (_ : CmdHdr) (ws : List Word) (s : State) : CmdRes :=
  let w := wd ws 0
  let x := pwrOf (fld w 1 0)
  let line := fld w 4 4
  needLen ws 1 <| need (onlyBits w 0x13) .badArg 0 <| need (!s.pwr.changing) .busy 0 <|
  if x = s.pwr.st ∧ (x ≠ .p1 ∨ line = s.pwr.p1Line) then .done s []
  else if s.pwr.st = .p3 then
    .done (operationP3 0x80 (s.onPwr fun p => { p with p3Exit := true, changing := true, target := x, p1Line := line })) []
  else stageOne s .pwrState 0 0 ws

/-- PWR_REG_CFG (R415, Table 14-3): in the boot table only. -/
def cmdPwrRegCfg (_ : CmdHdr) (ws : List Word) (s : State) : CmdRes :=
  need s.cmd.accepting .denied 0 <| needLen ws 2 <|
  let g : RegS := { cfg := ws }
  let others := (List.range 8).map fun r => s.pwr.reg.get r
  let given := others.filter fun o => o.cfg != [0, 0x4E2]
  need (onlyBits (wd ws 0) 0x3FFFFF07 && decide (g.rail < 6) && !(g.isAvs && g.rail != 0) && !(g.isAvs && others.any (·.isAvs)) &&
    !(g.offP3 && g.rail != 2 && g.rail != 3) && !(given.any fun o => o.place == g.place)) .badArg 0 <|
  need (onlyBits (wd ws 1) 0xFFFF && decide (125 ≤ g.poll)) .badArg 1 <|
  .done (s.onReg (fld (wd ws 0) 2 0) fun x => { x with cfg := ws, age := 0 }) []

/-- PWR_AVS_CFG (R418). -/
def cmdPwrAvsCfg (_ : CmdHdr) (ws : List Word) (s : State) : CmdRes :=
  needLen ws 1 <| need (onlyBits (wd ws 0) 0xF && decide (-5 ≤ sfld (wd ws 0) 3 0) && decide (sfld (wd ws 0) 3 0 ≤ 5)) .badArg 0 <|
  stageOne s .avs 0 0 ws

/-- PWR_POLICY (Table 14-17). -/
def cmdPwrPolicy (_ : CmdHdr) (ws : List Word) (s : State) : CmdRes :=
  let a := fld (wd ws 0) 7 0
  let b := fld (wd ws 0) 15 8
  let p := fld (wd ws 1) 15 0
  needLen ws 2 <| need (onlyBits (wd ws 0) 0x8000FFFF && decide (80 ≤ a) && decide (a ≤ 105) && decide (100 ≤ b) && decide (b ≤ 115)) .badArg 0 <|
  need (onlyBits (wd ws 1) 0xFFFF && decide (100 ≤ p) && decide (p ≤ 1500)) .badArg 1 <| stageOne s .policy 0 0 ws

/-- PIN_CFG (R439). -/
def cmdPinCfg (_ : CmdHdr) (ws : List Word) (s : State) : CmdRes :=
  needLen ws 1 <| need (onlyBits (wd ws 0) 0xF0F) .badArg 0 <| stageOne s .pin 0 0 ws

/-- A staged power item takes effect (R439). -/
def applyPwr (g : Staged) (s : State) : State :=
  let w := wd g.ws 0
  match g.item with
  | .pwrState => applyPwrState (pwrOf (fld w 1 0)) (if g.op = 1 then s.pwr.p1Line else fld w 4 4) s
  | .avs => s.onPwr fun p => { p with margin := sfld w 3 0 }
  | .policy => s.onPwr fun p => { p with policy := g.ws }
  | .pin =>
    let old := s.pwr.pin
    let s := s.onPwr fun p => { p with pin := w }
    s.each ((List.range 4).filter fun k => flag old k != flag w k) fun s k => restartRef k s
  | _ => s

/-- Command 0x0B01 (PWR_STATE_SET). -/
def execPwrStateSet (h : CmdHdr) (ws : List Word) (s : State) : Res := .next (runCmd 0x0B01 cmdPwrStateSet h ws s)
/-- Command 0x0B02 (PWR_REG_CFG). -/
def execPwrRegCfg (h : CmdHdr) (ws : List Word) (s : State) : Res := .next (runCmd 0x0B02 cmdPwrRegCfg h ws s)
/-- Command 0x0B03 (PWR_AVS_CFG). -/
def execPwrAvsCfg (h : CmdHdr) (ws : List Word) (s : State) : Res := .next (runCmd 0x0B03 cmdPwrAvsCfg h ws s)
/-- Command 0x0B04 (PWR_POLICY). -/
def execPwrPolicy (h : CmdHdr) (ws : List Word) (s : State) : Res := .next (runCmd 0x0B04 cmdPwrPolicy h ws s)
/-- Command 0x0B05 (PIN_CFG). -/
def execPinCfg (h : CmdHdr) (ws : List Word) (s : State) : Res := .next (runCmd 0x0B05 cmdPinCfg h ws s)

end Sys2Proof.Machine
end

