-- ==== Sys2Proof/Machine/Reset.lean ====
section
/-! DEFINITION. Chapter 14, reset: the device reset and its sources, the release of reset, the exit from P3, and the TAP. -/

namespace Sys2Proof.Machine

/-! ### Device reset (R428 to R430, Table 12-14) -/

/-- A target of stored-data protection keeps only its fuse-map spares. -/
def fusedTargets (t : Table EccT) : Table EccT := targets.foldl (fun u i => u.upd i fun x => { x with fuses := (t.get i).fuses }) (.const {})

/-- Every block in its reset state, the internal reset held. Kept are what Table 12-14 lists for a device reset, and the
model's own queue, record and counter. -/
def resetBlocks (s : State) : State :=
  let c := s.cmd
  { pending := s.pending, out := s.out, free := s.free
    cmd := { uid := c.uid, fusedSvn := c.fusedSvn, revoked := c.revoked, rstCause := c.rstCause, scratch := c.scratch
             slotA := c.slotA, slotB := c.slotB, flashTable := c.flashTable, sigA := c.sigA, sigB := c.sigB
             id := c.id, bootSel := c.bootSel }
    ecc := { tgt := fusedTargets s.ecc.tgt }
    pwr := { vFuse := s.pwr.vFuse, kT := s.pwr.kT }
    tim := { xoActive := s.tim.xoActive }
    rst := { s.rst with held := true } }

/-- A device reset sets its bit of GLOBAL_RST_CAUSE (R428). -/
def deviceReset (bit : Nat) (s : State) : State :=
  let s := resetBlocks s
  { s with cmd := { s.cmd with rstCause := putBit s.cmd.rstCause bit true } }

/-- The boot ROM applies the spare records of a valid flash table before any stack leaves TRAIN (R248, R368). -/
def romSpares (s : State) : State :=
  let t := s.cmd.flashTable
  if !s.cmd.bootSel && tableHdrOk t && tableCrcOk t then
    s.each ((tableSpareNums (t.take (tableLen t))).filter spareOk) fun s n => spareNow (spareOf n) s
  else s

/-- RESET_RELEASE (R429, R431): straps are in, tick 0 begins with every block in its start state. -/
def execResetRelease (st : Straps) (s : State) : Res :=
  if s.rst.held then
    let s := { s with cmd := { s.cmd with id := st.id.val, bootSel := st.bootSel }
                      rst := { s.rst with held := false, unpowered := false, testMode := st.testMode } }
    .next (s.when (!st.testMode) romSpares)
  else .next s

/-- POWER_ON_RESET (R413, R428): what a device reset keeps, but the scratch words and the causes. -/
def execPowerOnReset (s : State) : Res :=
  let s := resetBlocks s
  .next { s with cmd := { s.cmd with rstCause := 1, scratch := .const 0 }, rst := { held := true } }

/-- RESET_PIN (R428): at least 1 us resets, below 200 ns is ignored; between them the manual says neither. -/
def execResetPin (ns : Nat) (s : State) : Res :=
  if s.rst.unpowered || ns < 200 then .next s
  else if 1000 ≤ ns then .next (deviceReset 1 s)
  else
    let r := s.takeFree
    if r.1 % 2 = 0 then .next r.2 else .next (deviceReset 1 r.2)

/-- CMD_DEVICE_RESET (R428): the reset that SYS_RESET scheduled. -/
def execCmdDeviceReset (s : State) : Res := if s.live && s.cmd.resetDue then .next (deviceReset 2 s) else .next s

/-- RAIL_POWER_DOWN (R414): every content not listed as kept is lost. -/
def execRailPowerDown (s : State) : Res :=
  let s := resetBlocks s
  .next { s with cmd := { s.cmd with rstCause := 1, scratch := .const 0 }, rst := { held := true, unpowered := true } }

/-! ### Exit from P3 (R425) -/

/-- ADCs as after the release of reset, but for the retirement of each slice (R64). -/
def retirements (t : Table AdcS) : Table AdcS :=
  (List.range 4).foldl (fun u a => u.upd a fun c =>
    { c with slices := (List.range 65).foldl (fun v i => v.upd i fun x => { x with retired := ((t.get a).slices.get i).retired }) c.slices }) (.const {})

/-- Stored-data protection after P3: as at reset, but the words of the log's and the control processor's memories stay as they are. -/
def eccRestart (e : EccS) : EccS :=
  { tgt := fusedTargets e.tgt, saved := e.saved
    sram := e.sram.keys.foldl (fun t k => if k / 2 ^ 40 = 6 ∨ k / 2 ^ 40 = 7 then t.set k (e.sram.get k) else t) (.const (0, 0)) }

/-- The blocks that P3 stops start as after the release of reset; the table's system word and optics entries stay accepted,
retired slices stay retired (R64), items committed in P3 still wait for the next boundary (R15, R26), and saved and tabled spare
records are applied while the Sett is in TRAIN. -/
def p3Restart (s : State) : State :=
  let conv : Table ConvS := [0, 1].foldl (fun t l => t.upd l fun c => { c with entry := (s.cv l).entry, adc := retirements (s.cv l).adc }) (.const {})
  let t : State := { s with
    tick := { staged := s.tick.staged }, conv := conv, dsp := .const {}, frm := .const {}, cl := {}
    nut := { bypassAllow := s.nut.bypassAllow, authAllow := s.nut.authAllow, locked := s.nut.locked }
    sett := {}, ecc := eccRestart s.ecc, tim := { xoActive := s.tim.xoActive }
    mar := { stopped := true }, clv := {}, cnt := {} }
  t.each (s.cmd.tableSpares ++ s.ecc.saved) fun s r => spareNow r s

/-- P3_EXIT_POWER_GOOD (R425): the blocks restart and STATE reads P2; the table's records and the rest of the change follow. -/
def execP3ExitPowerGood (s : State) : Res :=
  if s.live && s.pwr.p3Exit then
    let s := enterPwr .p2 ((p3Restart s).onPwr fun p => { p with p3Exit := false, replay := true, supAge := 0, avsDue := false })
    .next s
  else .next s

/-- P3_EXIT_TIMEOUT (R425). -/
def execP3ExitTimeout (s : State) : Res :=
  if s.live && s.pwr.p3Exit then
    .next ((s.onPwr fun p => { p with p3Exit := false, changing := false, target := .p3 }).pwrFault1 6)
  else .next s

/-! ### The TAP (R432) -/

/-- A TAP instruction takes effect while the part has power; it needs no release of reset. -/
def tap (f : RstS → RstS) (s : State) : State := if s.rst.unpowered then s else { s with rst := f s.rst }

/-- The IDCODE (R8): version 4 (STEP - 1) + METAL, part, manufacturer and a final 1. -/
def idcode : Word := mkWord ((4 * (devStep - 1) + devMetal) * 2 ^ 28 + devPart * 2 ^ 12 + 0x2C5 * 2 + 1)

/-- JTAG_EXTEST: the boundary register lies between TDI and TDO and drives the balls. -/
def execJtagExtest (s : State) : Res :=
  .next (tap (fun r => { r with ir := .extest, dr := 2, tdo := r.bsr, drive := true, highz := false }) s)
/-- JTAG_IDCODE: the IDCODE register captures its value and shifts it out (R8). -/
def execJtagIdcode (s : State) : Res :=
  .next (tap (fun r => { r with ir := .idcode, dr := 1, tdo := idcode.toNat, drive := false, highz := false }) s)
/-- JTAG_SAMPLE_PRELOAD: the balls are captured and the boundary register takes the value shifted in. -/
def execJtagSamplePreload (pins shift : Nat) (s : State) : Res :=
  .next (tap (fun r => { r with ir := .sample, dr := 2, tdo := pins, drive := false, highz := false, captured := pins, bsr := shift }) s)
/-- JTAG_HIGHZ. -/
def execJtagHighz (s : State) : Res := .next (tap (fun r => { r with ir := .highz, dr := 0, tdo := 0, drive := false, highz := true }) s)
/-- JTAG_CLAMP. -/
def execJtagClamp (s : State) : Res := .next (tap (fun r => { r with ir := .clamp, dr := 0, tdo := 0, drive := true, highz := false }) s)
/-- JTAG_DEV_RESET (R428). -/
def execJtagDevReset (s : State) : Res :=
  if s.rst.unpowered then .next s
  else .next (deviceReset 4 (tap (fun r => { r with ir := .devReset, dr := 0, tdo := 0, drive := false, highz := false }) s))
/-- JTAG_BYPASS: 0xFF, and every code without an instruction of its own. -/
def execJtagBypass (code : BitVec 8) (s : State) : Res :=
  if code.toNat ≤ 4 ∨ code = 0x10 then .next s
  else .next (tap (fun r => { r with ir := .bypass, dr := 0, tdo := 0, drive := false, highz := false }) s)
/-- TRST (R428): the TAP alone. -/
def execTrst (s : State) : Res :=
  .next (tap (fun r => { r with ir := .idcode, dr := 1, tdo := idcode.toNat, drive := false, highz := false }) s)

end Sys2Proof.Machine
end

