-- ==== Sys2Proof/Machine/Fault.lean ====
section
/-! DEFINITION. Chapter 13, faults: the collector's sources, reactions, windows and actions, the messengers, the watchdog, FAULT
words on the chain, and the fault commands. -/

namespace Sys2Proof.Machine

/-! ### Sources and their configuration (R379, R384, R390) -/

/-- The ranges of assigned sources (Table 13-1, Table 14-15). -/
def fsRanges : List (Nat × Nat) :=
  [(0, 13), (16, 34), (48, 66), (80, 139), (144, 153), (160, 169), (176, 183), (192, 199), (208, 217), (224, 233), (240, 265),
   (272, 276), (288, 289), (296, 297)]

/-- The source is assigned; the others are reserved and never raise (R379). -/
def fsAssigned (n : Nat) : Bool := fsRanges.any fun r => decide (r.1 ≤ n) && decide (n ≤ r.2)

/-- FS176 and FS208 never raise (Table 13-1). -/
def fsRaises (n : Nat) : Bool := fsAssigned n && n != 176 && n != 208

/-- Sources whose default class is EVENT (Tables 13-6 and 14-15). -/
def fsEvents : List Nat :=
  [5, 6, 7, 33, 65, 144, 145, 146, 147, 148, 149, 150, 151, 169, 177, 179, 192, 193, 195, 215, 230, 231, 232, 233, 240, 242, 244, 246,
   248, 250, 252, 254, 259]

/-- The default configuration word of a source (Tables 13-6 and 14-15). -/
def fltDefault (n : Nat) : Word :=
  if n = 3 then 0x243
  else if n = 168 ∨ n = 260 then 0x353
  else if n = 0 ∨ n = 1 ∨ n = 2 ∨ n = 4 then 0x206
  else if n = 265 then 0x256
  else if n = 288 ∨ n = 263 ∨ (241 ≤ n ∧ n ≤ 255 ∧ n % 2 = 1) then 0x202
  else if fsEvents.contains n then 5
  else if fsAssigned n then 6
  else 4

/-- FLT_CFG_n: the configuration in force. -/
def FltS.word (f : FltS) (n : Nat) : Word := (f.cfg.get n).getD (fltDefault n)

/-- FAULT_N is asserted: a source with PIN at 1 is pending (R388). -/
def FltS.faultN (f : FltS) : Bool := (onesOf 512 f.pend.toNat).any fun n => flag (f.word n) 9

/-- Rewrite the collector. -/
def State.onFlt (s : State) (f : FltS → FltS) : State := { s with flt := f s.flt }

/-! ### Reactions (R384 to R387, R391, R392) -/

/-- The first-source latch (R387). -/
def firstLatch (fs cls : Nat) (s : State) : State :=
  s.onFlt fun f =>
    if f.first then { f with ovf := true }
    else { f with first := true, firstCls := cls, firstFs := fs, firstTick := s.tick.num }

/-- The payload of a FAULT word (R392). -/
def faultPayload (fs action bseq tick : Nat) : Nat :=
  fs % 512 * 2 ^ 103 + action % 8 * 2 ^ 100 + bseq % 256 * 2 ^ 92 + tick % 2 ^ 32 * 2 ^ 60

/-- An escalation with BCAST is sent on both chain links (R392). -/
def broadcast (fs action : Nat) (s : State) : State :=
  let w := chainWord 1 s.cmd.id s.cmd.id 1 (faultPayload fs action s.flt.bseq s.tick.num)
  let s := s.each [false, true] fun s b => if s.chained && (s.link b).st == .up then linkPut b w s else s
  s.onFlt fun f => { f with bseq := (f.bseq + 1) % 256 }

/-- The effect of an ACTION (Table 13-5). -/
def actionEffect (action : Nat) (s : State) : State :=
  match action with
  | 1 => muteLine 0 s
  | 2 => muteLine 1 s
  | 3 => muteLine 1 (muteLine 0 s)
  | 4 => cpRestart s
  | 5 => safeAction s
  | 6 => deviceReset 3 s
  | _ => s

/-- A source's ACTION is taken (R386): at the end of a window, or at once for ESCALATE. -/
def takeAction (fs : Nat) (escalate : Bool) (s : State) : State :=
  let w := s.flt.word fs
  let a := fld w 6 4
  let s := s.log { cls := 3, src := fs, code := a, data := [mkWord (bitAt escalate 0), 0, 0] }
  let s := (s.raiseVec false 20).onFlt fun f => { f with esc := putBit f.esc fs true }
  let s := s.count 0xB 2 fs 1
  actionEffect a (s.when (flag w 8) (broadcast fs a))

/-- The units of a source's window (R385). -/
def FltS.winUnits (f : FltS) (fs : Nat) : Nat := f.wins.getD (fld (f.word fs) 3 2) 0

/-- The reaction of a source whose pending bit goes from 0 to 1 (Table 13-4). -/
def react (fs code : Nat) (data : List Word) (s : State) : State :=
  match fld (s.flt.word fs) 1 0 with
  | 0 => s
  | 1 => (s.log { cls := 1, src := fs, code := code, data := data }).raiseVec false 18
  | 2 =>
    let s := (s.log { cls := 2, src := fs, code := code, data := data }).raiseVec false 19
    (firstLatch fs 2 s).onFlt fun f => { f with win := f.win.set fs (some (f.winUnits fs)) }
  | _ => takeAction fs true (firstLatch fs 3 s)

/-- A raise (R381): counted, pending, and on the change from 0 to 1 its reaction. -/
def raiseFs (fs code : Nat) (data : List Word) (s : State) : State :=
  let old := s.flt.pend.getLsbD fs
  let s := (s.onFlt fun f => { f with pend := putBit f.pend fs true }).count 0xB 0 fs 1
  if old then s else react fs code data s

/-- FAULT_RAISE (R381): a raise reaches the collector. -/
def execFaultRaise (fs : Fin 512) (s : State) : Res :=
  if s.live && fsRaises fs then
    .next (raiseFs fs 0 [0, 0, 0] (s.onFlt fun f => { f with raised := f.raised.erase fs.val }))
  else .next s

/-- DUAL_RAIL_BROKEN (R380, R395): rails equal for 4 cycles are a raise of the source, and FS288 once for it; each of the further cycles
for which they stay equal is a further raise of a source already pending. FLT_INJECT holds them for 16 cycles. -/
def execDualRailBroken (x : RailPair) (s : State) : Res :=
  let fs := x.fs
  if s.live && fsAssigned fs && 8 ≤ fs.val then
    let old := s.flt.broken.getLsbD fs
    let n := if s.flt.rails.contains fs.val then 12 else x.more
    let s := s.onFlt fun f => { f with broken := putBit f.broken fs true, rails := f.rails.erase fs.val }
    .next (State.count (raiseFs fs 0 [0, 0, 0] (s.when (!old) (raiseFs 288 0 [0, 0, 0]))) 0xB 0 fs n)
  else .next s

/-- MESSENGER_MESSAGE (R383): queued, and the messenger's source raised. -/
def execMessengerMessage (m : Msg) (crcOk : Bool) (s : State) : Res :=
  if s.live then
    let s := s.onFlt fun f => { f with sent := f.sent.erase m }
    let x : Msg := if crcOk then m else { m := m.m, kind := 0xFF, addr := 0, data := 0 }
    let q := s.flt.msg.get m.m
    let full := decide (16 ≤ q.q.length)
    let s := s.onFlt fun f => { f with msg := f.msg.set m.m (if full then { q with lost := true } else { q := q.q ++ [(x, q.lost)], lost := false }) }
    let s := s.when full fun s => s.count 0xB 1 m.m 1
    .next (raiseFs m.m x.kind.toNat [mkWord x.addr.toNat, mkWord (x.addr.toNat / 2 ^ 32), x.data] s)
  else .next s

/-- FAULT_WINDOW_EXPIRE (R385): the window ended with the bit still set. -/
def execFaultWindowExpire (fs : Fin 512) (s : State) : Res :=
  match s.flt.win.get fs with
  | some n =>
    if s.live && (n == 0 || !s.tick.running) && s.flt.pend.getLsbD fs then
      .next (takeAction fs false (s.onFlt fun f => { f with win := f.win.set fs none }))
    else .next s
  | none => .next s

/-- WATCHDOG_EXPIRE (R389): one M3 message, and a new period at once. -/
def execWatchdogExpire (s : State) : Res :=
  match s.flt.wdLeft with
  | some n =>
    if s.live && (n == 0 || !s.tick.running) then
      .next (State.send (s.onFlt fun f => { f with wdLeft := some (125 * f.wd) }) 3 1 0 s.flt.wd)
    else .next s
  | none => .next s

/-- CHAIN_FAULT_WORD_RX (R393). -/
def execChainFaultWordRx (b : Bool) (w : ChainWord) (s : State) : Res :=
  let n := w.toNat
  let src := bitsOf n 119 118
  let hop := bitsOf n 115 114
  let key := (src, bitsOf n 99 92)
  if s.up && s.chained && (s.link b).st == .up && chainType w == some 1 && src != s.cmd.id then
    let again := s.flt.seen.contains key
    let s := s.onFlt fun f => { f with seen := (key :: f.seen).take 16 }
    if again then .next s
    else
      let last := mkWord (src * 2 ^ 30 + bitsOf n 102 100 * 2 ^ 27 + bitsOf n 99 92 * 2 ^ 9 + bitsOf n 111 103)
      let s := (s.onFlt fun f => { f with chainLast := last }).signal 289
      .next (s.when (hop != 3 && (s.link !b).st == .up) fun s =>
        linkPut (!b) (chainWord 1 src (bitsOf n 117 116) (hop + 1) (bitsOf n 111 0)) s)
  else .next s

/-! ### Register writes (Table 13-7) -/

/-- FLT_PEND_CLEAR (R385): acknowledged sources leave FLT_PEND and their windows stop. -/
def execFltPendClear (j : Fin 16) (val : Word) (s : State) : Res :=
  if s.live then
    .next (s.onFlt fun f => (onesOf 32 val.toNat).foldl (fun f b =>
      { f with pend := putBit f.pend (32 * j.val + b) false, win := f.win.set (32 * j.val + b) none }) f)
  else .next s

/-- FLT_FIRST_CLEAR (R387): VALID clears both, OVF itself alone. -/
def execFltFirstClear (val : Word) (s : State) : Res :=
  if s.live then
    .next (s.onFlt fun f => { f with first := f.first && !flag val 31, ovf := f.ovf && !flag val 31 && !flag val 30 })
  else .next s

/-- FLT_MSG_POP (R394). -/
def execFltMsgPop (val : Word) (s : State) : Res :=
  if s.live then
    .next (s.onFlt fun f => { f with msg := (onesOf 8 val.toNat).foldl (fun t k => t.upd k fun q => { q with q := q.q.drop 1 }) f.msg })
  else .next s

/-! ### Commands (R395) -/

/-- A word that the locked collector still takes: the present one, or CLASS changed between 0 and 1 (R390). -/
def fltChangeOk (old new : Word) : Bool :=
  old == new || (fld old 1 0 < 2 && fld new 1 0 < 2 && old.toNat / 4 == new.toNat / 4)

/-- FLT_CFG (R395): each source's word is one item. -/
def cmdFltCfg (_ : CmdHdr) (ws : List Word) (s : State) : CmdRes :=
  let first := fld (wd ws 0) 8 0
  let n := fld (wd ws 0) 24 16
  let body := ws.drop 1
  need (onlyBits (wd ws 0) 0x01FF01FF && decide (1 ≤ n) && decide (first + n ≤ 512)) .badArg 0 <|
  needLen ws (1 + n) <|
  let bad := body.findIdx fun w => !(onlyBits w 0x37F && fld w 6 4 != 7)
  need (decide (n ≤ bad)) .badArg (1 + bad) <|
  need (!s.flt.locked || (List.range n).all fun i => fltChangeOk (s.flt.word (first + i)) (wd body i)) .denied 0 <|
  need ((List.range n).all fun i => !s.isStaged .fltCfg (first + i)) .busy 0 <|
  .done (s.each (List.range n) fun s i => s.stage .fltCfg (first + i) 0 [wd body i]) []

/-- FLT_GLOBAL (R395). -/
def cmdFltGlobal (_ : CmdHdr) (ws : List Word) (s : State) : CmdRes :=
  needLen ws 5 <|
  let ok := fun i => onlyBits (wd ws i) 0xFFFFFF && decide (125 ≤ fld (wd ws i) 23 0)
  need (ok 0) .badArg 0 <| need (ok 1) .badArg 1 <| need (ok 2) .badArg 2 <| need (ok 3) .badArg 3 <|
  let p := fld (wd ws 4) 13 0
  need (onlyBits (wd ws 4) 0x3FFF && decide (10 ≤ p) && decide (p ≤ 10000)) .badArg 4 <|
  need (!s.flt.locked) .denied 0 <| stageOne s .fltGlobal 0 0 ws

/-- FLT_INJECT (R395). -/
def cmdFltInject (_ : CmdHdr) (ws : List Word) (s : State) : CmdRes :=
  let w := wd ws 0
  let fs := fld w 8 0
  let mode := fld w 17 16
  needLen ws 1 <| need (onlyBits w 0x301FF && fsAssigned fs && decide (mode < 2) && !(mode == 1 && decide (fs < 8))) .badArg 0 <|
  if mode = 1 then .done (s.onFlt fun f => { f with rails := f.rails ++ [fs] }) []
  else if fs < 8 then .done (s.send (Fin.ofNat 8 fs) 0xFE 0 0) []
  else .done (s.when (fsRaises fs) (·.signal fs)) []

/-- A staged fault item takes effect. -/
def applyFlt (g : Staged) (s : State) : State :=
  match g.item with
  | .fltCfg => s.onFlt fun f => { f with cfg := f.cfg.set g.idx (if wd g.ws 0 = fltDefault g.idx then none else some (wd g.ws 0)) }
  | .fltGlobal => s.onFlt fun f => { f with wins := (g.ws.take 4).map (fld · 23 0), wd := fld (wd g.ws 4) 13 0 }
  | _ => s

/-- Command 0x0901 (FLT_CFG). -/
def execFltCfg (h : CmdHdr) (ws : List Word) (s : State) : Res := .next (runCmd 0x0901 cmdFltCfg h ws s)
/-- Command 0x0902 (FLT_GLOBAL). -/
def execFltGlobal (h : CmdHdr) (ws : List Word) (s : State) : Res := .next (runCmd 0x0902 cmdFltGlobal h ws s)
/-- Command 0x0903 (FLT_INJECT). -/
def execFltInject (h : CmdHdr) (ws : List Word) (s : State) : Res := .next (runCmd 0x0903 cmdFltInject h ws s)

/-- The collector's units at a boundary (R382): running windows and the watchdog's period. -/
def fltTick (s : State) : State :=
  s.onFlt fun f => { f with
    win := f.win.keys.foldl (fun t k => t.upd k fun w => w.map (· - 1)) f.win
    wdLeft := f.wdLeft.map (· - 1) }

end Sys2Proof.Machine
end

