-- ==== Sys2Proof/Machine/Marten.lean ====
section
/-! DEFINITION. Chapter 10: Marten. The exchange in the frame headers, delays for the Sett, asymmetry, steering, the ranging
subcarrier with its hub and leaves, and the Marten commands; with the decode tick of a line frame, whose stamp Marten takes
and whose cells it lets the Sett place. -/

namespace Sys2Proof.Machine

/-! ### Readings -/

def MartenL.mode (m : MartenL) : Nat := fld (wd m.cfg 0) 5 4
def MartenL.fTx (m : MartenL) : Nat := (wd m.cfg 1).toNat
def MartenL.txPath (m : MartenL) : Nat := fld (wd m.cfg 2) 17 0
def MartenL.rxPath (m : MartenL) : Nat := fld (wd m.cfg 3) 17 0
def MartenL.asymCal (m : MartenL) : Int := sword (wd m.cfg 4)
def MartenL.driftK (m : MartenL) : Int := sfld (wd m.cfg 5) 31 16
def MartenL.driftAvg (m : MartenL) : Nat := fld (wd m.cfg 5) 11 0
def MartenL.jumpThr (m : MartenL) : Nat := fld (wd m.cfg 6) 15 0

/-- Fields of MC_CFG (Table 10-12). -/
def MartenL.capMargin (m : MartenL) : Nat := fld (wd m.mc 0) 23 16
def MartenL.leafId (m : MartenL) : Nat := fld (wd m.mc 0) 15 12
def MartenL.mcAvg (m : MartenL) : Nat := fld (wd m.mc 1) 31 16
def MartenL.period (m : MartenL) : Nat := fld (wd m.mc 1) 15 0

/-- Fields of MARTEN_STEER. -/
def steerSrc (w : Word) : Nat := fld w 2 0
def stepEn (w : Word) : Bool := flag w 8
def deadBand (w : Word) : Nat := fld w 23 16

/-- The source in use (Table 10-8): 0 none, 1 L0, 2 L1, 3 MC, 4 PTP. -/
def usingSrc (s : State) : Nat :=
  match steerSrc s.mar.steer with
  | 1 => 1
  | 2 => 2
  | 3 => if s.mar.onL1 then 2 else 1
  | 4 => 3
  | 5 => 4
  | _ => 0

/-- Marten's services run: not in P2 or P3 (R317). -/
def marRuns (s : State) : Bool := s.up && !s.mar.stopped

/-- The delay D_i of a line in force, 2^-16 ns (R293). -/
def delayOf (s : State) (l : Nat) : Int :=
  let m := s.ml l
  m.appW - m.renumW * tickUnits + m.sl

/-- The transmit stamp of the marker of the tick under way (R287). -/
def txStamp (s : State) (l : Nat) : Nat := s.tick.num * tickUnits + txpUnits + (psUnits (s.ml l).txPath).toNat

/-- A 32-bit dispersion field: 0x8000_0000 is none. -/
def cdField (x : Option Int) : Nat :=
  match x with
  | some v => wrapInt 32 v
  | none => 0x80000000

/-- The value of such a field. -/
def fieldCd (n : Nat) : Option Int := if n = 0x80000000 then none else some (signed 32 n)

/-- The TT field that Marten writes (Table 10-1). -/
def ttField (s : State) (l : Nat) : Nat :=
  let m := s.ml l
  let t := txStamp s l
  let e := match m.echo with
    | some p => if p.2 ≤ t ∧ t ≤ p.2 + 64 * tickUnits then some p else none
    | none => none
  let e0 := (e.map Prod.fst).getD 0
  let e1 := (e.map Prod.snd).getD 0
  timeField t * 2 ^ 416 + timeField e0 * 2 ^ 320 + timeField e1 * 2 ^ 224 + cdField (s.ds l).cdEst * 2 ^ 192 + m.fTx * 2 ^ 160 +
    wrapInt 32 m.delta * 2 ^ 128 + bitAt e.isSome 127 + bitAt s.tick.aligned 126 + m.mode * 2 ^ 124 +
    bitAt (usingSrc s == l + 1) 123 + (match s.tim.st with
      | .freerun => 0 | .acquire => 1 | .locked => 2 | .switch => 3 | .holdover => 4 | .chain => 5) * 2 ^ 120

/-! ### Asymmetry (R295 to R299) -/

/-- The mean of the latest n samples, none before there are n (R298). -/
def cdMean (n : Nat) (xs : List Int) : Option Int := if n ≤ xs.length ∧ 0 < n then some (meanOf (xs.take n)) else none

/-- The averages CD_in and CD_out. -/
def MartenL.avgIn (m : MartenL) : Option Int := cdMean m.driftAvg m.cdIn
def MartenL.avgOut (m : MartenL) : Option Int := cdMean m.driftAvg m.cdOut

/-- The speed of light as wavelength x frequency: nm x MHz (R296). -/
def lightSpeed : Nat := 299792458000

/-- A wavelength in pm from a frequency in MHz. -/
def lambdaPm (f : Nat) : Int := (lightSpeed * 1000 / max f 1 : Nat)

/-- D at a wavelength in pm, in 10^-4 fs/(nm km), from the declared-optics entry (R296). -/
def dispAt (c : ConvS) (lam : Int) : Int := (fld (wd c.entry 1) 15 0 : Nat) * 10000 + (fld (wd c.entry 1) 31 16 : Nat) * (lam - 1550000)

/-- CD_MID in 0.1 ps/nm (R296). -/
def cdMid (c : ConvS) (m : MartenL) (fOut fIn : Nat) : Option Int :=
  match m.avgIn, m.avgOut with
  | some a, some b => some (roundDiv (a + b) 2)
  | some a, none =>
    let li := lambdaPm fIn
    let d := dispAt c li
    some (if d = 0 then Config.cdMidOpen a else roundDiv (a * d.sign * dispAt c ((li + lambdaPm fOut) / 2)) d.natAbs)
  | none, _ => none

/-- Delta in mode 1 for two carriers in MHz, in ps (R295, R296). -/
def deltaMode1 (c : ConvS) (m : MartenL) (fOut fIn : Nat) : Option Int :=
  if fOut = 0 ∨ fIn = 0 then none
  else (cdMid c m fOut fIn).map fun cd => m.asymCal + roundDiv (cd * lightSpeed * ((fIn : Int) - fOut)) (10 * fOut * fIn)

/-- DRIFT in ps (R297): DRIFT_K x 10 ps per ps/nm times differences in 0.1 ps/nm. None while it must hold its last value. -/
def driftNow (m : MartenL) : Option Int :=
  if m.driftK = 0 then some 0
  else match m.avgIn, m.avgOut, m.calIn, m.calOut with
    | some i, some o, some ci, some co => if m.calPend then none else some (m.driftK * ((o - co) - (i - ci)))
    | _, _, _, _ => none

/-- Delta and DRIFT as they are to be (R295 to R297), and whether what cannot be formed holds its last value. -/
def newDelta (s : State) (l : Nat) : Int × Int × Bool :=
  let m := s.ml l
  match m.mode with
  | 0 => (m.asymCal, m.drift, false)
  | 1 => match deltaMode1 (s.cv l) m m.fTx m.far.ftx with
    | some d => (d, m.drift, false)
    | none => (m.delta, m.drift, true)
  | _ => match driftNow m with
    | some d => (m.asymCal + d, d, false)
    | none => (m.asymCal + m.drift, m.drift, true)

/-- Delta is formed with the line's settings at their boundary. -/
def formDelta (l : Nat) (s : State) : State :=
  let r := newDelta s l
  (s.onMar l fun m => { m with delta := r.1, drift := r.2.1 }).when r.2.2 fun s => s.marFault 6

/-- The firmware forms Delta anew and stages it for the next boundary (R43, Table 1-6); while it does not run, Delta stays. -/
def stageDelta (l : Nat) (s : State) : State :=
  let m := s.ml l
  let r := newDelta s l
  if !s.fwRuns || s.isStaged .asym l then s
  else
    let s := s.when r.2.2 fun s => s.marFault 6
    if r.1 = m.delta ∧ r.2.1 = m.drift then s else s.stage .asym l 0 (lohi (wrapInt 64 r.1) ++ lohi (wrapInt 64 r.2.1))

/-- theta, d_out and d_in from the apparent delays and Delta, all in 2^-16 ns (R291). -/
def thetaOf (aOut aIn delta : Int) : Int := roundDiv (aOut - aIn - delta) 2
def dOutOf (aOut aIn delta : Int) : Int := roundDiv (aOut + aIn + delta) 2
def dInOf (aOut aIn delta : Int) : Int := roundDiv (aOut + aIn - delta) 2

/-! ### The exchange (R289 to R292) -/

/-- The far end's TT of a good frame. -/
def farOf (h : FrameHdr) : FarTT :=
  { ttx := fieldTime (hdrFld h 1535 1440), cd := fieldCd (hdrFld h 1247 1216), ftx := hdrFld h 1215 1184, asym := signed 32 (hdrFld h 1183 1152),
    aligned := hdrFld h 1150 1150 == 1, mode := hdrFld h 1149 1148, steering := hdrFld h 1147 1147 == 1, dpll := hdrFld h 1146 1144 }

/-- A sample joins the window (R291, R292). -/
def addSample (l : Nat) (aOut aIn : Int) (s : State) : State :=
  let m := s.ml l
  let thr := m.jumpThr * nsUnits
  let jump := match m.lastS with
    | some p => decide (thr < (aOut - p.1).natAbs) || decide (thr < (aIn - p.2).natAbs)
    | none => false
  (s.onMar l fun m =>
    { m with lastS := some (aOut, aIn),
             win := { m.win with sumOut := m.win.sumOut + aOut, sumIn := m.win.sumIn + aIn, cnt := m.win.cnt + 1, jump := m.win.jump || jump } }).count 8 0 l 1

/-- A good frame's TT is taken with the frame's receive stamp at the plane (R290, R291, R298, R299). -/
def takeTT (l : Nat) (h : FrameHdr) (rx : Nat) (s : State) : State :=
  let far := farOf h
  let s := s.onMar l fun m =>
    { m with far := far, echo := some (far.ttx, rx),
             secOut := match far.cd with
               | some v => v :: m.secOut
               | none => m.secOut
             win := { m.win with conflict := m.win.conflict && decide (2000 < (m.delta + far.asym).natAbs) } }
  if hdrFld h 1151 1151 = 1 then
    let t1 := fieldTime (hdrFld h 1439 1344)
    let t2 := fieldTime (hdrFld h 1343 1248)
    addSample l ((t2 : Int) - t1) ((rx : Int) - far.ttx) s
  else s

/-! ### Steering (R300 to R302) -/

/-- TIME_SET with OP 1 or 3 would return BUSY (R276). -/
def timeLed (s : State) : Bool :=
  s.tim.sel < 8 && (s.ref s.tim.sel).pps && (s.tim.st == .acquire || s.tim.st == .locked || s.tim.st == .switch)

/-- The words of a TIME_SET with an OFFSET. -/
def offsetWords (op : Nat) (d : Int) : List Word :=
  [mkWord op, 0, 0, 0, 0] ++ lohi (wrapInt 64 d)

/-- Marten acts on theta at a post of the source in use (R301, R302). -/
def steerBy (theta : Int) (valid moved loops : Bool) (s : State) : State :=
  let w := s.mar.steer
  let mag := theta.natAbs
  if !valid || timeLed s || isFollower s then s.marFault 2
  else if loops then s.marFault 3
  else if s.tim.slewing || moved || s.isStaged .timeSet 0 then s
  else if 10 * mag < deadBand w * nsUnits then s
  else if mag ≤ 1000000 * nsUnits then s.stage .timeSet 0 0 (offsetWords 3 theta)
  else if stepEn w then s.stage .timeSet 0 0 (offsetWords 1 theta)
  else s.marFault 1

/-- The choice between L0 and L1 under SRC 3 (R300), at a post of line l: L1 from its next valid post after an invalid one of L0, and L0
again after 10 valid ones in a row. -/
def chooseLine (l : Nat) (valid : Bool) (s : State) : State :=
  let m := s.mar
  { s with mar :=
    if l = 0 then
      if !valid then { m with l0Bad := true, l0Good := 0 }
      else if m.l0Good + 1 < 10 then { m with l0Good := m.l0Good + 1 }
      else { m with l0Good := 10, l0Bad := false, onL1 := false }
    else if valid && m.l0Bad then { m with onL1 := true }
    else m }

/-- MARTEN_WINDOW_POST (R292 to R294, R299, R301). -/
def execMartenWindowPost (l : Fin 2) (s : State) : Res :=
  if marRuns s && (s.ml l).due && s.lineAllowed l then
    let s := s.onMar l fun m => { m with due := false }
    let m := s.ml l
    let w := m.dueWin
    let aOut := roundDiv w.sumOut w.cnt
    let aIn := roundDiv w.sumIn w.cnt
    let th := thetaOf aOut aIn (psUnits m.delta)
    let valid := w.allIn && !w.broken && !w.jump && decide (m.ttAvg ≤ 2 * w.cnt) && w.cnt != 0
    let s := s.onMar l fun m => { m with post := { appIn := aIn, appOut := aOut, theta := th, asym := m.delta, valid := valid, samples := w.cnt } }
    let s := if valid then
        let s := s.onMar l fun m => { m with appW := aIn, renumW := w.renum, sl := m.sl - w.sl0 }
        { s with sett := { s.sett with dlyValid := s.sett.dlyValid.set l true } }
      else s
    let s := s.when w.jump fun s => s.marFault 4
    let s := s.when (w.conflict && w.cnt != 0) fun s => s.marFault 5
    let s := stageDelta l (if steerSrc s.mar.steer = 3 then chooseLine l valid s else s)
    .next (if usingSrc s = l.val + 1 then steerBy th valid w.moved m.far.steering s else s)
  else .next s

/-- The mean of a second's values as one more sample (R298). -/
def secondSample (n : Nat) (sec xs : List Int) : List Int := if sec.isEmpty then xs else (meanOf sec :: xs).take n

/-- CD_SECOND_SAMPLE (R298). -/
def execCdSecondSample (l : Fin 2) (s : State) : Res :=
  if marRuns s && s.atSecond && (s.ds l).rxd == .run then
    .next (s.onMar l fun m =>
      { m with cdIn := secondSample m.driftAvg m.secIn m.cdIn, cdOut := secondSample m.driftAvg m.secOut m.cdOut, secIn := [], secOut := [] })
  else .next s

/-- CD_CAL_CAPTURE (R297): both averages are valid, and the next boundary takes the references. -/
def execCdCalCapture (l : Fin 2) (s : State) : Res :=
  let m := s.ml l
  if marRuns s && m.calPend && m.avgIn.isSome && m.avgOut.isSome then .next (s.onMar l fun m => { m with calDue := true }) else .next s

/-- A capture is taken where both averages are valid (R297). -/
def MartenL.capture (m : MartenL) : MartenL :=
  if m.avgIn.isSome && m.avgOut.isSome then { m with calIn := m.avgIn, calOut := m.avgOut, calPend := false, calDue := false } else m

/-! ### The decode tick of a line frame (R130 to R136, R213, R215, R216) -/

/-- A delivered cell: a protected one waits as a copy at the Sett's input, another goes to reassembly; a receiving entry that is not
VALID drops it (R213). -/
def deliverCell (l ns : Nat) (weak : Bool) (c : Cell) (s : State) : State :=
  let e := s.flowE c.flow
  if !flowValid e then s.count 6 0xE c.flow 1
  else if flowPath e = 2 then { s with sett := { s.sett with inQ := s.sett.inQ ++ [{ line := l, ns := ns, weak := weak, cell := c }] } }
  else rxCell c s

/-- LINE_FRAME_DECODE (R130 to R136, R215, R291): `stamp` is the marker's time at the ADC pins. Each frame that the line delivers with a valid
delay has its send tick, and SKEW_RESID where its marker lies off it. -/
def execLineFrameDecode (l : Fin 2) (f : RxFrame) (s : State) : Res :=
  if mayDecode s l then
    let lay := layout (rxRaw (s.ds l)) (s.fr l).rxRate
    let r := decodeFrame l f s
    let rx := addPs f.stamp (-((s.ml l).rxPath : Int))
    let s := if r.2.good && marRuns s then takeTT l f.hdr rx r.1 else r.1
    let weak := (innerDecode (s.fr l) f lay.cws).unconv != 0 || badBlocks lay f != 0
    let n := sendTick ((rx : Int) - delayOf s l)
    let s := s.when (delayValid s l && n.2) fun s => s.settFault 2
    .next (s.each r.2.cells fun s c => deliverCell l n.1 weak c.2 (capture l l r.2.num c.1 weak c.2 s))
  else .next s

/-! ### The ranging subcarrier (R307 to R314) -/

/-- MC centre from the carrier in MHz (R80). -/
def mcOffset (d : DspS) : Int :=
  let c : Int := 8 * (8000 + 500 * (d.baud : Int)) + 4500
  if flag (wd d.scCfg 0) 9 then -c else c

/-- Fields of a burst header (Table 10-5). -/
def burstFld (h : BurstHdr) (msb lsb : Nat) : Nat := bitsOf h.toNat msb lsb

/-- The CRC of a burst header over [511:32]. -/
def burstCrc (h : Nat) : Nat := crc32 (beBytes 60 (h / 2 ^ 32))

/-- A burst header. -/
def buildBurst (type len src dst tTx eTx eRx fTx cd : Nat) (adj : Int) : BurstHdr :=
  let body := type * 2 ^ 508 + len % 32 * 2 ^ 503 + src % 256 * 2 ^ 488 + dst % 256 * 2 ^ 480 + timeField tTx * 2 ^ 384 + timeField eTx * 2 ^ 288 +
    timeField eRx * 2 ^ 192 + fTx % 2 ^ 32 * 2 ^ 160 + cd % 2 ^ 32 * 2 ^ 128 + wrapInt 32 adj * 2 ^ 96
  BitVec.ofNat 512 (body + burstCrc body)

/-- The first bytes queued for a destination, and the queue without them (R312). -/
def takeQueued (dst : Nat) : List (Nat × List Byte) → List Byte × List (Nat × List Byte)
  | [] => ([], [])
  | (d, bs) :: q => if d = dst then (bs, q) else let r := takeQueued dst q; (r.1, (d, bs) :: r.2)

/-- A burst leaves (R308): marked in its tick, with what MC_SEND queued for its destination. -/
def sendBurst (l type src dst tTx eTx eRx : Nat) (adj : Int) (s : State) : State :=
  let m := s.ml l
  let q := takeQueued dst m.sendQ
  let h := buildBurst type ((q.1.length + 63) / 64) src dst tTx eTx eRx m.fTx (cdField (s.ds l).cdEst) adj
  (s.onMar l fun m => { m with sendQ := q.2, mcSent := s.tick.count + 1 }).emit (.burst l h q.1)

/-- The marker of a burst that begins with its tick: its first sync symbol, after 288 symbols of ramp and preamble at 250 MBd (R308). -/
def burstStamp (s : State) (l : Nat) : Nat := txStamp s l + 1152 * nsUnits

/-- A burst may leave in this tick: the role, MC_EN (R80), the transmitter and one burst a tick. -/
def mayBurst (s : State) (l role : Nat) : Bool :=
  marRuns s && (s.ml l).role == role && (s.ds l).mcEn && ((s.cv l).tx.runs || (s.cv l).tx == .mcOnly) && (s.ml l).mcSent != s.tick.count + 1

/-- The superframe tick (R313). -/
def superTick (s : State) : Nat := s.tick.num % 1250

/-- MC_BURST_SEND (R312): a point-to-point end. -/
def execMcBurstSend (l : Fin 2) (s : State) : Res :=
  let m := s.ml l
  if mayBurst s l 1 && s.tick.num % m.period == 0 then
    let e := m.mcEcho.getD (0, 0)
    .next (sendBurst l 1 0x1F 0x1F (burstStamp s l) e.1 e.2 0 s)
  else .next s

/-- HUB_BEACON (R313, Table 10-7). -/
def execHubBeacon (l : Fin 2) (s : State) : Res :=
  if mayBurst s l 2 then
    let m := s.ml l
    let t := superTick s
    let plain := sendBurst l 2 0x1F 0xFF (burstStamp s l) 0 0 0 s
    .next (if 16 ≤ t ∧ t ≤ 31 then
        match m.leafEcho.find? fun e => e.1 == t - 16 with
        | some e => sendBurst l 2 0x1F (t - 16) (burstStamp s l) e.2.1 e.2.2.1 e.2.2.2 s
        | none => plain
      else if 32 ≤ t ∧ t ≤ 624 then
        match m.disc with
        | e :: es => sendBurst l 2 0x1F e.1 (burstStamp s l) e.2.1 e.2.2 0 (s.onMar l fun m => { m with disc := es })
        | [] => plain
      else plain)
  else .next s

/-- LEAF_DISCOVERY_SEND (R314): the tick among 625 to 936 is the leaf's random choice. -/
def execLeafDiscoverySend (l : Fin 2) (s : State) : Res :=
  let m := s.ml l
  let t := superTick s
  if mayBurst s l 3 && m.timed && !m.ranged && !m.sentDisc && 625 ≤ t && t ≤ 936 then
    let e := m.mcEcho.getD (0, 0)
    .next (sendBurst l 4 m.leafId 0x1F (burstStamp s l) e.1 e.2 0 (s.onMar l fun m => { m with sentDisc := true }))
  else .next s

/-- The send time of a leaf burst within the superframe, 2^-16 ns (R314): its marker reaches the hub 1 us after the slot begins. -/
def leafSendTime (m : MartenL) : Nat :=
  (((m.leafId * tickUnits + 1000 * nsUnits : Nat) - m.dUp + m.adj * (nsUnits : Int)) % ((1250 * tickUnits : Nat) : Int)).toNat

/-- LEAF_SLOT_BURST (R314): in the tick that holds the send time. -/
def execLeafSlotBurst (l : Fin 2) (s : State) : Res :=
  let m := s.ml l
  let x := leafSendTime m
  if mayBurst s l 3 && m.ranged && superTick s == x / tickUnits then
    let e := m.mcEcho.getD (0, 0)
    .next (sendBurst l 3 m.leafId 0x1F (s.tick.num * tickUnits + x % tickUnits) e.1 e.2 0 s)
  else .next s

/-- MC is received on a line: a role, the local MC_EN (R440), and converters that run. -/
def mcHears (s : State) (l : Nat) : Bool := marRuns s && (s.ml l).role != 0 && (s.ds l).mcEn && (s.cv l).rx.runs

/-- A sync word has been accepted: BODY, with STRENGTH latched (Table 10-6). -/
def MartenL.synced (m : MartenL) (strength : Option Int) : MartenL :=
  match strength with
  | some v => if m.mcSt = .pre ∨ m.mcSt = .sync then { m with mcSt := .body, strength := some v } else m
  | none => m

/-- MC_PREAMBLE_DETECT (R309): in PRE or SYNC a higher peak restarts; in BODY a preamble stronger than STRENGTH by CAP_MARGIN does. -/
def execMcPreambleDetect (l : Fin 2) (peak : Nat) (x : McPeak) (s : State) : Res :=
  let s0 := s.onMar l fun m => m.synced x.sync
  let m := s0.ml l
  let pre (s : State) : State := s.onMar l fun m => { m with mcSt := .pre, mcPeak := peak }
  if mcHears s l then
    match m.mcSt with
    | .search => .next (pre s0)
    | .pre | .sync => .next (if m.mcPeak < peak then pre s0 else s0)
    | .body => .next (if m.strength.any fun v => decide (v + m.capMargin < x.power) then (pre s0).count 8 2 (2 + l.val) 1 else s0)
  else .next s

/-- MC_SYNC_TIMEOUT (R309). -/
def execMcSyncTimeout (l : Fin 2) (s : State) : Res :=
  if mcHears s l then
    match (s.ml l).mcSt with
    | .pre | .sync => .next ((s.onMar l fun m => { m with mcSt := .search }).count 8 1 (2 + l.val) 1)
    | .search | .body => .next s
  else .next s

/-- Delta for MC: by ASYM_MODE from the MC centre frequencies of the two ends (R311). -/
def mcDelta (s : State) (l : Nat) : Int :=
  let m := s.ml l
  if m.mode = 1 then
    let o := mcOffset (s.ds l)
    let at_ (f : Nat) : Nat := if f = 0 then 0 else ((f : Int) + o).toNat
    (deltaMode1 (s.cv l) m (at_ m.fTx) (at_ m.mcFtx)).getD m.delta
  else m.delta

/-- A burst's echo gives a sample (R311). -/
def mcSample (l : Nat) (h : BurstHdr) (rx : Nat) (s : State) : State :=
  let eTx := fieldTime (burstFld h 383 288)
  let eRx := fieldTime (burstFld h 287 192)
  if eTx = 0 ∧ eRx = 0 then s
  else (s.onMar l fun m =>
    { m with mcOut := m.mcOut + ((eRx : Int) - eTx), mcIn := m.mcIn + ((rx : Int) - fieldTime (burstFld h 479 384)), mcCnt := m.mcCnt + 1 }).count 8 0 (2 + l) 1

/-- A payload waits in the mailbox (R312). -/
def mailPayload (l src : Nat) (b : Burst) (s : State) : State :=
  if b.data.isEmpty || !b.dataOk then s
  else if 16 ≤ (s.ml l).mail.length then s.count 8 5 (2 + l) 1
  else s.onMar l fun m => { m with mail := m.mail ++ [(src, b.power, b.data)] }

/-- A leaf takes a beacon (R314): its time from the first one, an echo from one to itself. -/
def leafTakes (l : Nat) (h : BurstHdr) (rx : Nat) (s : State) : State :=
  let m := s.ml l
  let tTx := fieldTime (burstFld h 479 384)
  let eTx := fieldTime (burstFld h 383 288)
  let eRx := fieldTime (burstFld h 287 192)
  if !m.timed then
    if timeLed s || isFollower s then s.marFault 2
    else if s.isStaged .timeSet 0 then s
    else (s.onMar l fun m => { m with timed := true }).stage .timeSet 0 0 (offsetWords 1 ((tTx : Int) - rx))
  else if burstFld h 487 480 = m.leafId ∧ (eTx ≠ 0 ∨ eRx ≠ 0) then
    let d := dOutOf ((eRx : Int) - eTx) ((rx : Int) - tTx) (psUnits (mcDelta s l))
    s.onMar l fun m => { m with ranged := true, dUp := d, noEcho := 0, adj := m.adj + signed 32 (burstFld h 127 96) }
  else s

/-- The hub takes a leaf burst (R313, R314): placement, ADJ, distance, offset and the echo to send. -/
def hubTakesLeaf (l j : Nat) (h : BurstHdr) (rx : Nat) (power : Int) (s : State) : State :=
  let sf := s.tick.num / 1250 * 1250
  let want := (sf + j) * tickUnits + 1000 * nsUnits
  let off := (want : Int) - rx
  let tTx := fieldTime (burstFld h 479 384)
  let eTx := fieldTime (burstFld h 383 288)
  let eRx := fieldTime (burstFld h 287 192)
  let aOut := (eRx : Int) - eTx
  let aIn := (rx : Int) - tTx
  let d := psUnits (mcDelta s l)
  let s := s.when (decide (2000 * nsUnits < off.natAbs)) fun s => s.count 8 3 (2 + l) 1
  s.onMar l fun m =>
    { m with leafEcho := (m.leafEcho.filter fun e => e.1 != j) ++ [(j, tTx, rx, roundDiv off nsUnits)],
             leaf := m.leaf.upd j fun x => { x with ranged := true, empty := 0, lost := false, strength := power,
                                                    dUp := if eTx = 0 then x.dUp else dInOf aOut aIn d, theta := if eTx = 0 then x.theta else thetaOf aOut aIn d } }

/-- A burst whose header is good (R308, R311 to R314), by the role of the line. -/
def takeBurst (l : Nat) (b : Burst) (rx : Nat) (s : State) : State :=
  let h := b.hdr
  let m := s.ml l
  let type := burstFld h 511 508
  let src := burstFld h 495 488
  let dst := burstFld h 487 480
  let mine := dst == 0xFF || dst == (if m.role = 3 then m.leafId else 0x1F)
  let fits := (m.role == 1 && type == 1) || (m.role == 2 && (type == 3 || type == 4) && src ≤ 15) || (m.role == 3 && type == 2)
  if fits && (mine || m.role == 3) then
    let s := s.onMar l fun m => { m with mcFtx := burstFld h 191 160, mcEcho := some (fieldTime (burstFld h 479 384), rx) }
    let s := if mine then mailPayload l src b (mcSample l h rx s) else s
    if m.role = 3 then leafTakes l h rx s
    else if m.role = 2 then
      if type = 3 then hubTakesLeaf l src h rx b.power s
      else s.onMar l fun m => { m with disc := m.disc ++ [(src, fieldTime (burstFld h 479 384), rx)] }
    else s
  else s

/-- MC_BURST_RX (R309, R310): the receiver returns to SEARCH. -/
def execMcBurstRx (l : Fin 2) (b : Burst) (s : State) : Res :=
  let m := s.ml l
  if mcHears s l && m.mcSt != .search then
    let s := s.onMar l fun m => { m with mcSt := .search, strength := some b.power }
    if !b.hdrOk || burstFld b.hdr 31 0 != burstCrc b.hdr.toNat then
      .next (((s.onMar l fun m => { m with mcGood := false }).count 8 4 (2 + l.val) 1).marFault 7 |>.send 7 1 l (wrapInt 16 b.power))
    else .next (takeBurst l b (addPs b.stamp (-(m.rxPath : Int))) s)
  else .next s

/-- MC_POST (R311): means over MC_AVG samples; a leaf with SRC 4 steers by it. -/
def execMcPost (l : Fin 2) (s : State) : Res :=
  let m := s.ml l
  if marRuns s && m.role != 0 && m.mcAvg ≤ m.mcCnt && m.mcCnt != 0 then
    let aOut := roundDiv m.mcOut m.mcCnt
    let aIn := roundDiv m.mcIn m.mcCnt
    let d := mcDelta s l
    let th := thetaOf aOut aIn (psUnits d)
    let s := s.onMar l fun m =>
      { m with mcPost := { appIn := aIn, appOut := aOut, theta := th, asym := d, valid := m.mcGood, samples := m.mcCnt },
               mcOut := 0, mcIn := 0, mcCnt := 0, mcGood := true, mcMoved := s.tim.slewing }
    .next (if steerSrc s.mar.steer = 4 ∧ m.role = 3 then steerBy th m.mcGood m.mcMoved false s else s)
  else .next s

/-- LEAF_ECHO_LOSS (R314): 16 superframes without an echo. -/
def execLeafEchoLoss (l : Fin 2) (s : State) : Res :=
  if marRuns s && (s.ml l).role == 3 && (s.ml l).ranged && 16 < (s.ml l).noEcho then
    .next (s.onMar l fun m => { m with ranged := false, noEcho := 0 })
  else .next s

/-- HUB_LEAF_LOST (R314): a slot empty for 16 superframes. -/
def execHubLeafLost (l : Fin 2) (j : Fin 16) (s : State) : Res :=
  let x := (s.ml l).leaf.get j
  if marRuns s && (s.ml l).role == 2 && x.ranged && 16 < x.empty then
    .next ((s.onMar l fun m => { m with leaf := m.leaf.upd j fun x => { x with ranged := false, lost := true, empty := 0 } }).marFault 8)
  else .next s

/-! ### The boundary -/

/-- The superframe turns (R313, R314). -/
def superTurn (s : State) (m : MartenL) : MartenL :=
  let t := superTick s
  if t = 0 then
    { m with leafEcho := [], sentDisc := false, noEcho := if m.ranged then m.noEcho + 1 else 0,
             leaf := (List.range 16).foldl (fun (x : Table LeafS) j => x.upd j fun (y : LeafS) => if y.ranged then { y with empty := y.empty + 1 } else y) m.leaf }
  else if t = 625 then { m with disc := [] }
  else m

/-- FR_STATE over the tick that ends, for the window under way (R292). -/
def marSeen (s : State) : State :=
  s.each [0, 1] fun s l => s.onMar l fun m => { m with win := { m.win with allIn := m.win.allIn && (s.fr l).fr == .inFrame } }

/-- Marten on one line at a boundary (R292, R297, R298, R309). -/
def marLineTick (i : TickIn) (s : State) (l : Nat) : State :=
  let run := (s.ds l).rxd == .run
  s.onMar l fun m =>
    let m := superTurn s (if m.calPend && m.calDue then m.capture else m)
    let m := if run then m else { m with cdIn := [], cdOut := [], secIn := [], secOut := [] }
    let m := m.synced ((i.mcSync.find? fun p => p.1.val == l).map Prod.snd)
    let m := if m.mcSt = .pre then { m with mcSt := .sync } else m
    if s.tick.num % max m.ttAvg 1 = 0 then
      { m with dueWin := if m.win.isOpen then { m.win with renum := s.mar.renum, sl0 := m.sl } else m.dueWin, due := m.due || m.win.isOpen,
               win := {}, lastS := none }
    else m

/-- Marten at a boundary. -/
def marTick (i : TickIn) (s : State) : State :=
  let s := if s.mar.stopped then s else marLineTick i (marLineTick i s 0) 1
  if anyDelay s then s else { s with mar := { s.mar with renum := 0 } }

/-! ### Commands (Table 10-9) -/

/-- MARTEN_LINE_CFG (Table 10-10). -/
def cmdMartenLineCfg (_h : CmdHdr) (ws : List Word) (s : State) : CmdRes :=
  let m : MartenL := { cfg := ws }
  needLen ws 7 <|
  need (onlyBits (wd ws 0) 0x1FFFF031 && 125 ≤ m.ttAvg && m.ttAvg ≤ 125000 && m.mode != 3) .badArg 0 <|
  need (m.fTx == 0 || (185000000 ≤ m.fTx && m.fTx ≤ 200000000)) .badArg 1 <|
  need (onlyBits (wd ws 2) 0x3FFFF && m.txPath ≤ 200000) .badArg 2 <| need (onlyBits (wd ws 3) 0x3FFFF && m.rxPath ≤ 200000) .badArg 3 <|
  need (m.asymCal.natAbs ≤ 100000000) .badArg 4 <| need (onlyBits (wd ws 5) 0xFFFF0FFF && 16 ≤ m.driftAvg) .badArg 5 <|
  need (onlyBits (wd ws 6) 0xFFFF && 10 ≤ m.jumpThr && m.jumpThr ≤ 10000) .badArg 6 <|
  stageOne s .martenLine (fld (wd ws 0) 0 0) 0 ws

/-- MARTEN_ASYM_CAL (R297): words 2 and 3 may be omitted. -/
def cmdMartenAsymCal (_h : CmdHdr) (ws : List Word) (s : State) : CmdRes :=
  let l := fld (wd ws 0) 0 0
  let none_ : Word := 0x80000000
  let a := ws.getD 2 none_
  let b := ws.getD 3 none_
  need (ws.length == 2 || ws.length == 4) .badArg (min ws.length 4) <|
  need (onlyBits (wd ws 0) 1) .badArg 0 <| need ((sword (wd ws 1)).natAbs ≤ 100000000) .badArg 1 <|
  need ((a == none_) == (b == none_) && ((s.ml l).mode == 2 || a == none_)) .badArg 2 <|
  stageOne s .martenLine l 1 [wd ws 1, a, b]

/-- MARTEN_STEER (R300). -/
def cmdMartenSteer (_h : CmdHdr) (ws : List Word) (s : State) : CmdRes :=
  let w := wd ws 0
  needLen ws 1 <| need (onlyBits w 0x00FF0107 && steerSrc w ≤ 5 && deadBand w ≤ 100) .badArg 0 <| stageOne s .steer 0 0 ws

/-- MARTEN_PTP_CFG (Table 10-11). -/
def cmdMartenPtpCfg (_h : CmdHdr) (ws : List Word) (s : State) : CmdRes :=
  let w := wd ws 0
  needLen ws 1 <|
  need (onlyBits w 0xFCFF3307 && decide (-7 ≤ sfld w 31 28) && decide (sfld w 31 28 ≤ 0) && fld w 27 26 != 3 && fld w 13 12 ≤ 1) .badArg 0 <|
  stageOne s .ptp (fld w 2 0) 0 ws

/-- MC_CFG (R307, Table 10-12). -/
def cmdMcCfg (_h : CmdHdr) (ws : List Word) (s : State) : CmdRes :=
  let m : MartenL := { mc := ws }
  let l := fld (wd ws 0) 0 0
  needLen ws 2 <|
  need (onlyBits (wd ws 0) 0x00FFFF31 && 10 ≤ m.capMargin && m.capMargin ≤ 200 && (m.role == 0 || (s.ds l).mcEn)) .badArg 0 <|
  need (1 ≤ m.mcAvg && m.mcAvg ≤ 1024 && 8 ≤ m.period && m.period ≤ 12500) .badArg 1 <|
  need (m.role == 0 || (s.ml l).role == 0) .busy 0 <| need (m.role != 3 || (s.cv l).tx == .off) .busy 0 <|
  stageOne s .mc l 0 ws

/-- The bytes of parameter words, byte 4i in [31:24]. -/
def beWords (ws : List Word) : List Byte := ws.flatMap fun w => (wordBytes w).reverse

/-- Words from bytes, byte 4i in [31:24]. -/
def wordsBe (bs : List Byte) : List Word := (wordsOf bs).map fun w => mkWord (beNat (wordBytes w))

/-- MC_SEND (R312). -/
def cmdMcSend (_h : CmdHdr) (ws : List Word) (s : State) : CmdRes :=
  let w := wd ws 0
  let l := fld w 0 0
  let n := fld w 26 16
  need (onlyBits w 0x07FFFF01 && 1 ≤ n && n ≤ 1024 && ((s.ml l).role ≤ 1 || n ≤ 64)) .badArg 0 <| needLen ws (1 + (n + 3) / 4) <|
  need ((s.ml l).sendQ.length < 16) .noResource 0 <|
  .done (s.onMar l fun m => { m with sendQ := m.sendQ ++ [(fld w 15 8, (beWords (ws.drop 1)).take n)] }) []

/-- A leaf's entry in the leaf table (R312). -/
def leafWords (x : LeafS) : List Word :=
  mkWord (bitAt x.ranged 0 + bitAt x.lost 1) :: lohi (wrapInt 64 x.dUp) ++ lohi (wrapInt 64 x.theta) ++ [mkWord (wrapInt 32 x.strength)]

/-- MC_READ (R312). -/
def cmdMcRead (_h : CmdHdr) (ws : List Word) (s : State) : CmdRes :=
  let w := wd ws 0
  let l := fld w 0 0
  needLen ws 1 <| need (onlyBits w 0x301 && fld w 9 8 ≤ 1) .badArg 0 <|
  if fld w 9 8 = 1 then .done s ((List.range 16).flatMap fun j => leafWords ((s.ml l).leaf.get j))
  else match (s.ml l).mail with
    | (src, pw, bs) :: q =>
      .done (s.onMar l fun m => { m with mail := q }) (mkWord (wrapInt 16 pw * 2 ^ 16 + src) :: mkWord bs.length :: wordsBe bs)
    | [] => .fail .notReady 0

def execMartenLineCfg (h : CmdHdr) (ws : List Word) (s : State) : Res := .next (runCmd 0x0701 cmdMartenLineCfg h ws s)
def execMartenAsymCal (h : CmdHdr) (ws : List Word) (s : State) : Res := .next (runCmd 0x0702 cmdMartenAsymCal h ws s)
def execMartenSteer (h : CmdHdr) (ws : List Word) (s : State) : Res := .next (runCmd 0x0703 cmdMartenSteer h ws s)
def execMartenPtpCfg (h : CmdHdr) (ws : List Word) (s : State) : Res := .next (runCmd 0x0704 cmdMartenPtpCfg h ws s)
def execMcCfg (h : CmdHdr) (ws : List Word) (s : State) : Res := .next (runCmd 0x0705 cmdMcCfg h ws s)
def execMcSend (h : CmdHdr) (ws : List Word) (s : State) : Res := .next (runCmd 0x0706 cmdMcSend h ws s)
def execMcRead (h : CmdHdr) (ws : List Word) (s : State) : Res := .next (runCmd 0x0707 cmdMcRead h ws s)

/-- MARTEN_ASYM_CAL takes effect (R297). -/
def applyAsymCal (l : Nat) (ws : List Word) (s : State) : State :=
  let s := s.onMar l fun m =>
    let m := { m with cfg := m.cfg.set 4 (wd ws 0) }
    if m.mode ≠ 2 then m
    else if wd ws 1 = 0x80000000 then MartenL.capture { m with drift := 0, calPend := true, calDue := false }
    else { m with drift := 0, calIn := some (sword (wd ws 1)), calOut := some (sword (wd ws 2)), calPend := false, calDue := false }
  if (s.ml l).mode = 2 then s.onMar l fun m => { m with delta := m.asymCal } else formDelta l s

/-- MC_CFG takes effect (R307): a leaf's transmit side calibrates, and ROLE 0 on a leaf line turns it off. -/
def applyMc (l : Nat) (ws : List Word) (s : State) : State :=
  let was := (s.ml l).role
  let s := s.onMar l fun m =>
    { m with mc := ws, mcSt := .search, mcOut := 0, mcIn := 0, mcCnt := 0, mcGood := true, mcMoved := false, mcEcho := none, leaf := .const {}, disc := [], leafEcho := [],
             ranged := false, timed := false, noEcho := 0, adj := 0, dUp := 0, sentDisc := false }
  let now := (s.ml l).role
  if now = 3 ∧ (s.cv l).optics ≠ 0 ∧ s.lineAllowed l ∧ (s.cv l).tx = .off then
    s.onConv l fun c => { c with tx := .cal, calTick := some (c.calTick.getD 0), pll := true, muted := true, powered := true }
  else if was = 3 ∧ now = 0 then s.onConv l fun c => { c with tx := .off, muted := true, calTick := if c.rx = .cal then c.calTick else none }
  else s

/-- A staged Marten item takes effect at its boundary. -/
def applyMar (g : Staged) (s : State) : State :=
  let w := wd g.ws 0
  match g.item with
  | .martenLine => if g.op = 0 then formDelta g.idx (s.onMar g.idx fun m => { m with cfg := g.ws }) else applyAsymCal g.idx g.ws s
  | .asym => s.onMar g.idx fun m => { m with delta := signed 64 (ofLohi w (wd g.ws 1)), drift := signed 64 (ofLohi (wd g.ws 2) (wd g.ws 3)) }
  | .steer => { s with mar := { s.mar with steer := w, onL1 := false, l0Good := 0, l0Bad := false } }
  | .ptp => s.onPort g.idx fun p => { p with ptp := w }
  | .mc => applyMc g.idx g.ws s
  | _ => s

end Sys2Proof.Machine
end

