-- ==== Sys2Proof/Machine/Crypto.lean ====
section
/-! DEFINITION. The two public algorithms that the manual names by their standards: AES-256-GCM (NIST SP 800-38D, R179) and
SHA-384 (FIPS 180-4, R369). PRESUMED: taken from those standards, which the manual cites without repeating them
(notes/assumptions/9.md). -/

namespace Sys2Proof.Machine

/-! ### AES-256 -/

/-- The substitution box, entry i in bits [8i+7:8i]. -/
def sboxBits : Nat :=
  0x16BB54B00F2D99416842E6BF0D89A18CDF2855CEE9871E9B948ED9691198F8E19E1DC186B95735610EF6034866B53E708A8BBD4B1F74DDE8C6B4A61C2E2578BA08AE7A65EAF4566CA94ED58D6D37C8E779E4959162ACD3C25C2406490A3A32E0DB0B5EDE14B8EE4688902A22DC4F816073195D643D7EA7C41744975FEC130CCDD2F3FF1021DAB6BCF5389D928F40A351A89F3C507F02F94585334D43FBAAEFD0CF584C4A39BECB6A5BB1FC20ED00D153842FE329B3D63B52A05A6E1B1A2C830975B227EBE28012079A059618C323C7041531D871F1E5A534CCF73F362693FDB7C072A49CAFA2D4ADF04759FA7DC982CA76ABD7FE2B670130C56F6BF27B777C63

/-- The substitution of one byte. -/
def sbox (b : Nat) : Nat := sboxBits / 2 ^ (8 * b) % 256

/-- Multiplication by x in the byte field. -/
def xtime (b : Nat) : Nat := if b < 128 then 2 * b else (2 * b ^^^ 0x11B)

/-- The substitution of the four bytes of a word. -/
def subWord (w : Nat) : Nat :=
  sbox (w / 2 ^ 24 % 256) * 2 ^ 24 + sbox (w / 2 ^ 16 % 256) * 2 ^ 16 + sbox (w / 2 ^ 8 % 256) * 2 ^ 8 + sbox (w % 256)

/-- A word rotated left by one byte. -/
def rotWord (w : Nat) : Nat := w * 256 % 2 ^ 32 + w / 2 ^ 24

/-- The round constant of step j. -/
def rcon (j : Nat) : Nat := Nat.rec 1 (fun _ r => xtime r) (j - 1) * 2 ^ 24

/-- The next word of the key schedule, from the words so far, newest first: word i. -/
def nextKeyWord (i : Nat) (ws : List Nat) : Nat :=
  let t := ws.getD 0 0
  let t := if i % 8 = 0 then subWord (rotWord t) ^^^ rcon (i / 8) else if i % 8 = 4 then subWord t else t
  t ^^^ ws.getD 7 0

/-- The key schedule's words, newest first, until n further words are made. -/
def expandKey : Nat → Nat → List Nat → List Nat
  | 0, _, ws => ws
  | n + 1, i, ws => expandKey n (i + 1) (nextKeyWord i ws :: ws)

/-- Words packed into 128-bit round keys. -/
def packKeys : Nat → List Nat → List Nat
  | 0, _ => []
  | n + 1, ws => (ws.take 4).foldl (fun a w => a * 2 ^ 32 + w) 0 :: packKeys n (ws.drop 4)

/-- The 15 round keys of a 256-bit key. -/
def roundKeys (key : Nat) : List Nat :=
  packKeys 15 (expandKey 52 8 ((List.range 8).map fun i => key / 2 ^ (32 * i) % 2 ^ 32)).reverse

/-- Byte i of a block, the first sent being byte 0. -/
def blkByte (x i : Nat) : Nat := x / 2 ^ (8 * (15 - i)) % 256

/-- A block from its bytes. -/
def mkBlk (bs : List Nat) : Nat := bs.foldl (fun a b => a * 256 + b) 0

/-- Substitution and row shift of a block: byte i comes from byte 5i mod 16. -/
def subShift (x : Nat) : Nat := mkBlk ((List.range 16).map fun i => sbox (blkByte x (5 * i % 16)))

/-- One column byte of the column mix. -/
def mixByte (x i : Nat) : Nat :=
  let c := i / 4 * 4
  let b (k : Nat) : Nat := blkByte x (c + (i + k) % 4)
  xtime (b 0) ^^^ (xtime (b 1) ^^^ b 1) ^^^ b 2 ^^^ b 3

/-- The column mix of a block. -/
def mixColumns (x : Nat) : Nat := mkBlk ((List.range 16).map (mixByte x))

/-- The rounds after the first key. -/
def aesRounds : List Nat → Nat → Nat
  | [], x => x
  | [k], x => subShift x ^^^ k
  | k :: k' :: ks, x => aesRounds (k' :: ks) (mixColumns (subShift x) ^^^ k)

/-- AES with the round keys given. -/
def aesBlock (ks : List Nat) (x : Nat) : Nat :=
  match ks with
  | [] => x
  | k :: ks => aesRounds ks (x ^^^ k)

/-! ### GCM -/

/-- The loop of multiplication in the 128-bit field of GCM. -/
def gfLoop : Nat → Nat → Nat → Nat → Nat
  | 0, _, z, _ => z
  | n + 1, x, z, v => gfLoop n x (if x.testBit n then z ^^^ v else z) (if v % 2 = 0 then v / 2 else (v / 2 ^^^ 0xE1 * 2 ^ 120))

/-- Multiplication in the field of GCM. -/
def gfMul (x y : Nat) : Nat := gfLoop 128 x 0 y

/-- Bytes as 128-bit blocks, the last padded with zeros. -/
def blocksOf : Nat → List Byte → List Nat
  | 0, _ => []
  | n + 1, bs => beNat ((bs.take 16) ++ List.replicate (16 - (bs.take 16).length) 0) :: blocksOf n (bs.drop 16)

/-- All blocks of a byte list. -/
def toBlocks (bs : List Byte) : List Nat := blocksOf ((bs.length + 15) / 16) bs

/-- GHASH. -/
def ghash (h : Nat) (xs : List Nat) : Nat := xs.foldl (fun y x => gfMul (y ^^^ x) h) 0

/-- The counter block n steps after the first. -/
def ctrBlock (iv n : Nat) : Nat := iv * 2 ^ 32 + (1 + n) % 2 ^ 32

/-- The key stream of n blocks, as bytes. -/
def keyStream (ks : List Nat) (iv n : Nat) : List Byte := (List.range n).flatMap fun i => beBytes 16 (aesBlock ks (ctrBlock iv (i + 1)))

/-- Encryption and decryption in counter mode: the bytes with the key stream added. -/
def gcmCrypt (key iv : Nat) (bs : List Byte) : List Byte :=
  bs.zipWith (· ^^^ ·) (keyStream (roundKeys key) iv ((bs.length + 15) / 16))

/-- The tag over additional data and ciphertext. -/
def gcmTag (key iv : Nat) (aad ct : List Byte) : Nat :=
  let ks := roundKeys key
  let h := aesBlock ks 0
  ghash h (toBlocks aad ++ toBlocks ct ++ [8 * aad.length * 2 ^ 64 + 8 * ct.length]) ^^^ aesBlock ks (ctrBlock iv 0)

/-! ### SHA-384 -/

/-- Round constants, part 0. -/
def shaK0 : List Nat :=
  [0x428A2F98D728AE22, 0x7137449123EF65CD, 0xB5C0FBCFEC4D3B2F, 0xE9B5DBA58189DBBC, 0x3956C25BF348B538,
   0x59F111F1B605D019, 0x923F82A4AF194F9B, 0xAB1C5ED5DA6D8118, 0xD807AA98A3030242, 0x12835B0145706FBE,
   0x243185BE4EE4B28C, 0x550C7DC3D5FFB4E2, 0x72BE5D74F27B896F, 0x80DEB1FE3B1696B1, 0x9BDC06A725C71235,
   0xC19BF174CF692694, 0xE49B69C19EF14AD2, 0xEFBE4786384F25E3, 0x0FC19DC68B8CD5B5, 0x240CA1CC77AC9C65]

/-- Round constants, part 1. -/
def shaK1 : List Nat :=
  [0x2DE92C6F592B0275, 0x4A7484AA6EA6E483, 0x5CB0A9DCBD41FBD4, 0x76F988DA831153B5, 0x983E5152EE66DFAB,
   0xA831C66D2DB43210, 0xB00327C898FB213F, 0xBF597FC7BEEF0EE4, 0xC6E00BF33DA88FC2, 0xD5A79147930AA725,
   0x06CA6351E003826F, 0x142929670A0E6E70, 0x27B70A8546D22FFC, 0x2E1B21385C26C926, 0x4D2C6DFC5AC42AED,
   0x53380D139D95B3DF, 0x650A73548BAF63DE, 0x766A0ABB3C77B2A8, 0x81C2C92E47EDAEE6, 0x92722C851482353B]

/-- Round constants, part 2. -/
def shaK2 : List Nat :=
  [0xA2BFE8A14CF10364, 0xA81A664BBC423001, 0xC24B8B70D0F89791, 0xC76C51A30654BE30, 0xD192E819D6EF5218,
   0xD69906245565A910, 0xF40E35855771202A, 0x106AA07032BBD1B8, 0x19A4C116B8D2D0C8, 0x1E376C085141AB53,
   0x2748774CDF8EEB99, 0x34B0BCB5E19B48A8, 0x391C0CB3C5C95A63, 0x4ED8AA4AE3418ACB, 0x5B9CCA4F7763E373,
   0x682E6FF3D6B2B8A3, 0x748F82EE5DEFB2FC, 0x78A5636F43172F60, 0x84C87814A1F0AB72, 0x8CC702081A6439EC]

/-- Round constants, part 3. -/
def shaK3 : List Nat :=
  [0x90BEFFFA23631E28, 0xA4506CEBDE82BDE9, 0xBEF9A3F7B2C67915, 0xC67178F2E372532B, 0xCA273ECEEA26619C,
   0xD186B8C721C0C207, 0xEADA7DD6CDE0EB1E, 0xF57D4F7FEE6ED178, 0x06F067AA72176FBA, 0x0A637DC5A2C898A6,
   0x113F9804BEF90DAE, 0x1B710B35131C471B, 0x28DB77F523047D84, 0x32CAAB7B40C72493, 0x3C9EBE0A15C9BEBC,
   0x431D67C49C100D4C, 0x4CC5D4BECB3E42B6, 0x597F299CFC657E2A, 0x5FCB6FAB3AD6FAEC, 0x6C44198C4A475817]

/-- The round constants. -/
def shaK : List Nat := shaK0 ++ shaK1 ++ shaK2 ++ shaK3

/-- The initial hash value. -/
def shaInit : List Nat :=
  [0xCBBB9D5DC1059ED8, 0x629A292A367CD507, 0x9159015A3070DD17, 0x152FECD8F70E5939,
   0x67332667FFC00B31, 0x8EB44A8768581511, 0xDB0C2E0D64F98FA7, 0x47B5481DBEFA4FA4]

/-- A 64-bit rotation right. -/
def ror64 (n x : Nat) : Nat := x / 2 ^ n + x % 2 ^ n * 2 ^ (64 - n)

/-- The message schedule, newest first, until n further words are made. -/
def shaSchedule : Nat → List Nat → List Nat
  | 0, ws => ws
  | n + 1, ws =>
    let a := ws.getD 1 0
    let b := ws.getD 14 0
    let s1 := ror64 19 a ^^^ ror64 61 a ^^^ a / 2 ^ 6
    let s0 := ror64 1 b ^^^ ror64 8 b ^^^ b / 2 ^ 7
    shaSchedule n ((s1 + ws.getD 6 0 + s0 + ws.getD 15 0) % 2 ^ 64 :: ws)

/-- One round on the eight working variables. -/
def shaRound (v : List Nat) (kw : Nat × Nat) : List Nat :=
  match v with
  | [a, b, c, d, e, f, g, h] =>
    let s1 := ror64 14 e ^^^ ror64 18 e ^^^ ror64 41 e
    let ch := (e &&& f) ^^^ ((2 ^ 64 - 1 - e) &&& g)
    let t1 := h + s1 + ch + kw.1 + kw.2
    let s0 := ror64 28 a ^^^ ror64 34 a ^^^ ror64 39 a
    let mj := (a &&& b) ^^^ (a &&& c) ^^^ (b &&& c)
    [(t1 + s0 + mj) % 2 ^ 64, a, b, c, (d + t1) % 2 ^ 64, e, f, g]
  | _ => v

/-- One block of 16 words into the hash value. -/
def shaBlock (hv : List Nat) (ws : List Nat) : List Nat :=
  let w := (shaSchedule 64 ws.reverse).reverse
  (hv.zipWith (fun a b => (a + b) % 2 ^ 64) ((shaK.zip w).foldl shaRound hv))

/-- The padded message as 64-bit words. -/
def shaWords : Nat → List Byte → List Nat
  | 0, _ => []
  | n + 1, bs => beNat (bs.take 8) :: shaWords n (bs.drop 8)

/-- The blocks of a padded message into the hash value. -/
def shaRun : Nat → List Nat → List Nat → List Nat
  | 0, hv, _ => hv
  | n + 1, hv, ws => shaRun n (shaBlock hv (ws.take 16)) (ws.drop 16)

/-- The SHA-384 of a byte string, as 48 bytes. -/
def sha384 (bs : List Byte) : List Byte :=
  let z := (239 - bs.length % 128) % 128
  let m := bs ++ [0x80] ++ List.replicate z 0 ++ beBytes 16 (8 * bs.length)
  ((shaRun (m.length / 128) shaInit (shaWords (m.length / 8) m)).take 6).flatMap (beBytes 8)

end Sys2Proof.Machine
end

