-- ==== Sys2Proof/Machine/Nutmeg.lean ====
section
/-! DEFINITION. Chapter 6: Nutmeg's associations, keys and their activation, the protected frame, dual computation, and the SA
commands. -/

namespace Sys2Proof.Machine

/-! ### Readings -/

/-- Fields of the SA word (Table 6-7). -/
def saMode (w : Word) : Nat := fld w 1 0
def saWin (w : Word) : Nat := fld w 13 8
def saMark (w : Word) : Nat := fld w 31 16

/-- Direction bit of a pipeline or a count: 0 transmit, 1 receive. -/
def dirOf (rx : Bool) : Nat := if rx then 1 else 0

/-- The fence register of a direction. -/
def NutS.fence (n : NutS) (rx : Bool) : BitVec 32 := if rx then n.fenceRx else n.fenceTx

/-- DSTATE of a direction. -/
def NutS.dstate (n : NutS) (rx : Bool) : DState := if rx then n.rxD else n.txD

/-- Unfenced pipelines of a direction, primary or redundant, ascending (R196). -/
def openPipes (n : NutS) (rx red : Bool) : List Nat :=
  (List.range 16).filter fun i => !(n.fence rx).getLsbD (if red then 16 + i else i)

/-- Lanes in service (R198): the smaller of the unfenced primary and redundant counts. -/
def lanesIn (n : NutS) (rx : Bool) : Nat := min (openPipes n rx false).length (openPipes n rx true).length

/-- DSTATE for a number of lanes (R198). -/
def dstateOf (lanes : Nat) : DState := if 16 ≤ lanes then .run else if 12 ≤ lanes then .degraded else .failed

/-- The primary and redundant pipelines of a lane in this tick (R196). -/
def lanePair (s : State) (rx : Bool) (lane : Nat) : Nat × Nat :=
  let p := openPipes s.nut rx false
  let r := openPipes s.nut rx true
  (p.getD (lane % max p.length 1) 0, r.getD ((lane + s.tick.num) % max r.length 1) 0)

/-- The number of a pipeline in the strike record. -/
def pipeNo (rx red : Bool) (n : Nat) : Nat := 32 * dirOf rx + (if red then 16 else 0) + n

/-- Set the transmit direction's or the receive direction's DSTATE. -/
def setDstate (rx : Bool) (d : DState) (s : State) : State :=
  { s with nut := if rx then { s.nut with rxD := d } else { s.nut with txD := d } }

/-- DSTATE follows the fence count; a direction that becomes FAILED raises DIR_FAIL and sends its message (R198). -/
def updateDstate (rx : Bool) (s : State) : State :=
  let d := dstateOf (lanesIn s.nut rx)
  let fell := d == .failed && s.nut.dstate rx != .failed
  let s := setDstate rx d s
  s.when fell fun s => (s.nutFault 3).send 1 5 0 (dirOf rx)

/-! ### Keys (R180 to R186) -/

/-- A half with nothing in it. -/
def noHalf : HalfS := {}

/-- The staging words are zeroised (R182). -/
def clearStage (s : State) : State := { s with nut := { s.nut with stage := [], wrMask := 0, stageTicks := 0 } }

/-- NUT_KEY_STAGE_WRITE (R182): word i, 8 being the salt. -/
def execNutKeyStageWrite (i : Fin 9) (val : Word) (s : State) : Res :=
  if s.up then
    let st := (s.nut.stage ++ List.replicate 9 0).take 9
    .next { s with nut := { s.nut with stage := st.set i val, wrMask := putBit s.nut.wrMask i true, stageTicks := 0 } }
  else .next s

/-- The result code of a GO (R181, Table 6-5): while NUT_ZEROISE runs every GO is refused as STAGED (R203); else the first reason that
holds, 0 when none does. -/
def goResult (s : State) (n : Nat) (rx : Bool) : Nat :=
  let a := s.sa n
  if s.nut.zeroising.isSome then 4
  else if s.nut.wrMask ≠ 0x1FF then 1
  else if (if rx then a.rxNxt.valid else a.txNxt.valid) then 2
  else if rx ∧ a.alias_ then 3
  else if s.isStaged .sa n then 4
  else if a.faulted then 5
  else 0

/-- NUT_KEY_GO (R180 to R182): a load that is not refused is staged; the staging words are zeroised either way, and BUSY lasts 128
cycles of the cipher clock, 64 ns. -/
def execNutKeyGo (val : Word) (s : State) : Res :=
  if s.up && flag val 31 then
    let n := fld val 12 0
    let rx := flag val 16
    let r := goResult s n rx
    let s' := if r = 0 then s.stage .sa n 6 (mkWord (dirOf rx) :: s.nut.stage) else s
    .next (clearStage { s' with nut := { s'.nut with result := r, busyTill := if r = 0 then s.now + 64 * nsUnits else s.nut.busyTill } })
  else .next s

/-- KEY_STAGING_TIMEOUT (R182). -/
def execKeyStagingTimeout (s : State) : Res :=
  if s.up && s.nut.wrMask != 0 && 125 ≤ s.nut.stageTicks then .next (clearStage s) else .next s

/-- The half that a load makes (R180): a transmit half starts at PN 1. -/
def loadedHalf (rx : Bool) (ws : List Word) : HalfS :=
  { valid := true, key := BitVec.ofNat 256 ((ws.take 8).foldl (fun a w => a * 2 ^ 32 + w.toNat) 0), salt := wd ws 8, pn := if rx then 0 else 1 }

/-- TX_MARK changes at this boundary: the partly filled cell of the flow is closed first (R184). -/
def setMark (n left : Nat) (s : State) : State :=
  let s := if slotNow s n == (left != 0) then s else closeCell n s
  s.onSa n fun a => { a with markLeft := left, markDue := false }

/-- The words of the key store that hold a half: 18 words an SA, 288 bits a half (Table 8-2). Halves: 0 transmit current, 1 transmit
next, 2 receive current, 3 receive next; halves 0 and 1 share word 4, halves 2 and 3 word 13. -/
def halfWords (n half : Nat) : Nat × Nat :=
  match half with
  | 0 => (18 * n, 5)
  | 1 => (18 * n + 4, 5)
  | 2 => (18 * n + 9, 5)
  | _ => (18 * n + 13, 5)

/-- The word that a half shares with its partner, and the partner. -/
def sharedWord (n half : Nat) : Nat := if half < 2 then 18 * n + 4 else 18 * n + 13
def partnerOf (half : Nat) : Nat :=
  match half with
  | 0 => 1
  | 1 => 0
  | 2 => 3
  | _ => 2

/-- A half of an association by its number. -/
def SaS.half (a : SaS) (half : Nat) : HalfS :=
  match half with
  | 0 => a.txCur
  | 1 => a.txNxt
  | 2 => a.rxCur
  | _ => a.rxNxt

/-- A half of an association put in place. -/
def SaS.putHalf (a : SaS) (half : Nat) (h : HalfS) : SaS :=
  match half with
  | 0 => { a with txCur := h }
  | 1 => { a with txNxt := h }
  | 2 => { a with rxCur := h }
  | _ => { a with rxNxt := h }

/-- Uncorrectable key halves (R199): zeroised and invalid, the SA faulted. -/
def keyUncorrectable (n : Nat) (halves : List Nat) (s : State) : State :=
  let s := s.onSa n fun a => halves.foldl (fun a h => a.putHalf h noHalf) { a with faulted := true }
  let s := s.each halves fun s h => sramWrite 0 (halfWords n h).1 (halfWords n h).2 s
  (s.nutFault 4).send 1 4 n 0

/-- A half is written into the key store: the word that it shares is read first, and where that is lost the partner is lost with it. -/
def writeHalf (n half : Nat) (s : State) : State :=
  let r := sramUse 0 (sharedWord n half) 1 s
  let p := partnerOf half
  let s := if r.1 || !((r.2.sa n).half p).valid then r.2 else keyUncorrectable n [p] r.2
  sramWrite 0 (halfWords n half).1 (halfWords n half).2 s

/-- Both halves of a direction are written: nine words of their own. -/
def writePair (n : Nat) (rx : Bool) (s : State) : State := sramWrite 0 (18 * n + 9 * dirOf rx) 9 s

/-- A half's words hold one that cannot be delivered. -/
def halfBad (s : State) (n half : Nat) : Bool := (badWords s 0 (halfWords n half).1 (halfWords n half).2).any fun i => maskBad (sramMask s 0 i)

/-- A half is read from the key store for use or promotion (R199): an uncorrectable one is lost, and so is a valid half that shares
the word that was lost. -/
def readHalf (n half : Nat) (s : State) : State :=
  if ((s.sa n).half half).valid then
    let r := sramUse 0 (halfWords n half).1 (halfWords n half).2 s
    if r.1 then r.2
    else keyUncorrectable n ((List.range 4).filter fun h => h == half || (((r.2.sa n).half h).valid && halfBad r.2 n h)) r.2
  else s

/-- A whole SA is zeroised (R206, SCOPE 2): halves, TX_MARK, ALIAS, PN, replay state and fault; its configuration stays. -/
def clearSa (n : Nat) (s : State) : State := sramWrite 0 (18 * n) 18 ((setMark n 0 s).onSa n fun a => { cfg := a.cfg })

/-- The policy allows a mode (R177). -/
def modeOk (n : NutS) (mode : Nat) : Bool := (mode != 1 || n.bypassAllow) && (mode != 2 || n.authAllow)

/-- A staged SA item takes effect (R177, R180, R183, R186, R189, R206). A PN that frames have passed since SA_PN_ADVANCE stays (R179). -/
def applySa (g : Staged) (s : State) : State :=
  let n := g.idx
  let w := wd g.ws 0
  match g.op with
  | 0 =>
    let w := if s.nut.locked ∧ !modeOk s.nut (saMode w) then w &&& ~~~(3 : Word) else w
    s.onSa n fun a => { a with cfg := w }
  | 1 =>
    let s := readHalf n 1 s
    if (s.sa n).txNxt.valid then
      writePair n false <| (setMark n (125 * saMark (s.sa n).cfg) s).onSa n fun a => { a with txCur := a.txNxt, txNxt := noHalf, rekeyDue := false, exhausted := false }
    else s
  | 2 =>
    let s := readHalf n 3 s
    if (s.sa n).rxNxt.valid then writePair n true <| s.onSa n fun a => { a with rxCur := a.rxNxt, rxNxt := noHalf, alias_ := true } else s
  | 3 =>
    match fld w 17 16 with
    | 0 => writeHalf n 1 (s.onSa n fun a => { a with txNxt := noHalf })
    | 1 => writeHalf n 3 (s.onSa n fun a => { a with rxNxt := noHalf })
    | _ => clearSa n s
  | 4 => s.onSa n fun a => { a with alias_ := false }
  | 5 => s.onSa n fun a => { a with txCur := { a.txCur with pn := max a.txCur.pn (ofLohi (wd g.ws 0) (wd g.ws 1)) } }
  | _ =>
    let rx := flag w 0
    writeHalf n (if rx then 3 else 1) <| s.onSa n fun a => if rx then { a with rxNxt := loadedHalf true (g.ws.drop 1) } else { a with txNxt := loadedHalf false (g.ws.drop 1) }

/-- TX_MARK_EXPIRE (R183, R184): the marking period is in its last tick, and the boundary that ends it clears TX_MARK. -/
def execTxMarkExpire (n : Fin 8192) (s : State) : Res :=
  if s.up && (s.sa n).markLeft == 1 then .next (s.onSa n fun a => { a with markDue := true }) else .next s

/-! ### The protected frame (R178, R179) -/

/-- The descriptor of a flow in a mode (Table 6-2). -/
def descriptor (mode f : Nat) : List Byte := beBytes 4 (2 ^ 28 + mode % 4 * 2 ^ 26 + f % 8192)

/-- The IV: salt and PN (R179). -/
def gcmIv (h : HalfS) (pn : Nat) : Nat := h.salt.toNat * 2 ^ 64 + pn

/-- A frame sealed under a half (R178, R179). -/
def sealFrame (mode f : Nat) (h : HalfS) (pn : Nat) (pt : List Byte) : List Byte :=
  let aad := descriptor mode f ++ beBytes 8 pn
  let k := h.key.toNat
  let iv := gcmIv h pn
  if mode = 3 then
    let ct := gcmCrypt k iv pt
    aad ++ ct ++ beBytes 16 (gcmTag k iv aad ct)
  else aad ++ pt ++ beBytes 16 (gcmTag k iv (aad ++ pt) [])

/-- The tag of a received frame is right (R190 check 5). -/
def tagOk (mode : Nat) (h : HalfS) (pn : Nat) (d : List Byte) : Bool :=
  let aad := d.take 12
  let body := (d.drop 12).take (d.length - 28)
  let k := h.key.toNat
  let iv := gcmIv h pn
  beNat (d.drop (d.length - 16)) == (if mode = 3 then gcmTag k iv aad body else gcmTag k iv (aad ++ body) [])

/-- The client frame inside a received frame whose tag is right. -/
def openFrame (mode : Nat) (h : HalfS) (pn : Nat) (d : List Byte) : List Byte :=
  let body := (d.drop 12).take (d.length - 28)
  if mode = 3 then gcmCrypt h.key.toNat (gcmIv h pn) body else body

/-! ### Dual computation (R196 to R198) -/

/-- A strike on a pipeline: two in different ticks within 1,024 fence it at the next boundary. -/
def strike (p : Nat) (s : State) : State :=
  let t := s.tick.count
  let hit := match s.nut.strike.get p with
    | some u => u != t && decide (t - u ≤ 1024)
    | none => false
  { s with nut := { s.nut with strike := s.nut.strike.set p (some t), fenceDue := if hit && !s.nut.fenceDue.contains p then s.nut.fenceDue ++ [p] else s.nut.fenceDue } }

/-- A failed comparison on a frame (R197): counted, recorded, reported, and a strike on both pipelines. -/
def mismatched (rx : Bool) (n lane : Nat) (s : State) : State :=
  let pr := lanePair s rx lane
  let s := s.count 5 5 n 1
  let s := { s with nut := { s.nut with last := mkWord (dirOf rx * 2 ^ 31 + pr.1 * 2 ^ 24 + pr.2 * 2 ^ 20 + n) } }
  let s := (s.nutFault (dirOf rx)).send 1 (1 + dirOf rx) n (pr.1 * 16 + pr.2)
  strike (pipeNo rx true pr.2) (strike (pipeNo rx false pr.1) s)

/-- PIPELINE_FENCE (R198): a pipeline with two strikes is fenced by the next boundary. -/
def execPipelineFence (rx red : Bool) (n : Fin 16) (s : State) : Res :=
  let p := pipeNo rx red n
  if s.up && s.nut.fenceDue.contains p then
    .next { s with nut := { s.nut with fenceDue := s.nut.fenceDue.filter (· != p), fenceNow := s.nut.fenceNow ++ [p] } }
  else .next s

/-- A pipeline is fenced at its boundary (R198): its bit, FENCE, the message and DSTATE. -/
def fencePipe (p : Nat) (s : State) : State :=
  let rx := 32 ≤ p
  let b := (if 16 ≤ p % 32 then 16 else 0) + p % 16
  let s := { s with nut := if rx then { s.nut with fenceRx := putBit s.nut.fenceRx b true } else { s.nut with fenceTx := putBit s.nut.fenceTx b true } }
  let s := (s.nutFault 2).send 1 3 (p % 16) (dirOf rx * 256 + (if 16 ≤ p % 32 then 16 else 0))
  s.when (s.nut.dstate rx != .selftest) (updateDstate rx)

/-- NUT_SELFTEST_END (R202): pipelines that failed the known-answer test are fenced. -/
def execNutSelftestEnd (badTx badRx : BitVec 32) (s : State) : Res :=
  if s.up && s.nut.txD == .selftest && 8 ≤ s.tick.count then
    let s := { s with nut := { s.nut with fenceTx := s.nut.fenceTx ||| badTx, fenceRx := s.nut.fenceRx ||| badRx } }
    let s := s.when (badTx != 0 || badRx != 0) fun s => s.nutFault 9
    .next (updateDstate true (updateDstate false s))
  else .next s

/-! ### Transmit and receive (R188 to R195) -/

/-- The frame at place i of a queue may run: no earlier frame of its flow waits (R193). -/
def mayRun (q : List NutFrame) (i : Nat) : Option NutFrame :=
  match q[i]? with
  | some f => if (q.take i).any fun g => g.flow == f.flow then none else some f
  | none => none

/-- Blocks of a frame (R194): the frame without FCS in 16-byte blocks, and the tag counter's. -/
def frameBlocks (len : Nat) : Nat := (len + 15) / 16 + 1

/-- An overload drop applies (R195): 12 or 13 lanes, and not class C7. -/
def overloaded (s : State) (rx : Bool) (x : NutRun) (f : NutFrame) : Bool :=
  let k := lanesIn s.nut rx
  x.overload && decide (12 ≤ k) && decide (k ≤ 13) && f.cls != 7

/-- A transmit half issues its next PN (R188): REKEY_DUE at 2^64 - 2^32, exhaustion after 2^64 - 1. -/
def issuePn (n : Nat) (s : State) : State :=
  let a := s.sa n
  let pn := a.txCur.pn
  let due := decide (2 ^ 64 - 2 ^ 32 ≤ pn) && !a.rekeyDue
  let last := decide (2 ^ 64 - 1 ≤ pn)
  let s := s.onSa n fun a => { a with txCur := { a.txCur with pn := pn + 1 }, rekeyDue := a.rekeyDue || due, exhausted := a.exhausted || last }
  let s := s.when due fun s => (s.nutFault 6).log { cls := 1, src := 150, data := [mkWord n, 0, 0] }
  s.when last fun s => s.nutFault 7

/-- A frame leaves its lane: behind a C7 frame the frame suspended there is resumed (R200). -/
def resumeLane (rx : Bool) (lane : Nat) (f : NutFrame) (s : State) : State :=
  if f.cls = 7 then { s with nut := { s.nut with suspended := s.nut.suspended.filter fun y => !(y.rx == rx && y.lane == lane) } } else s

/-- A frame leaves the queue of its direction, to be processed on its lane (R197, R200). -/
def takeFrame (rx : Bool) (x : NutRun) (f : NutFrame) (s : State) : State :=
  resumeLane rx x.lane f
    { s with nut := { s.nut with txQ := if rx then s.nut.txQ else s.nut.txQ.eraseIdx x.idx
                                 rxQ := if rx then s.nut.rxQ.eraseIdx x.idx else s.nut.rxQ } }

/-- What becomes of a frame on transmit (R176, R178, R179, R188, R195, R197): it goes to the cell builder, or is dropped and counted. -/
def encryptFrame (x : NutRun) (f : NutFrame) (s : State) : State :=
  let n := f.flow
  let mode := saMode (s.sa n).cfg
  if s.nut.txD = .failed then s.count 5 5 n 1
  else if overloaded s false x f then (s.count 5 6 n 1).nutFault 8
  else if mode = 0 then s.count 5 8 n 1
  else if mode = 1 then
    buildCells n (descriptor 1 n ++ f.data) ((s.count 5 9 n 1).count 5 0x21 0 (frameBlocks f.data.length))
  else if (s.sa n).exhausted then s.count 5 7 n 1
  else
    let s := readHalf n 0 s
    let h := (s.sa n).txCur
    if !h.valid then s.count 5 2 n 1
    else
      let s := (issuePn n s).count 5 0x21 0 (frameBlocks f.data.length)
      if x.mismatch then mismatched false n x.lane s
      else buildCells n (sealFrame mode n h h.pn f.data) (s.count 5 9 n 1)

/-- NUT_ENCRYPT (R179, R193): one frame of the transmit input passes a lane. -/
def execNutEncrypt (x : NutRun) (s : State) : Res :=
  match mayRun s.nut.txQ x.idx with
  | some f =>
    if s.up then .next (encryptFrame x f (takeFrame false x f s))
    else .next s
  | none => .next s

/-- The receive half that a frame's SLOT chooses (Table 6-3), and whether it is the next one. -/
def rxHalf (a : SaS) (slot : Bool) : HalfS × Bool := if slot && !a.alias_ then (a.rxNxt, true) else (a.rxCur, false)

/-- A PN passes the replay window (R190, R191). -/
def pnFresh (win : Nat) (h : HalfS) (pn : Nat) : Bool :=
  pn != 0 && (decide (h.pn < pn) || (decide (h.pn < pn + win) && !h.seen.getLsbD (h.pn - pn)))

/-- The replay state after an accepted PN (R191). -/
def pnAccept (h : HalfS) (pn : Nat) : HalfS :=
  if h.pn < pn then { h with pn := pn, seen := if 64 ≤ pn - h.pn then 1 else putBit (h.seen <<< (pn - h.pn)) 0 true }
  else { h with seen := putBit h.seen (h.pn - pn) true }

/-- A frame that authenticated moves the association on (R185, R186): it stages a promotion or the end of ALIAS. -/
def keyMove (n : Nat) (slot next : Bool) (s : State) : State :=
  let a := s.sa n
  if s.isStaged .sa n then s
  else if next then s.stage .sa n 2 []
  else if !slot && a.alias_ then s.stage .sa n 4 []
  else s

/-- A frame whose tag verified (R186, R191, R192): replay state, key movement, egress. -/
def acceptRx (mode : Nat) (f : NutFrame) (pn : Nat) (s : State) : State :=
  let n := f.flow
  let h := rxHalf (s.sa n) f.slot
  let pt := openFrame mode h.1 pn f.data
  let s := s.onSa n fun a => if h.2 then { a with rxNxt := pnAccept a.rxNxt pn } else { a with rxCur := pnAccept a.rxCur pn }
  toEgress n pt ((keyMove n f.slot h.2 s).count 5 0xA n 1)

/-- A frame that failed authentication: AUTH is raised once in a tick (R192). -/
def authFail (n : Nat) (s : State) : State :=
  let first := !s.nut.authTick
  let s := s.count 5 4 n 1
  State.when { s with nut := { s.nut with authTick := true } } first fun s => s.nutFault 5

/-- What becomes of a frame on receive (R190 to R192, R195, R197): the checks in their order, then egress. -/
def receiveFrame (x : NutRun) (f : NutFrame) (s : State) : State :=
  let n := f.flow
  let d := f.data
  let mode := saMode (s.sa n).cfg
  let pn := beAt d 4 8
  if s.nut.rxD = .failed then s.count 5 5 n 1
  else if overloaded s true x f then (s.count 5 6 n 1).nutFault 8
  else if d.length < 4 ∨ beAt d 0 4 / 2 ^ 28 ≠ 1 ∨ beAt d 0 4 % 8192 ≠ n then s.count 5 0 n 1
  else if beAt d 0 4 / 2 ^ 26 % 4 ≠ mode ∨ mode = 0 then s.count 5 1 n 1
  else if mode = 1 then toEgress n (d.drop 4) ((s.count 5 0xA n 1).count 5 0x21 1 (frameBlocks (d.length - 4)))
  else
    let s := readHalf n (if f.slot && !(s.sa n).alias_ then 3 else 2) s
    let a := s.sa n
    let h := (rxHalf a f.slot).1
    if !h.valid then s.count 5 2 n 1
    else if !pnFresh (saWin a.cfg) h pn then s.count 5 3 n 1
    else
      let s := s.count 5 0x21 1 (frameBlocks (d.length - 28))
      if x.mismatch then mismatched true n x.lane s
      else if d.length < 28 ∨ !tagOk mode h pn d then authFail n s
      else acceptRx mode f pn s

/-- NUT_RX_FRAME (R190, R193): one frame of the receive input passes a lane. -/
def execNutRxFrame (x : NutRun) (s : State) : Res :=
  match mayRun s.nut.rxQ x.idx with
  | some f =>
    if s.up then .next (receiveFrame x f (takeFrame true x f s))
    else .next s
  | none => .next s

/-- The job that a C7 frame displaces (R200): of the other classes, on a lane without a suspended frame, the most blocks left. -/
def victim (s : State) (rx : Bool) (jobs : List LaneJob) : Option LaneJob :=
  (jobs.filter fun j => j.cls != 7 && !(s.nut.suspended.any fun y => y.rx == rx && y.lane == j.lane.val)).foldl
    (fun b j => match b with
      | some k => if k.left < j.left then some j else some k
      | none => some j) none

/-- C7_PREEMPT (R200): with a C7 frame whole and every lane busy, one frame of another class is suspended, its counter and GHASH state
saved. -/
def execC7Preempt (rx : Bool) (jobs : List LaneJob) (s : State) : Res :=
  let q := if rx then s.nut.rxQ else s.nut.txQ
  if s.up && (q.any fun f => f.cls == 7) && lanesIn s.nut rx ≤ jobs.length then
    match victim s rx jobs with
    | some j =>
      let y : SuspS := { rx := rx, lane := j.lane.val, left := j.left, ctr := j.ctr, hash := j.hash }
      .next (State.count { s with nut := { s.nut with suspended := s.nut.suspended ++ [y] } } 5 0x20 (dirOf rx) 1)
    | none => .next s
  else .next s

/-- NUT_ZEROISE ends (R203): every SA is zeroised, and a load that was staged before it is dropped. -/
def zeroiseAll (s : State) : State :=
  let s := s.each s.nut.sa.keys fun s n => clearSa n s
  { s with nut := { s.nut with zeroising := none }
           tick := { s.tick with staged := s.tick.staged.filter fun g => !(g.item == .sa && g.op == 6) } }

/-- NUT_ZEROISE_DONE (R203): every SA is zeroised within 16 ticks; the 16th boundary ends a zeroisation that runs on. -/
def execNutZeroiseDone (s : State) : Res :=
  if s.up && s.nut.zeroising.isSome then .next (zeroiseAll s) else .next s

/-- A marking period at a boundary (R183, R184). -/
def markTick (n : Nat) (s : State) : State :=
  let a := s.sa n
  if a.markDue then setMark n 0 s
  else if 1 < a.markLeft then s.onSa n fun a => { a with markLeft := a.markLeft - 1 }
  else s

/-- Nutmeg at a boundary. -/
def nutTick (s : State) : State :=
  let s := { s with nut := { s.nut with authTick := false, stageTicks := if s.nut.wrMask = 0 then 0 else min (s.nut.stageTicks + 1) 127,
                                        zeroising := s.nut.zeroising.map (· + 1) } }
  let s := s.when (decide (16 ≤ s.nut.zeroising.getD 0)) zeroiseAll
  let s := s.each s.nut.fenceNow fun s p => fencePipe p s
  let s := { s with nut := { s.nut with fenceNow := [] } }
  s.each s.nut.sa.keys fun s n => markTick n s

/-! ### Commands (Table 6-6) -/

/-- While zeroisation runs every other SA command returns BUSY (R203). -/
def needIdle (s : State) (k : CmdRes) : CmdRes := need s.nut.zeroising.isNone .busy 0 k

/-- SA_CFG (R176, R177). -/
def cmdSaCfg (_h : CmdHdr) (ws : List Word) (s : State) : CmdRes :=
  let first := fld (wd ws 0) 12 0
  let n := fld (wd ws 0) 28 16
  let ok (w : Word) : Bool := onlyBits w 0xFFFF3F03 && 10 ≤ saMark w && saMark w ≤ 60000
  let bad := (List.range n).find? fun i => !ok (wd ws (i + 1))
  need (onlyBits (wd ws 0) 0x1FFF1FFF && 1 ≤ n && n ≤ 1015 && first + n ≤ 8192) .badArg 0 <| needLen ws (n + 1) <|
  need bad.isNone .badArg (bad.getD 0 + 1) <| needIdle s <|
  need (!s.nut.locked || s.cmd.accepting || ((ws.drop 1).all fun w => modeOk s.nut (saMode w))) .denied 0 <|
  need (!((List.range n).any fun i => s.isStaged .sa (first + i))) .busy 0 <|
  .done (s.each (List.range n) fun s i => s.stage .sa (first + i) 0 [wd ws (i + 1)]) []

/-- SA_ACTIVATE (R183). -/
def cmdSaActivate (_h : CmdHdr) (ws : List Word) (s : State) : CmdRes :=
  let n := fld (wd ws 0) 12 0
  needLen ws 1 <| need (onlyBits (wd ws 0) 0x1FFF) .badArg 0 <| needIdle s <|
  need (s.sa n).txNxt.valid .badArg 0 <| need (!slotNow s n) .busy 0 <| stageOne s .sa n 1 []

/-- SA_RX_PROMOTE (R186). -/
def cmdSaRxPromote (_h : CmdHdr) (ws : List Word) (s : State) : CmdRes :=
  let n := fld (wd ws 0) 12 0
  needLen ws 1 <| need (onlyBits (wd ws 0) 0x1FFF) .badArg 0 <| needIdle s <|
  need (s.sa n).rxNxt.valid .badArg 0 <| stageOne s .sa n 2 []

/-- SA_KEY_CLEAR (R206). -/
def cmdSaKeyClear (_h : CmdHdr) (ws : List Word) (s : State) : CmdRes :=
  needLen ws 1 <| need (onlyBits (wd ws 0) 0x31FFF && fld (wd ws 0) 17 16 != 3) .badArg 0 <| needIdle s <|
  stageOne s .sa (fld (wd ws 0) 12 0) 3 ws

/-- One SA_STATUS record (Table 6-8). -/
def saRecord (s : State) (n : Nat) : List Word :=
  let a := s.sa n
  [mkWord (bitAt a.rekeyDue 31 + bitAt a.exhausted 30 + bitAt (slotNow s n) 29 + bitAt a.txCur.valid 28 + bitAt a.txNxt.valid 27 +
     bitAt a.rxCur.valid 26 + bitAt a.rxNxt.valid 25 + bitAt a.alias_ 24 + bitAt a.faulted 23 + saMode a.cfg * 2 ^ 16 + n),
   mkWord a.markLeft] ++ lohi a.txCur.pn ++ lohi a.rxCur.pn ++ lohi a.rxNxt.pn

/-- SA_STATUS (R206). -/
def cmdSaStatus (_h : CmdHdr) (ws : List Word) (s : State) : CmdRes :=
  let first := fld (wd ws 0) 12 0
  let n := fld (wd ws 0) 22 16
  needLen ws 1 <| need (onlyBits (wd ws 0) 0x7F1FFF && 1 ≤ n && first + n ≤ 8192) .badArg 0 <| needIdle s <|
  .done s ((List.range n).flatMap fun i => saRecord s (first + i))

/-- SA_PN_ADVANCE (R189). -/
def cmdSaPnAdvance (_h : CmdHdr) (ws : List Word) (s : State) : CmdRes :=
  let n := fld (wd ws 0) 12 0
  needLen ws 3 <| need (onlyBits (wd ws 0) 0x1FFF) .badArg 0 <| needIdle s <|
  need (decide ((s.sa n).txCur.pn < ofLohi (wd ws 1) (wd ws 2))) .badArg 1 <| stageOne s .sa n 5 (ws.drop 1)

/-- NUT_INJECT (R206): the inverted bit is detected on a lane in service; nothing else changes. -/
def cmdNutInject (_h : CmdHdr) (ws : List Word) (s : State) : CmdRes :=
  let w := wd ws 0
  needLen ws 1 <| need (onlyBits w 0xF01) .badArg 0 <| needIdle s <|
  .done s [if fld w 11 8 < lanesIn s.nut (flag w 0) then 1 else 0]

/-- NUT_ZEROISE (R203): asynchronous. -/
def cmdNutZeroise (_h : CmdHdr) (ws : List Word) (s : State) : CmdRes :=
  needLen ws 0 <| needIdle s <| .accept { s with nut := { s.nut with zeroising := some 0 } } .zeroise

def execSaCfg (h : CmdHdr) (ws : List Word) (s : State) : Res := .next (runCmd 0x0310 cmdSaCfg h ws s)
def execSaActivate (h : CmdHdr) (ws : List Word) (s : State) : Res := .next (runCmd 0x0311 cmdSaActivate h ws s)
def execSaRxPromote (h : CmdHdr) (ws : List Word) (s : State) : Res := .next (runCmd 0x0312 cmdSaRxPromote h ws s)
def execSaKeyClear (h : CmdHdr) (ws : List Word) (s : State) : Res := .next (runCmd 0x0313 cmdSaKeyClear h ws s)
def execSaStatus (h : CmdHdr) (ws : List Word) (s : State) : Res := .next (runCmd 0x0314 cmdSaStatus h ws s)
def execSaPnAdvance (h : CmdHdr) (ws : List Word) (s : State) : Res := .next (runCmd 0x0315 cmdSaPnAdvance h ws s)
def execNutInject (h : CmdHdr) (ws : List Word) (s : State) : Res := .next (runCmd 0x0316 cmdNutInject h ws s)
def execNutZeroise (h : CmdHdr) (ws : List Word) (s : State) : Res := .next (runCmd 0x0317 cmdNutZeroise h ws s)

end Sys2Proof.Machine
end

