-- ==== Sys2Proof/Machine/Cmd.lean ====
section
/-! DEFINITION. Chapter 12, the commands themselves: staged items taking effect, the system and firmware commands, the fetch of
a command and its execution, the boot of firmware, and the boot configuration table. -/

namespace Sys2Proof.Machine

/-! ### Staged items (R26, R28) -/

/-- A staged item takes effect: one operation for each block. -/
def applyItem (g : Staged) (s : State) : State :=
  match g.item with
  | .convEntry | .convCal | .bgcal | .slice => applyConv g s
  | .scCfg | .load | .rxCfg | .rxAcq => applyDsp g s
  | .fecCfg | .hdrMsg => applyFrame g s
  | .laneCfg | .laneRaw | .slip | .port | .pfc | .refSel | .tsAdj | .key | .flow => applyClient g s
  | .sa => applySa g s
  | .region | .cls | .merge | .arb | .capCfg | .capArm => applySett g s
  | .scrub => applyEcc g s
  | .ref | .dpll | .timeSet | .out | .chainAsym => applyTim g s
  | .martenLine | .steer | .ptp | .mc | .asym => applyMar g s
  | .chan | .seq | .sync | .injFire | .det | .tdac | .bias | .cloveCal => applyClv g s
  | .fltCfg | .fltGlobal => applyFlt g s
  | .logCfg => { s with cmd := { s.cmd with logCfg := wd g.ws 0 } }
  | .cnt | .dumpCfg | .uwin => applyCnt g s
  | .pwrState | .avs | .policy | .pin => applyPwr g s

/-! ### Images (R369, Table 12-11) -/

/-- VERSION of an image. -/
def imgVersion (bs : List Byte) : Nat := leNat ((bs.drop 8).take 4)
/-- SVN of an image. -/
def imgSvn (bs : List Byte) : Nat := leNat ((bs.drop 12).take 1)
/-- KEY_IDX of an image. -/
def imgKey (bs : List Byte) : Nat := leNat ((bs.drop 6).take 1)
/-- BODY_LEN of an image. -/
def imgLen (bs : List Byte) : Nat := leNat ((bs.drop 16).take 4)

/-- The check of R369: 0, or the ERR code of the first condition that fails (Table 12-13). The signature's own verdict is
the caller's. -/
def imageCheck (bs : List Byte) (sigOk : Bool) (c : CmdS) : Nat :=
  let n := imgLen bs
  if bs.isEmpty then 1
  else if leNat (bs.take 4) != 0x5746574B || leNat ((bs.drop 4).take 2) != 1 || n % 64 != 0 || 917504 < n || bs.length < 256 + n || 3 < imgKey bs then 2
  else if sha384 ((bs.drop 256).take n) != (bs.drop 64).take 48 then 3
  else if !sigOk then 4
  else if c.revoked.getLsbD (imgKey bs) then 5
  else if imgSvn bs < c.fusedSvn then 6
  else 0

/-- The slot that FW_STAGE writes: the one that is not running; with a downloaded image running, slot A. -/
def stageB (c : CmdS) : Bool := c.slot == 0

/-! ### System and firmware commands (Table 12-9) -/

/-- SYS_NOP (R353). -/
def cmdSysNop (_ : CmdHdr) (ws : List Word) (s : State) : CmdRes := .done s ws

/-- GLOBAL_DEVID (Table 0-4). -/
def devid (c : CmdS) : Word := mkWord (devPart * 2 ^ 16 + devStep * 2 ^ 12 + devMetal * 2 ^ 8 + 0x10 + c.id % 4 * 4)

/-- SYS_IDENTIFY (R9). -/
def cmdSysIdentify (_ : CmdHdr) (ws : List Word) (s : State) : CmdRes :=
  needLen ws 0 <| .done s ([devid s.cmd, s.cmd.fwver] ++ lohi s.cmd.uid.toNat)

/-- SYS_BOOT_CFG (R371). -/
def cmdSysBootCfg (_ : CmdHdr) (ws : List Word) (s : State) : CmdRes :=
  let w := wd ws 0
  need (!s.cmd.accepted) .denied 0 <| need (!s.cmd.acceptDue) .busy 0 <|
  need (1 ≤ ws.length) .badArg 0 <| need (onlyBits w 0x800FFFFF && fld w 19 0 == s.cmd.table.length) .badArg 0 <|
  let c := { s.cmd with table := s.cmd.table ++ bytesOf (ws.drop 1) }
  if flag w 31 then .accept { s with cmd := { c with acceptDue := true, fromHost := true } } .bootCfg else .done { s with cmd := c } []

/-- SYS_RESET (R428). -/
def cmdSysReset (_ : CmdHdr) (ws : List Word) (s : State) : CmdRes :=
  needLen ws 1 <| need (wd ws 0 == 0xA5C3) .badArg 0 <| .done { s with cmd := { s.cmd with resetDue := true } } []

/-- FW_STAGE (R373). -/
def cmdFwStage (_ : CmdHdr) (ws : List Word) (s : State) : CmdRes :=
  let w := wd ws 0
  let ofs := fld w 19 0
  let bs := bytesOf (ws.drop 1)
  let put (old : List Byte) : List Byte := if ofs = 0 then bs else old ++ bs
  need (!s.cmd.bootSel) .unsupported 0 <| need (1 ≤ ws.length) .badArg 0 <|
  need (onlyBits w 0xFFFFF && (ofs == 0 || s.cmd.stageEnd == some ofs) && decide (ofs + bs.length ≤ 2 ^ 20)) .badArg 0 <|
  let c := { s.cmd with stageEnd := some (ofs + bs.length) }
  .done { s with cmd := if stageB c then { c with slotB := put c.slotB, sigB := false } else { c with slotA := put c.slotA, sigA := false } } []

/-- FW_ACTIVATE (R373): asynchronous. -/
def cmdFwActivate (_ : CmdHdr) (ws : List Word) (s : State) : CmdRes :=
  needLen ws 1 <| need (onlyBits (wd ws 0) 1) .badArg 0 <| .accept s (.fwActivate (fld (wd ws 0) 0 0))

/-- FW_FUSE (R369). -/
def cmdFwFuse (_ : CmdHdr) (ws : List Word) (s : State) : CmdRes :=
  let w := wd ws 0
  let k := fld w 1 0
  let svn := fld w 6 0
  needLen ws 1 <|
  if flag w 31 then
    need (onlyBits w 0x80000003 && s.cmd.imageKey != some k && !(popcount 4 s.cmd.revoked.toNat == 3 && !s.cmd.revoked.getLsbD k)) .badArg 0 <|
    .done { s with cmd := { s.cmd with revoked := putBit s.cmd.revoked k true } } []
  else
    need (onlyBits w 0x7F && decide (s.cmd.fusedSvn < svn) && decide (svn ≤ s.cmd.imageSvn)) .badArg 0 <|
    .done { s with cmd := { s.cmd with fusedSvn := svn } } []

/-- FW_INFO (Table 12-9). -/
def cmdFwInfo (_ : CmdHdr) (ws : List Word) (s : State) : CmdRes :=
  let one (bs : List Byte) (sig : Bool) : List Word :=
    [mkWord (imgVersion bs), mkWord (imgSvn bs), mkWord (bitAt (imageCheck bs sig s.cmd == 0) 0), mkWord (imgKey bs % 4)]
  needLen ws 0 <| .done s (one s.cmd.slotA s.cmd.sigA ++ one s.cmd.slotB s.cmd.sigB)

/-- Command 0x0000 (SYS_NOP). -/
def execSysNop (h : CmdHdr) (ws : List Word) (s : State) : Res := .next (runCmd 0x0000 cmdSysNop h ws s)
/-- Command 0x0001 (SYS_IDENTIFY). -/
def execSysIdentify (h : CmdHdr) (ws : List Word) (s : State) : Res := .next (runCmd 0x0001 cmdSysIdentify h ws s)
/-- Command 0x0004 (SYS_BOOT_CFG). -/
def execSysBootCfg (h : CmdHdr) (ws : List Word) (s : State) : Res := .next (runCmd 0x0004 cmdSysBootCfg h ws s)
/-- Command 0x0005 (SYS_RESET). -/
def execSysReset (h : CmdHdr) (ws : List Word) (s : State) : Res := .next (runCmd 0x0005 cmdSysReset h ws s)
/-- Command 0x0010 (FW_STAGE). -/
def execFwStage (h : CmdHdr) (ws : List Word) (s : State) : Res := .next (runCmd 0x0010 cmdFwStage h ws s)
/-- Command 0x0011 (FW_ACTIVATE). -/
def execFwActivate (h : CmdHdr) (ws : List Word) (s : State) : Res := .next (runCmd 0x0011 cmdFwActivate h ws s)
/-- Command 0x0012 (FW_FUSE). -/
def execFwFuse (h : CmdHdr) (ws : List Word) (s : State) : Res := .next (runCmd 0x0012 cmdFwFuse h ws s)
/-- Command 0x0013 (FW_INFO). -/
def execFwInfo (h : CmdHdr) (ws : List Word) (s : State) : Res := .next (runCmd 0x0013 cmdFwInfo h ws s)

/-! ### The opcode catalogue (R355, R362) -/

/-- The command of an opcode; none for an opcode that no chapter tables. -/
def cmdOf (op : Nat) : Option (CmdHdr → List Word → State → CmdRes) :=
  match op with
  | 0x0000 => some cmdSysNop | 0x0001 => some cmdSysIdentify
  | 0x0002 => some cmdSysResultGet | 0x0003 => some cmdSysResultRelease
  | 0x0004 => some cmdSysBootCfg | 0x0005 => some cmdSysReset
  | 0x0010 => some cmdFwStage | 0x0011 => some cmdFwActivate
  | 0x0012 => some cmdFwFuse | 0x0013 => some cmdFwInfo
  | 0x0101 => some cmdLineConvSet | 0x0102 => some cmdLineConvCal
  | 0x0103 => some cmdLineConvBgcal | 0x0104 => some cmdLineConvStatus
  | 0x0105 => some cmdLineConvRetire | 0x0110 => some cmdLineScCfg
  | 0x0111 => some cmdLineLoadSet | 0x0112 => some cmdLineEqLoad
  | 0x0113 => some cmdLineRxCfg | 0x0114 => some cmdLineRxAcq
  | 0x0115 => some cmdLineEqRead | 0x0120 => some cmdLineFecCfg
  | 0x0121 => some cmdLineHdrMsg | 0x0201 => some cmdClientLaneCfg
  | 0x0202 => some cmdClientLaneRaw | 0x0203 => some cmdClientLaneRead
  | 0x0210 => some cmdClientPortCfg | 0x0211 => some cmdClientPfcCfg
  | 0x0212 => some cmdClientRefSel | 0x0213 => some cmdClientTsAdj
  | 0x0220 => some cmdClassKeySet | 0x0300 => some cmdFlowSet
  | 0x0301 => some cmdFlowRead | 0x0310 => some cmdSaCfg
  | 0x0311 => some cmdSaActivate | 0x0312 => some cmdSaRxPromote
  | 0x0313 => some cmdSaKeyClear | 0x0314 => some cmdSaStatus
  | 0x0315 => some cmdSaPnAdvance | 0x0316 => some cmdNutInject
  | 0x0317 => some cmdNutZeroise | 0x0401 => some cmdSettRegionCfg
  | 0x0402 => some cmdSettClassSet | 0x0403 => some cmdSettMergeSet
  | 0x0404 => some cmdSettMergeStatus | 0x0405 => some cmdSettArbSet
  | 0x0406 => some cmdSettCapCfg | 0x0407 => some cmdSettCapArm
  | 0x0408 => some cmdSettCapRead | 0x0501 => some cmdEccScrubCfg
  | 0x0502 => some cmdEccSpareRead | 0x0503 => some cmdEccSpareLoad
  | 0x0504 => some cmdEccTestAccess | 0x0601 => some cmdTimRefCfg
  | 0x0602 => some cmdTimDpllCfg | 0x0603 => some cmdTimeSet
  | 0x0604 => some cmdTimOutCfg | 0x0701 => some cmdMartenLineCfg
  | 0x0702 => some cmdMartenAsymCal | 0x0703 => some cmdMartenSteer
  | 0x0704 => some cmdMartenPtpCfg | 0x0705 => some cmdMcCfg
  | 0x0706 => some cmdMcSend | 0x0707 => some cmdMcRead
  | 0x0801 => some cmdCloveChanCfg | 0x0802 => some cmdCloveSeqSet
  | 0x0803 => some cmdCloveSync | 0x0804 => some cmdCloveInjFire
  | 0x0805 => some cmdCloveDetCfg | 0x0806 => some cmdCloveTdac
  | 0x0807 => some cmdCloveBiasCfg | 0x0808 => some cmdCloveBiasSet
  | 0x0809 => some cmdCloveCalCfg | 0x0901 => some cmdFltCfg
  | 0x0902 => some cmdFltGlobal | 0x0903 => some cmdFltInject
  | 0x0980 => some cmdLogRead | 0x0981 => some cmdLogCfg
  | 0x0982 => some cmdLogMark | 0x0983 => some cmdLogClear
  | 0x0A01 => some cmdCntCfg | 0x0A02 => some cmdCntWrite
  | 0x0A03 => some cmdCntRead | 0x0A04 => some cmdCntDumpCfg
  | 0x0A05 => some cmdCntUwin | 0x0B01 => some cmdPwrStateSet
  | 0x0B02 => some cmdPwrRegCfg | 0x0B03 => some cmdPwrAvsCfg
  | 0x0B04 => some cmdPwrPolicy | 0x0B05 => some cmdPinCfg
  | 0x0C01 => some cmdChainMaster | 0x0C02 => some cmdChainAsym
  | _ => none

/-! ### Fetching (R351 to R355, R363, R366) -/

/-- A ring from which the engine may fetch: a command announced, the previous one replied to, room for a reply. -/
def ringReady (s : State) (r : Nat) : Bool :=
  let k := s.ring r
  if r = 16 then !s.cmd.remote.isEmpty && k.flight.isNone
  else k.en && k.st == .run && k.flight.isNone && k.room 1 && decide (0 < k.sqUsed)

/-- The ring whose turn it is (R351). -/
def nextRing (s : State) : Option Nat := ((List.range 17).map fun i => (s.cmd.turn + 1 + i) % 17).find? (ringReady s)

/-- Every reserved field of a command header is 0 (Table 12-4). -/
def hdrOk (hdr : List Word) : Bool := onlyBits (wd hdr 1) 0x130FFF && (hdr.drop 2).all (· == 0)

/-- A forwarded command (R363): an entry of the result store, and the packet on its way. -/
def forward (op : Nat) (h : CmdHdr) (target : Nat) (hdr ws : List Word) (s : State) : Reply × State :=
  match gate s op with
  | some st => (mkReply s op h st 0 [], s)
  | none =>
    if 8 ≤ s.cmd.fwdOut.length then (mkReply s op h .noResource 0 [], s)
    else match asyncCheck s h with
      | some st => (mkReply s op h st 0 [], s)
      | none =>
        let m := s.cmd.nextMsg
        let final : Reply := { mkReply s op h .ok 0 [] with fwd := true, srcDev := target }
        let c := { s.cmd with store := s.cmd.store ++ [{ ring := h.ring.val, tag := h.tag, kind := .forward m, final := final }]
                              fwdOut := s.cmd.fwdOut ++ [(m, 0)], nextMsg := (m + 1) % 2 ^ 16 }
        ({ mkReply s op h .ok 0 [] with accepted := true }, sendMsg target m false (bytesOf (hdr ++ ws)) { s with cmd := c })

/-- What firmware makes of a command packet of a host ring (R353, R355). -/
def runPacket (h : CmdHdr) (hdr ws : List Word) (s : State) : Reply × State :=
  let op := fld (wd hdr 0) 15 0
  let target := fld (wd hdr 1) 17 16
  if !hdrOk hdr then (mkReply s op h .badArg 0 [], s)
  else match cmdOf op with
    | none => (mkReply s op h .unsupported 0 [], s)
    | some f =>
      if target = s.cmd.id then command op f h ws s
      else if s.cmd.devs ≤ target then (mkReply s op h .badArg 0 [], s)
      else forward op h target hdr ws s

/-- Commands of the 0x00xx family that a forwarded packet may carry (R367). -/
def remoteOk (op : Nat) : Bool := !inFamily op 0 || decide (op < 2)

/-- What firmware makes of a command packet of the remote queue (R366, R367). The forwarded command is asynchronous at its own device
(R363), so its ASYNC bit asks nothing of this one, and the reply carries the data. -/
def runRemote (h : CmdHdr) (hdr ws : List Word) (s : State) : Reply × State :=
  let op := fld (wd hdr 0) 15 0
  if !hdrOk hdr || fld (wd hdr 1) 17 16 != s.cmd.id then (mkReply s op h .badArg 0 [], s)
  else match cmdOf op with
    | none => (mkReply s op h .unsupported 0 [], s)
    | some f => if remoteOk op then command op f { h with async := false } ws s else (mkReply s op h .denied 0 [], s)

/-- The command is in flight: with firmware's reply, or unanswered while firmware hangs (R357). -/
def inFlight (r : Nat) (runs : Bool) (op : Nat) (h : CmdHdr) (f : State → Reply × State) (s : State) : State :=
  if runs then
    let x := f s
    ({ x.2 with cmd := { x.2.cmd with last := some x.1 } }).onRing r fun k => { k with flight := some x.1, noFw := false, age := 0 }
  else s.onRing r fun k => { k with flight := some (mkReply s op h .ok 0 []), noFw := true, age := 0 }

/-- The parameter words of a packet. -/
def packetWords (hdr : List Word) (params : List Word) : List Word :=
  let n := fld (wd hdr 1) 11 0 / 4
  (params ++ List.replicate n 0).take n

/-- A command packet passes through the control processor's memory (R240, Table 8-2): the ring engine writes it from word 1,024 r on, and
a core reads it. Whether it was delivered, its bytes, and the state. -/
def packetRead (r : Nat) (bs : List Byte) (s : State) : Bool × List Byte × State :=
  let lo := 1024 * r
  let n := (bs.length + 7) / 8
  let s := sramWrite 7 lo n s
  let flips := memFlips s 7 lo n
  let u := sramUse 7 lo n s
  (u.1, flips.foldl (fun bs p => flipBytes (8 * (p.1 - lo)) p.2 bs) bs, u.2)

/-- A packet with its parameters read back from the control processor's memory: header and parameter words. -/
def packetOf (bs : List Byte) : List Word × List Word :=
  let all := wordsOf bs
  ((all ++ List.replicate 8 0).take 8, packetWords ((all ++ List.replicate 8 0).take 8) (all.drop 8))

/-- A fetched command runs as its packet reads in the control processor's memory; a core that meets poison takes a bus error, and
the control processor restarts (R375). -/
def fetched (r : Fin 17) (runs : Bool) (bs : List Byte) (f : CmdHdr → List Word → List Word → State → Reply × State) (s : State) : State :=
  let u := packetRead r bs s
  let p := packetOf u.2.1
  let h : CmdHdr := { ring := r, tag := (wd p.1 0).extractLsb' 16 16, async := flag (wd p.1 1) 20 }
  let op := fld (wd p.1 0) 15 0
  if u.1 then inFlight r runs op h (f h p.1 p.2) u.2.2
  else cpRestart (inFlight r false op h (f h p.1 p.2) u.2.2)

/-- CMD_FETCH (R351). -/
def execCmdFetch (r : Fin 17) (p : Packet) (s : State) : Res :=
  if s.fwRuns && nextRing s == some r.val then
    let s := { s with cmd := { s.cmd with turn := r.val } }
    if r.val = 16 then
      match s.cmd.remote with
      | c :: _ => .next (fetched 16 p.fwRuns c.bytes runRemote s)
      | [] => .next s
    else
      let k := s.ring r
      let len := fld (wd p.hdr 1) 11 0
      let n := cmdSlots len
      if p.dmaErr then .next (ringHalt r 3 s)
      else if 4064 < len ∨ len % 4 ≠ 0 ∨ k.sq - 1 < n then .next (ringHalt r 1 s)
      else if k.sqUsed < n then .next s
      else
        let s := s.onRing r fun k => { k with sqHead := (k.sqHead + n) % k.sq }
        .next (fetched r p.fwRuns (bytesOf ((p.hdr ++ List.replicate 8 0).take 8 ++ packetWords p.hdr p.params)) runPacket s)
  else .next s

/-! ### Start of firmware (R368 to R371, R389) -/

/-- Firmware runs from an image: STATE is RUN_NOCFG, the watchdog is armed, and a valid flash table is taken. -/
def startImage (slot : Nat) (bs : List Byte) (s : State) : State :=
  let t := s.cmd.flashTable
  let c := { s.cmd with fwver := mkWord (imgVersion bs), imageSvn := imgSvn bs, imageKey := some (imgKey bs), slot := slot
                        acceptDue := !s.cmd.bootSel && tableHdrOk t && tableCrcOk t, fromHost := false }
  bootLog 1 (toBoot .runNoCfg { s with cmd := c, flt := { s.flt with wdLeft := some (125 * s.flt.wd) } })

/-- Slot B is the one to start: valid, and better than a valid slot A (R368). -/
def choosesB (a b : List Byte) (okA okB : Bool) : Bool :=
  okB && (!okA || decide (imgSvn a < imgSvn b) || (imgSvn a == imgSvn b && decide (imgVersion a < imgVersion b)))

/-- FIRMWARE_START (R368): the boot ROM starts a slot, or waits for a download. -/
def execFirmwareStart (x : BootIn) (s : State) : Res :=
  if s.live && s.cmd.boot == .rom then
    if s.cmd.bootSel then .next (toBoot .waitPcie s)
    else
      let s := { s with cmd := { s.cmd with sigA := x.sigA, sigB := x.sigB } }
      let a := imageCheck s.cmd.slotA x.sigA s.cmd
      let b := imageCheck s.cmd.slotB x.sigB s.cmd
      if choosesB s.cmd.slotA s.cmd.slotB (a == 0) (b == 0) then .next (startImage 1 s.cmd.slotB s)
      else if a = 0 then .next (startImage 0 s.cmd.slotA s)
      else .next (toBoot .waitPcie (bootErr b s))
  else .next s

/-- BOOT_DL_GO (R370). -/
def execBootDlGo (val : Word) (img : DlImage) (s : State) : Res :=
  if s.live && s.cmd.boot == .waitPcie && flag val 0 then
    let bs := img.bytes.take s.cmd.dlLen.toNat
    if img.dmaErr then .next (bootErr 9 s)
    else
      let e := imageCheck bs img.sigOk s.cmd
      .next (if e = 0 then startImage 2 bs s else bootErr e s)
  else .next s

/-! ### The boot configuration table (R371, R372, Table 12-12) -/

/-- Opcodes that a record must not hold (R372, R395). -/
def recordBarred : List Nat :=
  [0x0101, 0x0102, 0x0104, 0x0114, 0x0115, 0x0203, 0x0301, 0x0311, 0x0312, 0x0313, 0x0314, 0x0315, 0x0316, 0x0317, 0x0404, 0x0407, 0x0408,
   0x0502, 0x0503, 0x0504, 0x0603, 0x0706, 0x0707, 0x0803, 0x0804, 0x0808, 0x0903, 0x0980, 0x0A03]

/-- Opcodes whose effect, or part of it, is not a staged item. -/
def recordDirect : List Nat := [0x0405, 0x0982, 0x0983, 0x0B02, 0x0C01]

/-- A record run as if it were commanded (R372). -/
def runRecord (op : Nat) (ws : List Word) (s : State) : Option State :=
  if inFamily op 0 || recordBarred.contains op then none
  else match cmdOf op with
    | some f => match f {} ws { s with cmd := { s.cmd with accepting := true } } with
      | .done t _ => some { t with cmd := { t.cmd with accepting := s.cmd.accepting } }
      | _ => none
    | none => none

/-- A record run and its items in effect at once: the state after it, and the items it staged. -/
def tryRecord (op : Nat) (ws : List Word) (s : State) : Option (State × List Staged) :=
  let old := s.tick.staged
  (runRecord op ws { s with tick := { s.tick with staged := [] } }).map fun t =>
    let items := t.tick.staged
    (({ t with tick := { t.tick with staged := old } } : State).each items fun s g => applyItem g s, items)

/-- VOUT_MODE answers the LINEAR16 format (R416). -/
def linearMode (m : BitVec 8) : Bool := m.toNat / 32 == 0

/-- VOUT_MODE of a regulator among the answers. -/
def voutOf (vout : List (Fin 8 × BitVec 8)) (r : Nat) : Option (BitVec 8) := (vout.find? fun x => x.1.val == r).map (·.2)

/-- A regulator record with AVS needs the LINEAR16 format (R416). -/
def voutOk (vout : List (Fin 8 × BitVec 8)) (op : Nat) (ws : List Word) : Bool :=
  !(op == 0x0B02 && flag (wd ws 0) 29) || ((voutOf vout (fld (wd ws 0) 2 0)).map linearMode).getD false

/-- The records of a table, each as if commanded after those before it: the index of the first that fails, or the records and their
items. The fuel is the number of words left. -/
def takeRecords (vout : List (Fin 8 × BitVec 8)) : Nat → Nat → List Byte → State → Except Nat (List (Nat × List Word) × List Staged)
  | 0, _, _, _ => .ok ([], [])
  | fuel + 1, i, bs, s =>
    if bs.isEmpty then .ok ([], [])
    else
      let w := mkWord (leNat (bs.take 4))
      let n := fld w 27 16
      let op := fld w 15 0
      let ws := wordsOf ((bs.drop 4).take n)
      if fld w 31 28 ≠ 0 ∨ n % 4 ≠ 0 ∨ bs.length < 4 + n ∨ voutOk vout op ws = false then .error i
      else match tryRecord op ws s with
        | none => .error i
        | some (t, items) => match takeRecords vout fuel (i + 1) (bs.drop (4 + n)) t with
          | .error e => .error e
          | .ok (rs, gs) => .ok ((op, ws) :: rs, items ++ gs)

/-- An optics entry of the table. -/
def tableOptics (bs : List Byte) (l : Nat) : List Word := wordsOf ((bs.drop (64 + 32 * l)).take 32)

/-- The fixed part, the optics entries and the spare records are valid (R372). -/
def tableOutsideOk (bs : List Byte) (exact : Bool) : Bool :=
  let sys := mkWord (leNat ((bs.drop 32).take 4))
  let devs := fld sys 2 0
  tableHdrOk bs && (!exact || bs.length == tableLen bs) && tableCrcOk bs &&
  onlyBits sys 0xFFFF0307 && decide (1 ≤ devs) && decide (devs ≤ 4) && decide (tableSpareCnt bs ≤ 4128) &&
  decide (128 + 8 * tableSpareCnt bs ≤ tableLen bs) &&
  ((bs.drop 12).take 20).all (· == 0) && ((bs.drop 36).take 28).all (· == 0) &&
  opticsValid (tableOptics bs 0) && opticsValid (tableOptics bs 1) && (tableSpareNums bs).all spareOk

/-- The table is rejected as a whole (R371, R372). -/
def rejectTable (err detail : Nat) (s : State) : State :=
  let s := bootErr err { s with cmd := { s.cmd with acceptDue := false, table := [] } }
  finishEnt (fun e => e.kind == .bootCfg && !e.done) (fun r => { r with status := .badArg, detail := detail }) s

/-- The direct effects of the records, without their staged items. -/
def directRecords (rs : List (Nat × List Word)) (s : State) : State :=
  s.each (rs.filter fun r => recordDirect.contains r.1) fun s r =>
    match runRecord r.1 r.2 s with
    | some t => { t with tick := { t.tick with staged := s.tick.staged } }
    | none => s

/-- The exponents that AVS regulators answered (R416, R418). -/
def setExpo (vout : List (Fin 8 × BitVec 8)) (s : State) : State :=
  s.each (vout.filter fun x => linearMode x.2) fun s x => s.onReg x.1 fun g => { g with expo := signed 5 (x.2.toNat % 32) }

/-- The first boundary after acceptance (R25, R372): the system word, the optics entries and what the records change other than by
staged items are in force; each line with a valid entry starts at the boundary after it. -/
def tableTurn (s : State) : State :=
  match s.cmd.tableDue with
  | none => s
  | some (bs, vout) =>
    let sys := mkWord (leNat ((bs.drop 32).take 4))
    let s := { s with cmd := { s.cmd with tableDue := none, devs := fld sys 2 0 }
                      nut := { s.nut with bypassAllow := flag sys 8, authAllow := flag sys 9 } }
    let s := s.each [0, 1] fun s l => s.onConv l fun c =>
      let c := { c with entry := tableOptics bs l }
      { c with startIn := if c.optics = 0 then none else some 1 }
    setExpo vout (directRecords s.cmd.records s)

/-- The table is accepted (R371, R372): NUT_POLICY and the collector lock and STATE is RUN at once; what the table configures is in
force from the first boundary (`tableTurn`, and the records' staged items). -/
def acceptTable (bs : List Byte) (rs : List (Nat × List Word)) (gs : List Staged) (vout : List (Fin 8 × BitVec 8)) (s : State) : State :=
  let spares := (tableSpareNums bs).map spareOf
  let s := { s with
    tick := { s.tick with staged := s.tick.staged ++ gs }
    cmd := { s.cmd with accepted := true, acceptDue := false, table := [], cfgSrc := if s.cmd.fromHost then 2 else 1
                        records := rs, tableSpares := spares, tableDue := some (bs, vout) }
    nut := { s.nut with locked := true }
    flt := { s.flt with locked := true }
    ecc := if s.cmd.fromHost then { s.ecc with loading := spares, loaded := 0, loadFull := false } else s.ecc }
  let s := bootLog 2 (toBoot .run s)
  finishEnt (fun e => e.kind == .bootCfg && !e.done) (fun r => { r with data := [0xFFFFFFFF] }) s

/-- BOOT_TABLE_ACCEPT (R372). -/
def execBootTableAccept (vout : List (Fin 8 × BitVec 8)) (s : State) : Res :=
  if s.fwRuns && s.cmd.acceptDue && !s.cmd.accepted then
    let all := if s.cmd.fromHost then s.cmd.table else s.cmd.flashTable
    if tableOutsideOk all s.cmd.fromHost then
      let bs := all.take (tableLen all)
      match takeRecords vout (tableLen bs / 4 + 1) 0 (bs.drop (128 + 8 * tableSpareCnt bs)) s with
      | .error i => .next (rejectTable 8 i s)
      | .ok (rs, gs) => .next (acceptTable bs rs gs vout s)
    else .next (rejectTable 7 0xFFFF s)
  else .next s

/-- The records of the accepted table applied again, in order (R425); one that is turned away now (the collector is locked) changes
nothing. -/
def replayRecords (s : State) : State :=
  s.each s.cmd.records fun s r => ((tryRecord r.1 r.2 s).map (·.1)).getD s

/-! ### Asynchronous operations (R360, R373) -/

/-- An entry of the result store finishes with its status and data; an entry of the remote queue has been answered and is freed. -/
def settle (r : Nat) (tag : BitVec 16) (st : Status) (data : List Word) (s : State) : State :=
  let mine := fun (e : ResEnt) => e.ring == r && e.tag == tag && !e.done
  if r = 16 then { s with cmd := { s.cmd with store := s.cmd.store.filter fun e => !mine e } }
  else finishEnt mine (fun x => { x with status := st, data := if data.isEmpty then x.data else data }) s

/-- The staged slot has been verified (R373). -/
def activate (r : Nat) (tag : BitVec 16) (mode : Nat) (sigOk : Bool) (s : State) : State :=
  let b := stageB s.cmd
  let bs := if b then s.cmd.slotB else s.cmd.slotA
  let e := imageCheck bs sigOk s.cmd
  let s := { s with cmd := if b then { s.cmd with sigB := sigOk } else { s.cmd with sigA := sigOk } }
  let s := settle r tag .ok [mkWord e] (bootErr e s)
  if e ≠ 0 then s
  else
    let s := bootLog 4 s
    if mode = 0 then s
    else cpRestart { s with cmd := { s.cmd with fwver := mkWord (imgVersion bs), imageSvn := imgSvn bs, imageKey := some (imgKey bs)
                                                slot := if b then 1 else 0, stageEnd := none } }

/-- ASYNC_COMPLETE (R360): the entry's operation has come to its end. -/
def execAsyncComplete (r : Fin 17) (tag : BitVec 16) (sigOk : Bool) (s : State) : Res :=
  match s.cmd.store.find? fun e => e.ring == r.val && e.tag == tag && !e.done with
  | none => .next s
  | some e =>
    if !s.fwRuns then .next s
    else match e.kind with
      | .plain => if e.final.cap.isSome then .next s else .next (settle r tag e.final.status [] s)
      | .conv l =>
        let c := s.cv l
        if c.tx != .cal && c.rx != .cal && c.relock.isNone && !s.isStaged .convCal l then
          .next (settle r tag .ok [mkWord (c.tx.code * 16 + c.rx.code)] s)
        else .next s
      | .zeroise => if s.nut.zeroising.isNone then .next (settle r tag .ok [] s) else .next s
      | .spareLoad =>
        if s.ecc.loading.isEmpty && targets.all fun t => (s.tgt t).copying.isNone then
          .next (settle r tag (if s.ecc.loadFull then .noResource else .ok) [mkWord s.ecc.loaded] s)
        else .next s
      | .fwActivate m => .next (activate r tag m sigOk s)
      | .bootCfg | .forward _ => .next s

end Sys2Proof.Machine
end

