-- ==== Sys2Proof/Machine/Regs.lean ====
section
/-! DEFINITION. BAR0 (R10 to R13, Table 12-1): what each register reads, which words form a snapshot, which a function may reach, and
what a host write does to a register that has no row of its own. -/

namespace Sys2Proof.Machine

/-! ### State codes (Tables 3-7, 3-8, 4-4, 5-1, 5-3, 7-2, 9-3) -/

/-- RXD_STATE (Table 3-7). -/
def RxdState.code : RxdState → Nat
  | .off => 0 | .waitConv => 1 | .cdSearch => 2 | .freqAcq => 3 | .scAcq => 4 | .run => 5
/-- Subcarrier state (Table 3-8). -/
def ScState.code : ScState → Nat
  | .off => 0 | .acq => 1 | .track => 2 | .lost => 3
/-- FR_STATE (Table 4-4). -/
def FrState.code : FrState → Nat
  | .noSignal => 0 | .hunt => 1 | .inFrame => 2 | .lof => 3
/-- RX_STATE of a lane (Table 5-1). -/
def LaneState.code : LaneState → Nat
  | .off => 0 | .sigWait => 1 | .adapt => 2 | .ready => 3 | .los => 4 | .failed => 5
/-- PORT_STATE (Table 5-3). -/
def PortState.code : PortState → Nat
  | .disabled => 0 | .laneWait => 1 | .align => 2 | .up => 3 | .fault => 4
/-- DSTATE (Table 6-5). -/
def DState.code : DState → Nat
  | .selftest => 0 | .run => 1 | .degraded => 2 | .failed => 3
/-- SETT_STATE (Table 7-2). -/
def SettState.code : SettState → Nat
  | .off => 0 | .train => 1 | .clear => 2 | .ready => 3 | .selfRefresh => 4 | .failed => 5
/-- Capture state (Table 7-9). -/
def CapState.code : CapState → Nat
  | .idle => 0 | .armed => 1 | .triggered => 2 | .done => 3
/-- STATE of a reference (Table 9-7). -/
def RefState.code : RefState → Nat
  | .disabled => 0 | .failed => 1 | .wait => 2 | .qualified => 3
/-- DPLL_STATE (Table 9-3). -/
def DpllState.code : DpllState → Nat
  | .freerun => 0 | .acquire => 1 | .locked => 2 | .switch => 3 | .holdover => 4 | .chain => 5
/-- State of a chain link (Table 9-7). -/
def LinkState.code : LinkState → Nat
  | .down => 0 | .align => 1 | .up => 2
/-- RX_STATE of MC (Table 10-8). -/
def McState.code : McState → Nat
  | .search => 0 | .pre => 1 | .sync => 2 | .body => 3
/-- LOOP of a bias output (Table 11-7). -/
def LoopState.code : LoopState → Nat
  | .off => 0 | .hold => 1 | .running => 2 | .paused => 3 | .starved => 4 | .safe => 5
/-- STATE of a ring (Table 12-3). -/
def RingState.code : RingState → Nat
  | .off => 0 | .run => 1 | .drain => 2 | .halted => 3
/-- STATE of dumping (Table 13-11). -/
def DumpState.code : DumpState → Nat
  | .off => 0 | .idle => 1 | .writing => 2 | .stopped => 3

/-! ### Reads, block by block; each answers the 32-bit number of the word at an offset in its block -/

/-- Word i of a number: its bits 32i + 31 to 32i. -/
def wordAt (n i : Nat) : Nat := n / 2 ^ (32 * i) % 2 ^ 32

/-- One bit per element of a list, the first at `lsb`. -/
def bitsAt (xs : List Bool) (lsb : Nat) : Nat := ((List.range xs.length).map fun i => bitAt (xs.getD i false) (lsb + i)).sum

/-- 0x8000_0000 for none, otherwise the value in two's complement. -/
def optWord (x : Option Int) : Nat := match x with
  | none => 0x80000000
  | some v => wrapInt 32 v

/-- A time of day as its three words: ns, seconds, fraction and high seconds (Tables 9-7 and 11-7). -/
def todWord (t i : Nat) : Nat :=
  match i with
  | 0 => t % secUnits / nsUnits
  | 1 => t / secUnits % 2 ^ 32
  | _ => t % nsUnits * 2 ^ 16 + t / secUnits / 2 ^ 32 % 2 ^ 16

/-- The global block (Tables 0-4, 1-1, 12-13). -/
def globalReg (s : State) (o : Nat) : Nat :=
  let c := s.cmd
  match o with
  | 0x00 => (devid c).toNat
  | 0x04 => c.fwver.toNat
  | 0x08 => wordAt c.uid.toNat 0
  | 0x0C => wordAt c.uid.toNat 1
  | 0x10 => wordAt s.tick.num 0
  | 0x14 => wordAt s.tick.num 1
  | 0x18 => s.tick.stretchCnt * 2 ^ 16 + bitAt (isFollower s) 3 + bitAt s.tick.aligned 2 + tickState s
  | 0x1C => s.tick.carry.toNat
  | 0x20 => (bootStat c).toNat
  | 0x24 => c.rstCause.toNat
  | 0x28 => c.revoked.toNat * 2 ^ 24 + c.fusedSvn * 2 ^ 16 + c.imageSvn
  | _ => if 0x30 ≤ o ∧ o < 0x40 then (c.scratch.get ((o - 0x30) / 4)).toNat else 0

/-- The converters of a line (Table 2-5). -/
def convReg (c : ConvS) (o : Nat) : Nat :=
  let adc := fun i => c.adc.get i
  let each := fun (f : AdcS → Bool) => (List.range 4).map fun i => f (adc i)
  match o with
  | 0x100 =>
    bitsAt (each fun a => a.failed) 24 + bitsAt (each fun a => !a.failed && a.retiredCount == 1) 20 +
      bitsAt ((List.range 4).map fun i => (c.dac.get i).hold) 16 + c.tx.code * 16 + c.rx.code
  | 0x104 => c.fault.toNat
  | _ =>
    if 0x110 ≤ o ∧ o < 0x120 then
      let a := adc ((o - 0x110) / 4)
      a.rounds * 2 ^ 16 + bitAt (a.on && a.rotating && a.enable) 15 + bitAt a.spareOk 14 + a.nextPos * 2 ^ 8 + a.offline
    else 0

/-- A field of `bits` bits for each of `n` subcarriers from `first`. -/
def scFields (d : DspS) (first n bits : Nat) (f : ScS → Nat) : Nat :=
  ((List.range n).map fun i => f (d.sc.get (first + i)) * 2 ^ (bits * i)).sum

/-- The DSP of a line (Table 3-13). -/
def dspReg (d : DspS) (o : Nat) : Nat :=
  match o with
  | 0x200 => scFields d 0 16 1 (fun c => bitAt (c.rx == .track) 0) * 2 ^ 16 + bitAt d.mcEn 7 + d.rxd.code
  | 0x204 => d.fault.toNat
  | 0x208 => optWord d.cdEst
  | 0x20C => wrapInt 32 d.cdBulk
  | 0x210 => wrapInt 32 d.freqOfs
  | 0x214 => wrapInt 32 d.clkOfs
  | 0x218 => scFields d 0 16 2 fun c => c.rx.code
  | 0x220 => scFields d 0 8 4 fun c => c.codeTx
  | 0x224 => scFields d 8 8 4 fun c => c.codeTx
  | 0x228 => scFields d 0 8 4 fun c => c.codeRx
  | 0x22C => scFields d 8 8 4 fun c => c.codeRx
  | 0x230 => scFields d 0 16 1 (fun c => bitAt (c.slot == .fading || c.fade != 0) 0) * 2 ^ 16 + scFields d 0 16 1 fun c => bitAt c.active 0
  | 0x234 => scFields d 0 16 1 fun c => bitAt (c.slot == .pending) 0
  | _ =>
    if 0x300 ≤ o ∧ o < 0x380 then
      let c := d.sc.get ((o - 0x300) / 8)
      if o % 8 = 0 then c.snrY * 2 ^ 16 + c.snrX else bitAt c.snrValid 31 + bitAt c.evmValid 30 + c.evm
    else 0

/-- FEC statistics of the window posted (Table 4-5). -/
def fecWord (w : FecWin) (i : Nat) : Nat :=
  match i with
  | 0 => wordAt w.preErr 0
  | 1 => wordAt w.preErr 1 % 2 ^ 16
  | 2 => wordAt w.preBits 0
  | 3 => wordAt w.preBits 1 % 2 ^ 16
  | 4 => min 0xFFFF (256 * w.iterSum / max w.cws 1) * 2 ^ 16 + min 0xFF w.iterPeak
  | 5 => w.unconv
  | 6 => min 0xFFFFFFFF w.outCorr
  | _ => min 0xFFFF w.budgetTicks * 2 ^ 16 + min 0xFFFF w.outUncorr

/-- The framer of a line (Table 4-5). -/
def frameReg (f : FrameS) (o : Nat) : Nat :=
  match o with
  | 0x400 => f.ncellRx * 2 ^ 16 + f.txRate * 2 ^ 6 + f.rxRate * 2 ^ 4 + bitAt f.lineFar 3 + bitAt f.rdiFar 2 + f.fr.code
  | 0x404 => f.fault.toNat
  | 0x408 => wordAt f.rxFn 0
  | 0x40C => wordAt f.rxFn 1 % 2 ^ 16
  | 0x410 => wordAt f.txFn 0
  | 0x414 => wordAt f.txFn 1 % 2 ^ 16
  | 0x440 => bitAt f.preValid 31 + f.qDb
  | 0x470 => f.farValid
  | _ =>
    if 0x420 ≤ o ∧ o < 0x440 then fecWord f.post ((o - 0x420) / 4)
    else if 0x450 ≤ o ∧ o < 0x470 then
      let j := (o - 0x450) / 4
      f.farSnr.getD (2 * j + 1) 0 * 2 ^ 16 + f.farSnr.getD (2 * j) 0
    else if 0x480 ≤ o ∧ o < 0x4C0 then (wd f.rxMsg ((o - 0x480) / 4)).toNat
    else 0

/-- One line's block. -/
def lineReg (s : State) (l o : Nat) : Nat :=
  if o < 0x200 then convReg (s.cv l) o else if o < 0x400 then dspReg (s.ds l) o else frameReg (s.fr l) o

/-- The client block (Table 5-7). -/
def clientReg (s : State) (o : Nat) : Nat :=
  if 0x100 ≤ o ∧ o < 0x148 then
    let i := (o - 0x100) / 4
    let c := s.lane i
    let own := laneOwner s i
    c.ctle * 2 ^ 24 + bitAt own.isSome 15 + own.getD 0 * 2 ^ 12 + bitAt c.raw 11 + bitAt (flag c.cfg 8) 10 + bitAt (flag c.cfg 7) 9 +
      bitAt c.sigdet 8 + bitAt c.txOn 4 + c.rx.code
  else if o = 0x150 then s.cl.laneLos.toNat
  else if o = 0x154 then s.cl.laneAdapt.toNat
  else if 0x200 ≤ o ∧ o < 0x220 then
    let p := s.port ((o - 0x200) / 4)
    p.paused.toNat * 2 ^ 24 + p.xoff.toNat * 2 ^ 16 + bitAt p.lfSent 11 + bitAt p.rxRf 10 + bitAt p.rxLf 9 + bitAt p.aligned 8 +
      (if p.enabled then p.mode * 2 ^ 4 else 0) + p.st.code
  else if o = 0x240 then s.cl.portFault.toNat
  else if o = 0x300 then s.cl.keys.ents.length
  else if 0x400 ≤ o ∧ o < 0x440 then
    let c := s.lane ((o - 0x400) / 4)
    bitAt c.lock 31 + c.err
  else 0

/-- The Nutmeg block (Table 6-5). -/
def nutReg (s : State) (o : Nat) : Nat :=
  let n := s.nut
  match o with
  | 0x00 => lanesIn n false * 2 ^ 16 + lanesIn n true * 2 ^ 8 + n.txD.code * 4 + n.rxD.code
  | 0x04 => n.fault.toNat
  | 0x08 => n.fenceTx.toNat
  | 0x0C => n.fenceRx.toNat
  | 0x10 => bitAt n.locked 31 + bitAt n.authAllow 1 + bitAt n.bypassAllow 0
  | 0x14 => n.last.toNat
  | 0x1028 => bitAt (decide (s.now < n.busyTill)) 31 + n.result * 2 ^ 24 + n.wrMask.toNat
  | _ => 0

/-- Free merge space in units of 64 KB. -/
def mergeFree (s : State) : Nat := regionSize s 0 / 65536 - (s.sett.merge.ents.map fun e => e.2.ringU).sum

/-- HOLD_MIN of a line as SETT_HOLD_MIN shows it (R215). -/
def holdMinReg (s : State) (l : Nat) : Nat := if delayValid s l then min 0xFFFF (holdMin (delayOf s l)) else 0xFFFF

/-- STATE of a stack's scrubber (Table 8-5): off, running, paused, carried. -/
def scrubState (s : State) (t : Nat) : Nat :=
  if !s.ecc.enable || !s.ecc.started then 0 else if s.sett.st != .ready then 2 else if (s.tgt t).carried then 3 else 1

/-- The Sett and ECC block (Tables 7-9 and 8-5). -/
def settReg (s : State) (o : Nat) : Nat :=
  let t := s.sett
  let e := s.ecc
  match o with
  | 0x00 => t.stackFail.toNat * 2 ^ 16 + t.hot.toNat * 2 ^ 12 + t.refx2.toNat * 2 ^ 8 + t.st.code
  | 0x04 => t.fault.toNat
  | 0x08 => eccHeld s * 2 ^ 16 + dataUsed s
  | 0x0C => ((List.range 4).map fun k => (t.temp.get k).toNat * 2 ^ (8 * k)).sum
  | 0x10 => t.rxHigh.toNat * 2 ^ 8 + t.txXoff.toNat
  | 0x14 => holdMinReg s 1 * 2 ^ 16 + holdMinReg s 0
  | 0x18 => 0x0B80
  | 0x1C => mergeFree s
  | 0x20 => capHeld s * 2 ^ 5 + bitAt t.capGap 4 + bitAt (decide (capRoom s < t.recs)) 2 + t.cap.code
  | 0x110 => ((List.range 8).map fun i => (s.tgt i).passes).foldl min 0xFFFFFFFF
  | 0x130 => e.fault.toNat
  | 0x134 => e.last0.toNat
  | 0x138 => wordAt e.lastAddr 0
  | 0x13C => wordAt e.lastAddr 1
  | 0x140 => wordAt e.flipData.toNat 0
  | 0x144 => wordAt e.flipData.toNat 1
  | 0x148 => e.flipChk.toNat
  | 0x14C => wordAt e.flipAddr.toNat 0
  | 0x150 => wordAt e.flipAddr.toNat 1
  | 0x154 => e.flipCtl.toNat
  | _ =>
    if 0x100 ≤ o ∧ o < 0x110 then
      let x := s.tgt (16 + (o - 0x100) / 4)
      min 0xFFFF x.passes * 2 ^ 16 + x.pos * 256 / (scrubEnd + 1) % 256 * 2 ^ 8 + scrubState s (16 + (o - 0x100) / 4)
    else if 0x120 ≤ o ∧ o < 0x130 then
      let x := s.tgt (16 + (o - 0x120) / 4)
      x.fuses.length * 2 ^ 16 + x.spares.countP fun r => r.valid && r.origin != 2
    else 0

/-- FOFS of a reference (R285): 0.001 ppm, saturating; 0x8000 for none. -/
def fofs (x : Option Int) : Nat := match x with
  | none => 0x8000
  | some v => wrapInt 16 (clamp (-32767) 32767 (roundDiv v 1000))

/-- CLKOUTk runs at a whole number of hertz (R277). -/
def clkAligned (x : OutS) : Bool :=
  let den := fld (wd x.cfg 4) 23 0
  x.on && den != 0 && 1600000000 * fld (wd x.cfg 3) 23 0 % den == 0

/-- The timing block (Table 9-7). -/
def timReg (s : State) (o : Nat) : Nat :=
  let t := s.tim
  match o with
  | 0x00 => (t.hist.countP (·.valid)) * 2 ^ 21 + t.hoQual * 2 ^ 17 + bitAt t.xoCorrOk 16 + bitAt t.slewing 15 + bitAt t.ocxo 14 +
      t.sel * 2 ^ 8 + t.st.code
  | 0x04 => t.fault.toNat
  | 0x08 => wrapInt 48 t.fcw % 2 ^ 32
  | 0x0C => wrapInt 48 t.fcw / 2 ^ 32
  | 0x10 => wrapInt 48 t.ho % 2 ^ 32
  | 0x14 => wrapInt 48 t.ho / 2 ^ 32
  | 0x18 => wrapInt 32 t.phErr
  | 0x1C => wrapInt 32 t.pbo
  | 0x20 => todWord s.now 0
  | 0x24 => todWord s.now 1
  | 0x28 => todWord s.now 2
  | 0x60 =>
    let via := if isFollower s then viaLink s else none
    t.master * 2 ^ 12 + chainHops s * 2 ^ 10 + bitAt (via == some true) 9 + bitAt t.chainLock 8 + t.linkB.st.code * 4 + t.linkA.st.code
  | 0x64 => wrapInt 16 t.linkB.dly * 2 ^ 16 + wrapInt 16 t.linkA.dly
  | 0x68 =>
    bitsAt ((List.range 6).map fun o => flag (wd (t.out.get o).cfg 0) 31 && squelched s (t.out.get o).cfg) 8 +
      bitsAt ((List.range 2).map fun n => (t.out.get (4 + n)).fly) 4 + bitsAt ((List.range 4).map fun k => clkAligned (t.out.get k)) 0
  | _ =>
    if 0x30 ≤ o ∧ o < 0x50 then
      let r := s.ref ((o - 0x30) / 4)
      fofs r.offset * 2 ^ 16 + (r.wtrLeft + 124999) / 125000 * 2 ^ 6 + bitAt r.phase 5 + bitAt r.freq 4 + bitAt r.los 3 + bitAt r.strict 2 + r.st.code
    else if 0x50 ≤ o ∧ o < 0x60 then optWord (s.ref ((o - 0x50) / 4)).ph
    else 0

/-- A time-transfer post (Table 10-8). -/
def postWord (p : PostS) (i : Nat) : Nat :=
  match i with
  | 0 => wrapInt 48 p.appIn % 2 ^ 32
  | 1 => wrapInt 48 p.appIn / 2 ^ 32
  | 2 => wrapInt 48 p.appOut % 2 ^ 32
  | 3 => wrapInt 48 p.appOut / 2 ^ 32
  | 4 => wrapInt 48 p.theta % 2 ^ 32
  | 5 => wrapInt 48 p.theta / 2 ^ 32
  | 6 => wrapInt 32 p.asym
  | _ => bitAt p.valid 31 + p.samples % 2 ^ 17

/-- The line whose MC has a role, L0 when none. -/
def mcLine (s : State) : Nat := if (s.ml 0).role = 0 ∧ (s.ml 1).role ≠ 0 then 1 else 0

/-- The Marten block (Table 10-8). -/
def martenReg (s : State) (o : Nat) : Nat :=
  let m := s.ml (mcLine s)
  if o = 0 then usingSrc s * 2 ^ 16 + bitAt (s.sett.dlyValid.get 1) 9 + bitAt (s.sett.dlyValid.get 0) 8 + bitAt (s.ml 1).calPend 1 + bitAt (s.ml 0).calPend 0
  else if o = 4 then s.mar.fault.toNat
  else if o = 8 then wrapInt 32 s.mar.renum
  else if 0x100 ≤ o ∧ o < 0x180 then
    let l := (o - 0x100) / 0x40
    let x := s.ml l
    let q := (o - 0x100) % 0x40
    match q with
    | 0x20 => if s.sett.dlyValid.get l then wrapInt 48 (delayOf s l) % 2 ^ 32 else 0
    | 0x24 => if s.sett.dlyValid.get l then wrapInt 48 (delayOf s l) / 2 ^ 32 else 0
    | 0x28 => optWord x.avgIn
    | 0x2C => optWord x.avgOut
    | 0x30 => wrapInt 32 x.drift
    | 0x34 => optWord x.calIn
    | 0x38 => optWord x.calOut
    | _ => if q < 0x20 then postWord x.post (q / 4) else 0
  else if o = 0x200 then
    bitsAt ((List.range 16).map fun j => (m.leaf.get j).ranged) 16 + bitAt m.ranged 9 + bitAt (mcLine s == 1) 8 + m.mcSt.code * 2 ^ 4 + m.role
  else if 0x210 ≤ o ∧ o < 0x230 then postWord m.mcPost ((o - 0x210) / 4)
  else if o = 0x230 then (match m.strength with
    | none => 0x8000
    | some v => wrapInt 16 v)
  else 0

/-- CLOVE_RES_k (Table 11-7). -/
def resWord (r : ResS) : Nat :=
  bitAt r.valid 31 + bitAt r.ovr 30 + bitAt r.uns 29 + bitAt r.fb 28 + bitAt r.tst 27 + r.lane % 4 * 2 ^ 24 + wrapInt 24 r.data

/-- The Clove block (Table 11-7). -/
def cloveReg (s : State) (o : Nat) : Nat :=
  let c := s.clv
  if o = 0 then
    ((List.range 4).map fun j => (if c.st == .fallback then 7 else c.slice j) % 8 * 2 ^ (16 + 3 * j)).sum + bitAt c.spareOk 14 + c.nextLane % 4 * 2 ^ 12 +
      c.offline % 8 * 2 ^ 8 + bitAt c.injStep.isSome 5 + bitAt (c.st.runs && seqMode c.seq != 0) 4 + c.st.code
  else if o = 4 then c.fault.toNat
  else if 0x100 ≤ o ∧ o < 0x1C0 then resWord (c.res.get ((o - 0x100) / 4))
  else if 0x200 ≤ o ∧ o < 0x20C then todWord c.pInjTime ((o - 0x200) / 4)
  else if o = 0x20C then min 0xFFFF c.runs * 2 ^ 16 + c.pInjSrc % 256 * 2 ^ 8 + c.pInjLen % 16 * 2 ^ 4
  else if 0x210 ≤ o ∧ o < 0x230 then resWord (c.pInjRes.getD ((o - 0x210) / 4) {})
  else if 0x300 ≤ o ∧ o < 0x380 then
    let d := c.det.get ((o - 0x300) / 8)
    if o % 8 = 0 then bitAt d.valid 31 + bitAt d.pOvr 30 + bitAt d.hi 29 + bitAt d.lo 28 + wrapInt 24 d.value else wrapInt 24 d.value2
  else if 0x400 ≤ o ∧ o < 0x440 then
    let b := c.bias.get ((o - 0x400) / 4)
    bitAt b.limit 23 + b.loop.code * 2 ^ 20 + bitAt b.en 16 + b.base % 2 ^ 16
  else if 0x500 ≤ o ∧ o < 0x52C then resWord (c.sup.get ((o - 0x500) / 4))
  else 0

/-- The oldest message of a messenger as its four words (Table 13-7). -/
def msgWord (q : MsgQ) (i : Nat) : Nat :=
  match q.q with
  | [] => 0
  | (m, ovf) :: _ =>
    match i with
    | 0 => 2 ^ 31 + bitAt ovf 30 + m.m.val * 2 ^ 24 + m.kind.toNat * 2 ^ 16
    | 1 => wordAt m.addr.toNat 0
    | 2 => wordAt m.addr.toNat 1
    | _ => m.data.toNat

/-- The fault and log block (Tables 12-16 and 13-7). -/
def faultReg (s : State) (o : Nat) : Nat :=
  let f := s.flt
  if o = 0 then bitAt f.locked 31 + bitAt f.faultN 30 + f.win.keys.length
  else if o = 4 then bitAt f.first 31 + bitAt f.ovf 30 + f.firstCls * 2 ^ 28 + f.firstFs
  else if o = 8 then wordAt f.firstTick 0
  else if o = 0xC then wordAt f.firstTick 1
  else if 0x100 ≤ o ∧ o < 0x140 then wordAt f.pend.toNat ((o - 0x100) / 4)
  else if 0x140 ≤ o ∧ o < 0x180 then wordAt f.broken.toNat ((o - 0x140) / 4)
  else if 0x180 ≤ o ∧ o < 0x1C0 then wordAt f.esc.toNat ((o - 0x180) / 4)
  else if 0x200 ≤ o ∧ o < 0x280 then msgWord (f.msg.get ((o - 0x200) / 16)) (o % 16 / 4)
  else if o = 0x284 then f.chainLast.toNat
  else if 0x290 ≤ o ∧ o < 0x2A0 then f.wins.getD ((o - 0x290) / 4) 0
  else if o = 0x2A0 then f.wd
  else if 0x800 ≤ o ∧ o < 0x1000 then (f.word ((o - 0x800) / 4)).toNat
  else if o = 0xF000 then s.cmd.logSeq
  else if o = 0xF004 then logOldest s.cmd
  else if o = 0xF008 then s.cmd.logLost
  else if o = 0xF00C then
    bitAt (decide (4096 ≤ s.cmd.log.length)) 31 + bitAt (flag s.cmd.logCfg 0) 30 + bitAt (flag s.cmd.logCfg 1) 29 + s.cmd.log.length
  else 0

/-- A slot's pair of the user window (R406): OVF shows for either half of a chain (R398). -/
def uwinWord (c : CntS) (i k : Nat) : Nat :=
  match if c.uwEn then c.uw.get i else none with
  | none => 0
  | some n =>
    let x := c.snap.get n
    if k = 0 then wordAt x.val 0 else bitAt x.ovf 16 + x.val / 2 ^ 32 % 2 ^ 16

/-- The counter block (Table 13-11). -/
def cntReg (s : State) (o : Nat) : Nat :=
  let c := s.cnt
  if o < 0x8000 then (if o % 8 = 0 then cntLo c.snap (o / 8) else cntHi c.snap (o / 8)).toNat
  else if o < 0x8800 then uwinWord c ((o - 0x8000) / 8) (o % 8 / 4)
  else if o = 0x8800 then bitAt c.uwEn 31 + 0xFF
  else if o = 0x8804 then wordAt c.snapTick 0
  else if o = 0x8808 then wordAt c.snapTick 1
  else if o = 0x880C then 0x16080001
  else if 0x8C00 ≤ o ∧ o < 0x9000 then
    match c.uw.get ((o - 0x8C00) / 4) with
    | none => 0
    | some n => 2 ^ 31 + n * 2 ^ 12 + fld (c.cnt.get n).cfg 11 0
  else if o = 0x9000 then wordAt c.snapTick 0
  else if o = 0x9004 then wordAt c.snapTick 1
  else if o = 0x9008 then c.dump.code * 2 ^ 30
  else if o = 0x900C then c.seq
  else if o = 0x9010 then c.head
  else 0

/-- What the balls of R436 show: per line the DACs at mid-code, per lane the transmitter at electrical idle, per output 0 to 5 a low
level, per bias output high impedance, and whether FAULT_N is pulled low. -/
def balls (s : State) : List Bool × List Bool × List Bool × List Bool × Bool :=
  ((List.range 2).map fun l => (s.cv l).muted, (List.range 18).map fun i => !(s.lane i).txOn, (List.range 6).map fun o => !(s.tim.out.get o).on,
   (List.range 16).map fun k => (s.clv.bias.get k).code.isNone, s.live && s.flt.faultN)

/-- PWR_GATE (R426, Table 14-16). -/
def pwrGate (s : State) : Nat :=
  let deep := s.pwr.st == .p2 || s.pwr.st == .p3
  let lineOffNow := fun l => (s.cv l).optics == 0 || !(linesOn s.pwr.st s.pwr.p1Line).contains l
  let portGated := fun p => (s.port p).st == .disabled && (List.range 2).all fun i => !(s.lane (2 * p + i)).raw
  bitAt deep 14 + bitAt deep 13 + bitAt (!s.chained) 12 + bitsAt ((List.range 8).map portGated) 4 +
    bitsAt [lineOffNow 0, lineOffNow 0, lineOffNow 1, lineOffNow 1] 0

/-- The power block (Table 14-16). -/
def pwrReg (s : State) (o : Nat) : Nat :=
  let p := s.pwr
  if o = 0 then
    bitsAt ((List.range 8).map fun r => (p.reg.get r).en) 16 + bitAt p.changing 15 + p.target.code * 2 ^ 10 + p.p1Line % 2 * 2 ^ 9 + p.st.code
  else if o = 4 then p.fault0.toNat
  else if o = 8 then p.fault1.toNat
  else if o = 0xC then p.vFuse % 256 * 2 ^ 24 + p.kT % 16 * 2 ^ 20 + wrapInt 4 p.margin * 2 ^ 16 + p.avs % 2 ^ 16
  else if o = 0x10 then (match p.tHot with
    | none => 0x8000
    | some t => wrapInt 16 t)
  else if o = 0x14 then powerIn s % 2 ^ 16
  else if o = 0x18 then pwrGate s
  else if 0x100 ≤ o ∧ o < 0x140 then
    let r := p.reg.get ((o - 0x100) / 8)
    if o % 8 = 0 then r.iout % 2 ^ 16 * 2 ^ 16 + r.vout % 2 ^ 16 else wrapInt 8 r.temp * 2 ^ 24 + r.status.toNat
  else 0

/-- The command block (Tables 12-3 and 12-13). -/
def cmdReg (s : State) (o : Nat) : Nat :=
  if o < 0x400 then
    let k := s.ring (o / 0x40)
    match o % 0x40 with
    | 0x00 => wordAt k.sqBase.toNat 0
    | 0x04 => wordAt k.sqBase.toNat 1
    | 0x08 => wordAt k.cqBase.toNat 0
    | 0x0C => wordAt k.cqBase.toNat 1
    | 0x10 => bitAt k.en 31 + bitAt k.irqEn 30 + k.cqSize * 2 ^ 8 + k.sqSize
    | 0x14 => k.sqTail
    | 0x18 => k.cqHead
    | 0x1C => k.halt * 2 ^ 28 + k.st.code * 2 ^ 24 + k.sqHead
    | 0x20 => bitAt (k.pass % 2 == 1) 16 + k.cqTail
    | _ => 0
  else if o = 0x1000 then resReady s.cmd * 2 ^ 16 + s.cmd.store.length
  else if o = 0x1004 then s.cmd.remote.length * 2 ^ 4 + s.cmd.fwdOut.length
  else 0

/-- The word that a register holds now, 0 where none is assigned (R11). -/
def regNow (s : State) (a : Nat) : Word :=
  let o := a % 0x100000
  if a % 4 ≠ 0 then 0
  else mkWord <| match a / 0x100000 with
    | 0 => globalReg s o
    | 1 => lineReg s 0 o
    | 2 => lineReg s 1 o
    | 3 => clientReg s o
    | 4 => nutReg s o
    | 5 => settReg s o
    | 6 => timReg s o
    | 7 => martenReg s o
    | 8 => cloveReg s o
    | 9 => faultReg s o
    | 0xA => cntReg s o
    | 0xB => pwrReg s o
    | 0xC => cmdReg s o
    | _ => 0

/-! ### Snapshots and access (R12, R13) -/

/-- The group that starts at `base`, `n` words long, when the offset lies in it. -/
def inGroup (o base n : Nat) : Option (Nat × Nat) := if base ≤ o ∧ o < base + 4 * n then some (base, n) else none

/-- The group among `count` groups of `n` words, `n` words apart, from `base`. -/
def inGroups (o base n count : Nat) : Option (Nat × Nat) :=
  if base ≤ o ∧ o < base + 4 * n * count then some (base + (o - base) / (4 * n) * (4 * n), n) else none

/-- The wide RS register that a word belongs to, as offset of its lowest word and number of words. -/
def rsGroup (s : State) (a : Nat) : Option (Nat × Nat) :=
  let o := a % 0x100000
  match a / 0x100000 with
  | 0 => inGroup o 0x10 2
  | 1 | 2 => inGroups o 0x300 2 16 <|> inGroup o 0x408 2 <|> inGroup o 0x410 2 <|> inGroup o 0x420 8 <|> inGroup o 0x480 16
  | 5 => inGroup o 0x134 3
  | 6 => inGroup o 0x08 2 <|> inGroup o 0x10 2 <|> inGroup o 0x20 3
  | 7 => inGroup o 0x100 8 <|> inGroup o 0x140 8 <|> inGroup o 0x120 2 <|> inGroup o 0x160 2 <|> inGroup o 0x210 8
  | 8 => inGroup o 0x200 12 <|> inGroups o 0x300 2 16
  | 9 => inGroup o 8 2 <|> inGroups o 0x200 4 8
  | 0xA =>
    if o < 0x8000 then
      let n := o / 8
      if cntIsLow s.cnt.snap n then some (8 * n, 4) else if cntIsHigh s.cnt.snap n then some (8 * (n - 1), 4) else some (8 * n, 2)
    else inGroups o 0x8000 2 256 <|> inGroup o 0x8804 2
  | _ => none

/-- Fault registers and the other words that PF0 alone may read (R13, Table 12-1). -/
def pf0Only (a : Nat) : Bool :=
  let o := a % 0x100000
  match a / 0x100000 with
  | 0 => !(decide (o < 0x1C))
  | 1 | 2 => o == 0x104 || o == 0x204 || o == 0x404
  | 3 => o == 0x150 || o == 0x154 || o == 0x240
  | 4 => o == 4 || decide (0x1000 ≤ o)
  | 5 => o == 4 || decide (0x130 ≤ o)
  | 6 | 7 | 8 => o == 4
  | 0xA => !(decide (0x8000 ≤ o) && decide (o < 0x9000))
  | 0xB => o == 4 || o == 8
  | _ => true

/-- The snapshot table of a function. -/
def snapOf (s : State) (pf1 : Bool) : Table (Option Word) := if pf1 then s.pci.snap1 else s.pci.snap0

/-- A read of BAR0 by a function: the answer, with the snapshot that a lowest word takes (R12). Every RS register resets to 0. -/
def regRead (pf1 : Bool) (a : Nat) (s : State) : State :=
  let answer := fun (v : Word) (s : State) => { s with pci := { s.pci with rdata := v } }
  if pf1 && pf0Only a then answer 0 s
  else match rsGroup s a with
    | none => answer (regNow s a) s
    | some (lo, n) =>
      let base := a / 0x100000 * 0x100000
      if a = base + lo then
        let t := (List.range n).foldl (fun t i => t.set (a + 4 * i) (some (regNow s (a + 4 * i)))) (snapOf s pf1)
        answer (regNow s a) { s with pci := if pf1 then { s.pci with snap1 := t } else { s.pci with snap0 := t } }
      else answer (((snapOf s pf1).get a).getD 0) s

/-- RS_LOW_WORD_READ (R12, R13): a read of a register; of the lowest word of a wide RS register it takes the snapshot. -/
def execRsLowWordRead (pf1 : Bool) (addr : BitVec 26) (s : State) : Res :=
  if s.live then .next (regRead pf1 addr.toNat s) else .next s

/-! ### Writes (R10, R11) -/

/-- Write 1 to clear. -/
def w1c {n : Nat} (x : BitVec n) (val : Word) : BitVec n := x &&& ~~~(val.setWidth n)

/-- A word of a 64-bit RW register is replaced. -/
def putLo (x : BitVec 64) (val : Word) : BitVec 64 := x.extractLsb' 32 32 ++ val
/-- The high word of a 64-bit RW register is replaced. -/
def putHi (x : BitVec 64) (val : Word) : BitVec 64 := val ++ x.extractLsb' 0 32

/-- A write in the block of a line: its three fault registers. -/
def lineWrite (l o : Nat) (val : Word) (s : State) : State :=
  match o with
  | 0x104 => s.onConv l fun c => { c with fault := w1c c.fault val }
  | 0x204 => s.onDsp l fun d => { d with fault := w1c d.fault val }
  | 0x404 => s.onFrm l fun f => { f with fault := w1c f.fault val }
  | _ => s

/-- A write in the blocks that P3 powers down. -/
def blockWrite (blk o : Nat) (val : Word) (s : State) : State :=
  match blk, o with
  | 1, _ => lineWrite 0 o val s
  | 2, _ => lineWrite 1 o val s
  | 3, 0x150 => { s with cl := { s.cl with laneLos := w1c s.cl.laneLos val } }
  | 3, 0x154 => { s with cl := { s.cl with laneAdapt := w1c s.cl.laneAdapt val } }
  | 3, 0x240 => { s with cl := { s.cl with portFault := w1c s.cl.portFault val } }
  | 4, 4 => { s with nut := { s.nut with fault := w1c s.nut.fault val } }
  | 5, 4 => { s with sett := { s.sett with fault := w1c s.sett.fault val } }
  | 5, 0x130 => { s with ecc := { s.ecc with fault := w1c s.ecc.fault val } }
  | 5, 0x140 => { s with ecc := { s.ecc with flipData := putLo s.ecc.flipData val } }
  | 5, 0x144 => { s with ecc := { s.ecc with flipData := putHi s.ecc.flipData val } }
  | 5, 0x148 => { s with ecc := { s.ecc with flipChk := val.setWidth 16 } }
  | 5, 0x14C => { s with ecc := { s.ecc with flipAddr := putLo s.ecc.flipAddr val } }
  | 5, 0x150 => { s with ecc := { s.ecc with flipAddr := putHi s.ecc.flipAddr val } }
  | 6, 4 => { s with tim := { s.tim with fault := w1c s.tim.fault val } }
  | 7, 4 => { s with mar := { s.mar with fault := w1c s.mar.fault val } }
  | 8, 4 => { s with clv := { s.clv with fault := w1c s.clv.fault val } }
  | _, _ => s

/-- A write in the fault block: FLT_BROKEN and FLT_ESC. -/
def faultWrite (o : Nat) (val : Word) (s : State) : State :=
  let clear := fun (x : BitVec 512) (base : Nat) => x &&& ~~~(BitVec.ofNat 512 (val.toNat * 2 ^ (32 * ((o - base) / 4))))
  if 0x140 ≤ o ∧ o < 0x180 then s.onFlt fun f => { f with broken := clear f.broken 0x140 }
  else if 0x180 ≤ o ∧ o < 0x1C0 then s.onFlt fun f => { f with esc := clear f.esc 0x180 }
  else s

/-- A write in the command block: ring bases while EN is 0 (R348), the download registers in WAIT_PCIE (R370). -/
def cmdWrite (o : Nat) (val : Word) (s : State) : State :=
  if o < 0x400 then
    let r := o / 0x40
    if (s.ring r).en then s
    else match o % 0x40 with
      | 0x00 => s.onRing r fun k => { k with sqBase := putLo k.sqBase (val &&& 0xFFFFF000) }
      | 0x04 => s.onRing r fun k => { k with sqBase := putHi k.sqBase val }
      | 0x08 => s.onRing r fun k => { k with cqBase := putLo k.cqBase (val &&& 0xFFFFF000) }
      | 0x0C => s.onRing r fun k => { k with cqBase := putHi k.cqBase val }
      | _ => s
  else if s.cmd.boot = .waitPcie then
    match o with
    | 0x2000 => { s with cmd := { s.cmd with dlBase := putLo s.cmd.dlBase val } }
    | 0x2004 => { s with cmd := { s.cmd with dlBase := putHi s.cmd.dlBase val } }
    | 0x2008 => { s with cmd := { s.cmd with dlLen := val } }
    | _ => s
  else s

/-- A write in the global block. -/
def globalWrite (o : Nat) (val : Word) (s : State) : State :=
  if o = 0x1C then { s with tick := { s.tick with carry := w1c s.tick.carry val } }
  else if o = 0x24 then { s with cmd := { s.cmd with rstCause := w1c s.cmd.rstCause val } }
  else if 0x30 ≤ o ∧ o < 0x40 then { s with cmd := { s.cmd with scratch := s.cmd.scratch.set ((o - 0x30) / 4) val } }
  else s

/-- Dword i of a function's configuration space, as far as R7 gives it: Device ID and Vendor ID in dword 0, Revision ID in the low
byte of dword 2. PRESUMED (the places of PCI Express Base 5.0, log entry 52). -/
def cfgDword (s : State) (pf1 : Bool) (i : Nat) : Word :=
  let x := if pf1 then s.pci.id1 else s.pci.id0
  if i = 0 then x.device ++ x.vendor else if i = 2 then x.revision.setWidth 32 else 0

/-- A write of PF0 to a register with no row of its own. -/
def regWrite (a : Nat) (val : Word) (s : State) : State :=
  let o := a % 0x100000
  if a % 4 ≠ 0 then s
  else match a / 0x100000 with
    | 0 => globalWrite o val s
    | 9 => faultWrite o val s
    | 0xB =>
      if o = 4 then s.onPwr fun p => { p with fault0 := w1c p.fault0 val }
      else if o = 8 then s.onPwr fun p => { p with fault1 := w1c p.fault1 val }
      else s
    | 0xC => cmdWrite o val s
    | b => if s.inP3 then s else blockWrite b o val s

/-- REG_WRITE (R10, R11, R13): PF1 writes nothing. -/
def execRegWrite (pf1 : Bool) (addr : BitVec 26) (val : Word) (s : State) : Res :=
  if s.live && !pf1 then .next (regWrite addr.toNat val s) else .next s

end Sys2Proof.Machine
end

