-- ==== Sys2Proof/Machine/Tick.lean ====
section
/-! DEFINITION. The tick boundary (chapter 1): the number and time of the new tick, work carried over from the last one, the
timers of every block, and the six ordered steps of R28. -/

namespace Sys2Proof.Machine

/-- The number and time of the next tick (R18 to R20): a stretched tick ends at a TAI tick position. -/
def nextTick (s : State) : State :=
  let t := s.tick
  let tod := if t.stretched then (t.tod + 2 * tickUnits - 1) / tickUnits * tickUnits else t.tod + tickUnits
  { s with tick := { t with num := (t.num + 1) % 2 ^ 64, count := t.count + 1, tod := tod, sub := 0, stretched := false } }

/-- The units of Table 1-3 that carried in the tick that ended, Clove's apart (its own timers count it). -/
def carriedUnits (s : State) : List Nat :=
  let four := [16, 17, 18, 19]
  (if s.cnt.buf.isSome then [0] else []) ++ (if four.any (scrubBehind s) then [1] else []) ++
  (if four.any fun t => (s.tgt t).wb.any (!·.held) then [2] else []) ++ (if s.cmd.logQ.isEmpty then [] else [3])

/-- A staged item that is part of a table (R30 bit 5): an entry of one of the tables that the manual names so, not carried yet. A
carried table is applied whole at the next boundary. -/
def tableItem (g : Staged) : Bool :=
  !g.carried && (g.item == .flow || g.item == .key || g.item == .cls || g.item == .arb || g.item == .sa || g.item == .uwin ||
    g.item == .cnt || g.item == .fltCfg)

/-- The apply unit carries: the boundary is asked to hold back a staged table. -/
def applyCarries (i : TickIn) (s : State) : Bool := i.applyCarry && s.tick.staged.any tableItem

/-- The carries of the tick that ended (R30): sticky bits, counters, runs, and the faults of runs of 16 and more. -/
def carryTurn (old : Table Nat) (s : State) : State :=
  let run := (List.range 6).foldl (fun t u => if s.tick.carryRun.get u = old.get u then t.set u 0 else t) s.tick.carryRun
  { s with tick := { s.tick with
      carryRun := run
      carryDue := BitVec.ofNat 6 (((List.range 6).filter fun u => 16 ≤ run.get u).map (2 ^ ·)).sum } }

/-- Work that is carried into the new tick (R30). -/
def carryWork (i : TickIn) (s : State) : State :=
  let s := s.each (carriedUnits s) fun s u => s.carry u
  let s := s.when s.cnt.buf.isSome fun s => { s with cnt := { s.cnt with carried := true } }
  s.when (applyCarries i s) (·.carry 5)

/-- The timers, monitors and loops of every block, before anything staged takes effect. -/
def blockTicks (i : TickIn) (s : State) : State :=
  let s := marSeen { s with clv := { s.clv with trig := 0 } }
  let s := s.each [0, 1] fun s l => convTick l i s
  let s := s.each [0, 1] fun s l => dspTick l i s
  let s := s.each [0, 1] fun s l => frameTick l s
  let s := s.each (List.range 18) fun s k => laneTick k i s
  let s := capTurn (s.each (List.range 8) fun s p => portTick p i s)
  let s := nutTick (ageTick s)
  let s := settTick (eccTick s)
  let s := slewTick (timTick i s)
  let s := cloveTick (marTick i s)
  pwrTick (fltTick (cmdTick s))

/-- A line's subcarriers follow whether it sends frames (R51, R95), and a quality window that has run its length ends (R114). -/
def lineTurn (s : State) (l : Nat) : State :=
  let s := if !s.sends l then darkAll l s else if !(s.fr l).txStarted then lightAll l s else s
  s.when (windowMark s l) (windowEnd l false)

/-- The change of time that the DPLL asked for (R269). -/
def retimeTurn (s : State) : State :=
  if s.tim.retime = 0 then s else changeTime s.tim.retime { s with tim := { s.tim with retime := 0 } }

/-- No block is in its start-up state (R425). -/
def startedUp (s : State) : Bool :=
  s.sett.st != .train && s.sett.st != .clear && s.clv.st != .cal && s.nut.txD != .selftest && s.nut.rxD != .selftest

/-- After an exit from P3 the table's records are applied again, and the change goes on toward its target (R425, `changeTurn`). -/
def replayTurn (s : State) : State :=
  if s.pwr.replay && startedUp s then
    (replayRecords s).onPwr fun p => { p with replay := false, changing := p.target == .p0 || p.target == .p1 }
  else s

/-- A staged item waits for the next boundary: a carried table, or Sett items while the Sett is not READY (R212). -/
def heldBack (carry ready : Bool) (g : Staged) : Bool :=
  (carry && tableItem g) || (!ready && (g.item == .merge || g.item == .cls))

/-- Step 2 of R28: every staged item takes effect, in the order of commit. -/
def applyStaged (i : TickIn) (s : State) : State :=
  let carry := applyCarries i s
  let ready := s.sett.st == .ready
  let all := s.tick.staged
  let held := (all.filter (heldBack carry ready)).map fun g => { g with carried := g.carried || (carry && tableItem g) }
  let s := { s with tick := { s.tick with staged := held } }
  s.each (all.filter fun g => !heldBack carry ready g) fun s g => applyItem g s

/-- Step 6 of R28 on one line: its frame leaves and its cells pass the capture tap. -/
def sendTurn (s : State) (l : Nat) : State :=
  let r := sendFrame l (ttField s l) s
  match r.2 with
  | some f => r.1.each (f.cells.zipIdx 1) fun s c => capture (3 + l) l f.num c.2 false c.1 s
  | none => r.1

/-- Steps 1 and 2 of R28, with what comes before them. -/
def boundaryApply (i : TickIn) (s : State) : State :=
  let old := s.tick.carryRun
  let s := carryTurn old (blockTicks i (carryWork i (nextTick s)))
  let s := cntSnapshot s
  let s := s.each i.upsets fun s u => applyUpset u s
  let s := retimeTurn (s.each [0, 1] lineTurn)
  let s := s.each [0, 1] fun s l => s.each (List.range 4) fun s a => adcAct l a s
  let s := (applyStaged i (replayTurn (tableTurn s))).each [0, 1] fun s l => windowBegin l (swapTurn l s)
  let s := (s.each (List.range 18) fun s k => laneTurn k s).each (List.range 8) fun s p => sigTurn p s
  let s := timBegin (settBegin (eccBegin (cloveAfterApply s)))
  { s with cnt := { s.cnt with snapTick := s.tick.num, snapTod := s.tick.tod } }

/-- Steps 3 to 6 of R28. -/
def boundaryRest (s : State) : State :=
  let s := s.each (List.range 8) fun s p => pfcTick p s
  let s := historyTick s
  let set := s.clv.supNew
  let s := dumpTick (supUse set (clovePost s))
  let s := s.each [0, 1] sendTurn
  let s := s.each (List.range 6) outTick
  sendTime true (sendTime false s)

/-- TICK_BOUNDARY (R16 to R28): in P3, and while the device is held in reset, the tick stands still. At the boundary that enters P3 the
units of steps 3 to 6 have been turned off, and the tick that begins there stops at its end (R23, R424). -/
def execTickBoundary (i : TickIn) (s : State) : Res :=
  if s.live && s.tick.stopDue then .next { s with tick := { s.tick with running := false, stopDue := false } }
  else if s.up && s.tick.running then
    let s := boundaryApply i s
    .next (if s.inP3 then s else boundaryRest (postTick s))
  else .next s

/-- CARRY_FAULT (R30): the carry fault of a unit at the end of the 16th tick of a run of carries, and of each tick after it. -/
def execCarryFault (u : Fin 6) (s : State) : Res :=
  if s.live && s.tick.carryDue.getLsbD u then
    .next (State.signal { s with tick := { s.tick with carryDue := putBit s.tick.carryDue u false } } (8 + u))
  else .next s

end Sys2Proof.Machine
end

