-- ==== Sys2Proof/Machine/Dispatch.lean ====
section
/-! DEFINITION. What each command does: one arm for each constructor of Instr, one direct call of its meaning. -/

namespace Sys2Proof.Machine

/-- The effect of a command on everything but the queue. -/
def exec (i : Instr) (s : State) : Host.Outcome State Fault Refusal :=
  match i with
  | .sysNop h ws => Sys2Proof.Machine.execSysNop h ws s
  | .sysIdentify h ws => Sys2Proof.Machine.execSysIdentify h ws s
  | .sysResultGet h ws => Sys2Proof.Machine.execSysResultGet h ws s
  | .sysResultRelease h ws => Sys2Proof.Machine.execSysResultRelease h ws s
  | .sysBootCfg h ws => Sys2Proof.Machine.execSysBootCfg h ws s
  | .sysReset h ws => Sys2Proof.Machine.execSysReset h ws s
  | .fwStage h ws => Sys2Proof.Machine.execFwStage h ws s
  | .fwActivate h ws => Sys2Proof.Machine.execFwActivate h ws s
  | .fwFuse h ws => Sys2Proof.Machine.execFwFuse h ws s
  | .fwInfo h ws => Sys2Proof.Machine.execFwInfo h ws s
  | .lineConvSet h ws => Sys2Proof.Machine.execLineConvSet h ws s
  | .lineConvCal h ws => Sys2Proof.Machine.execLineConvCal h ws s
  | .lineConvBgcal h ws => Sys2Proof.Machine.execLineConvBgcal h ws s
  | .lineConvStatus h ws => Sys2Proof.Machine.execLineConvStatus h ws s
  | .lineConvRetire h ws => Sys2Proof.Machine.execLineConvRetire h ws s
  | .lineScCfg h ws => Sys2Proof.Machine.execLineScCfg h ws s
  | .lineLoadSet h ws => Sys2Proof.Machine.execLineLoadSet h ws s
  | .lineEqLoad h ws => Sys2Proof.Machine.execLineEqLoad h ws s
  | .lineRxCfg h ws => Sys2Proof.Machine.execLineRxCfg h ws s
  | .lineRxAcq h ws => Sys2Proof.Machine.execLineRxAcq h ws s
  | .lineEqRead h ws => Sys2Proof.Machine.execLineEqRead h ws s
  | .lineFecCfg h ws => Sys2Proof.Machine.execLineFecCfg h ws s
  | .lineHdrMsg h ws => Sys2Proof.Machine.execLineHdrMsg h ws s
  | .clientLaneCfg h ws => Sys2Proof.Machine.execClientLaneCfg h ws s
  | .clientLaneRaw h ws => Sys2Proof.Machine.execClientLaneRaw h ws s
  | .clientLaneRead h ws => Sys2Proof.Machine.execClientLaneRead h ws s
  | .clientPortCfg h ws => Sys2Proof.Machine.execClientPortCfg h ws s
  | .clientPfcCfg h ws => Sys2Proof.Machine.execClientPfcCfg h ws s
  | .clientRefSel h ws => Sys2Proof.Machine.execClientRefSel h ws s
  | .clientTsAdj h ws => Sys2Proof.Machine.execClientTsAdj h ws s
  | .classKeySet h ws => Sys2Proof.Machine.execClassKeySet h ws s
  | .flowSet h ws => Sys2Proof.Machine.execFlowSet h ws s
  | .flowRead h ws => Sys2Proof.Machine.execFlowRead h ws s
  | .saCfg h ws => Sys2Proof.Machine.execSaCfg h ws s
  | .saActivate h ws => Sys2Proof.Machine.execSaActivate h ws s
  | .saRxPromote h ws => Sys2Proof.Machine.execSaRxPromote h ws s
  | .saKeyClear h ws => Sys2Proof.Machine.execSaKeyClear h ws s
  | .saStatus h ws => Sys2Proof.Machine.execSaStatus h ws s
  | .saPnAdvance h ws => Sys2Proof.Machine.execSaPnAdvance h ws s
  | .nutInject h ws => Sys2Proof.Machine.execNutInject h ws s
  | .nutZeroise h ws => Sys2Proof.Machine.execNutZeroise h ws s
  | .settRegionCfg h ws => Sys2Proof.Machine.execSettRegionCfg h ws s
  | .settClassSet h ws => Sys2Proof.Machine.execSettClassSet h ws s
  | .settMergeSet h ws => Sys2Proof.Machine.execSettMergeSet h ws s
  | .settMergeStatus h ws => Sys2Proof.Machine.execSettMergeStatus h ws s
  | .settArbSet h ws => Sys2Proof.Machine.execSettArbSet h ws s
  | .settCapCfg h ws => Sys2Proof.Machine.execSettCapCfg h ws s
  | .settCapArm h ws => Sys2Proof.Machine.execSettCapArm h ws s
  | .settCapRead h ws => Sys2Proof.Machine.execSettCapRead h ws s
  | .eccScrubCfg h ws => Sys2Proof.Machine.execEccScrubCfg h ws s
  | .eccSpareRead h ws => Sys2Proof.Machine.execEccSpareRead h ws s
  | .eccSpareLoad h ws => Sys2Proof.Machine.execEccSpareLoad h ws s
  | .eccTestAccess h ws => Sys2Proof.Machine.execEccTestAccess h ws s
  | .timRefCfg h ws => Sys2Proof.Machine.execTimRefCfg h ws s
  | .timDpllCfg h ws => Sys2Proof.Machine.execTimDpllCfg h ws s
  | .timeSet h ws => Sys2Proof.Machine.execTimeSet h ws s
  | .timOutCfg h ws => Sys2Proof.Machine.execTimOutCfg h ws s
  | .chainMaster h ws => Sys2Proof.Machine.execChainMaster h ws s
  | .chainAsym h ws => Sys2Proof.Machine.execChainAsym h ws s
  | .martenLineCfg h ws => Sys2Proof.Machine.execMartenLineCfg h ws s
  | .martenAsymCal h ws => Sys2Proof.Machine.execMartenAsymCal h ws s
  | .martenSteer h ws => Sys2Proof.Machine.execMartenSteer h ws s
  | .martenPtpCfg h ws => Sys2Proof.Machine.execMartenPtpCfg h ws s
  | .mcCfg h ws => Sys2Proof.Machine.execMcCfg h ws s
  | .mcSend h ws => Sys2Proof.Machine.execMcSend h ws s
  | .mcRead h ws => Sys2Proof.Machine.execMcRead h ws s
  | .cloveChanCfg h ws => Sys2Proof.Machine.execCloveChanCfg h ws s
  | .cloveSeqSet h ws => Sys2Proof.Machine.execCloveSeqSet h ws s
  | .cloveSync h ws => Sys2Proof.Machine.execCloveSync h ws s
  | .cloveInjFire h ws => Sys2Proof.Machine.execCloveInjFire h ws s
  | .cloveDetCfg h ws => Sys2Proof.Machine.execCloveDetCfg h ws s
  | .cloveTdac h ws => Sys2Proof.Machine.execCloveTdac h ws s
  | .cloveBiasCfg h ws => Sys2Proof.Machine.execCloveBiasCfg h ws s
  | .cloveBiasSet h ws => Sys2Proof.Machine.execCloveBiasSet h ws s
  | .cloveCalCfg h ws => Sys2Proof.Machine.execCloveCalCfg h ws s
  | .fltCfg h ws => Sys2Proof.Machine.execFltCfg h ws s
  | .fltGlobal h ws => Sys2Proof.Machine.execFltGlobal h ws s
  | .fltInject h ws => Sys2Proof.Machine.execFltInject h ws s
  | .logRead h ws => Sys2Proof.Machine.execLogRead h ws s
  | .logCfg h ws => Sys2Proof.Machine.execLogCfg h ws s
  | .logMark h ws => Sys2Proof.Machine.execLogMark h ws s
  | .logClear h ws => Sys2Proof.Machine.execLogClear h ws s
  | .cntCfg h ws => Sys2Proof.Machine.execCntCfg h ws s
  | .cntWrite h ws => Sys2Proof.Machine.execCntWrite h ws s
  | .cntRead h ws => Sys2Proof.Machine.execCntRead h ws s
  | .cntDumpCfg h ws => Sys2Proof.Machine.execCntDumpCfg h ws s
  | .cntUwin h ws => Sys2Proof.Machine.execCntUwin h ws s
  | .pwrStateSet h ws => Sys2Proof.Machine.execPwrStateSet h ws s
  | .pwrRegCfg h ws => Sys2Proof.Machine.execPwrRegCfg h ws s
  | .pwrAvsCfg h ws => Sys2Proof.Machine.execPwrAvsCfg h ws s
  | .pwrPolicy h ws => Sys2Proof.Machine.execPwrPolicy h ws s
  | .pinCfg h ws => Sys2Proof.Machine.execPinCfg h ws s
  | .regWrite pf1 addr val => Sys2Proof.Machine.execRegWrite pf1 addr val s
  | .rsLowWordRead pf1 addr => Sys2Proof.Machine.execRsLowWordRead pf1 addr s
  | .nutKeyStageWrite x val => Sys2Proof.Machine.execNutKeyStageWrite x val s
  | .nutKeyGo val => Sys2Proof.Machine.execNutKeyGo val s
  | .ringEnable r val => Sys2Proof.Machine.execRingEnable r val s
  | .ringDisable r val => Sys2Proof.Machine.execRingDisable r val s
  | .sqTailDoorbell r val => Sys2Proof.Machine.execSqTailDoorbell r val s
  | .cqHeadDoorbell r val => Sys2Proof.Machine.execCqHeadDoorbell r val s
  | .bootDlGo val img => Sys2Proof.Machine.execBootDlGo val img s
  | .eccFlipArm val => Sys2Proof.Machine.execEccFlipArm val s
  | .cntDumpHeadWrite val => Sys2Proof.Machine.execCntDumpHeadWrite val s
  | .fltPendClear j val => Sys2Proof.Machine.execFltPendClear j val s
  | .fltFirstClear val => Sys2Proof.Machine.execFltFirstClear val s
  | .fltMsgPop val => Sys2Proof.Machine.execFltMsgPop val s
  | .tickBoundary x => Sys2Proof.Machine.execTickBoundary x s
  | .carryFault u => Sys2Proof.Machine.execCarryFault u s
  | .cellFlush f => Sys2Proof.Machine.execCellFlush f s
  | .adcDwellEnd l a m => Sys2Proof.Machine.execAdcDwellEnd l a m s
  | .sliceSuspect l a p => Sys2Proof.Machine.execSliceSuspect l a p s
  | .sliceSubstitute l a => Sys2Proof.Machine.execSliceSubstitute l a s
  | .adcFail l a => Sys2Proof.Machine.execAdcFail l a s
  | .convCalStart l => Sys2Proof.Machine.execConvCalStart l s
  | .convRxCalDone l meas => Sys2Proof.Machine.execConvRxCalDone l meas s
  | .convTxCalDone l bad trims => Sys2Proof.Machine.execConvTxCalDone l bad trims s
  | .convCalTimeout l tx => Sys2Proof.Machine.execConvCalTimeout l tx s
  | .linePllUnlock l => Sys2Proof.Machine.execLinePllUnlock l s
  | .linePllRelockAttempt l locks => Sys2Proof.Machine.execLinePllRelockAttempt l locks s
  | .scWarmupEnd l k => Sys2Proof.Machine.execScWarmupEnd l k s
  | .scCloseEnd l k => Sys2Proof.Machine.execScCloseEnd l k s
  | .eqFadeEnd l k => Sys2Proof.Machine.execEqFadeEnd l k s
  | .qualityWindowPost l q => Sys2Proof.Machine.execQualityWindowPost l q s
  | .cdResidualAlarm l => Sys2Proof.Machine.execCdResidualAlarm l s
  | .cdSearchScanEnd l peak => Sys2Proof.Machine.execCdSearchScanEnd l peak s
  | .freqAcqTimeout l => Sys2Proof.Machine.execFreqAcqTimeout l s
  | .scAcqTimeout l => Sys2Proof.Machine.execScAcqTimeout l s
  | .runTrackLoss l => Sys2Proof.Machine.execRunTrackLoss l s
  | .rxdConvStateChange l => Sys2Proof.Machine.execRxdConvStateChange l s
  | .scAcqExpire l k => Sys2Proof.Machine.execScAcqExpire l k s
  | .scTrackLoss l k => Sys2Proof.Machine.execScTrackLoss l k s
  | .lineFrameDecode l f => Sys2Proof.Machine.execLineFrameDecode l f s
  | .laneSignalDetect x => Sys2Proof.Machine.execLaneSignalDetect x s
  | .laneAdaptDone x ctle dfe => Sys2Proof.Machine.execLaneAdaptDone x ctle dfe s
  | .laneAdaptTimeout x => Sys2Proof.Machine.execLaneAdaptTimeout x s
  | .laneLos x => Sys2Proof.Machine.execLaneLos x s
  | .laneRetry x => Sys2Proof.Machine.execLaneRetry x s
  | .portAlignDone p => Sys2Proof.Machine.execPortAlignDone p s
  | .portFaultRx p remote => Sys2Proof.Machine.execPortFaultRx p remote s
  | .portFaultClear p => Sys2Proof.Machine.execPortFaultClear p s
  | .linkPropLocalFault p => Sys2Proof.Machine.execLinkPropLocalFault p s
  | .clientFrameIngress p f sub fecBad rmOvf => Sys2Proof.Machine.execClientFrameIngress p f sub fecBad rmOvf s
  | .pfcFrameRx p en quanta => Sys2Proof.Machine.execPfcFrameRx p en quanta s
  | .pauseTimerExpire p q => Sys2Proof.Machine.execPauseTimerExpire p q s
  | .pfcRefresh p c => Sys2Proof.Machine.execPfcRefresh p c s
  | .egressFrameStart p sub => Sys2Proof.Machine.execEgressFrameStart p sub s
  | .nutEncrypt x => Sys2Proof.Machine.execNutEncrypt x s
  | .nutRxFrame x => Sys2Proof.Machine.execNutRxFrame x s
  | .pipelineFence rx red n => Sys2Proof.Machine.execPipelineFence rx red n s
  | .c7Preempt rx jobs => Sys2Proof.Machine.execC7Preempt rx jobs s
  | .txMarkExpire n => Sys2Proof.Machine.execTxMarkExpire n s
  | .keyStagingTimeout => Sys2Proof.Machine.execKeyStagingTimeout s
  | .nutSelftestEnd badTx badRx => Sys2Proof.Machine.execNutSelftestEnd badTx badRx s
  | .nutZeroiseDone => Sys2Proof.Machine.execNutZeroiseDone s
  | .settTrainDone => Sys2Proof.Machine.execSettTrainDone s
  | .settTrainTimeout untrained => Sys2Proof.Machine.execSettTrainTimeout untrained s
  | .settClearDone => Sys2Proof.Machine.execSettClearDone s
  | .settStackTemp st temp => Sys2Proof.Machine.execSettStackTemp st temp s
  | .settCopyReceive => Sys2Proof.Machine.execSettCopyReceive s
  | .cellElasticAdmit => Sys2Proof.Machine.execCellElasticAdmit s
  | .captureTrigger fs => Sys2Proof.Machine.execCaptureTrigger fs s
  | .captureDone => Sys2Proof.Machine.execCaptureDone s
  | .eccWriteBack target => Sys2Proof.Machine.execEccWriteBack target s
  | .scrubRead target addr up => Sys2Proof.Machine.execScrubRead target addr up s
  | .trackerExpire target => Sys2Proof.Machine.execTrackerExpire target s
  | .rowRemapCopyDone target => Sys2Proof.Machine.execRowRemapCopyDone target s
  | .ppsEdge k sub => Sys2Proof.Machine.execPpsEdge k sub s
  | .refWtrExpire k => Sys2Proof.Machine.execRefWtrExpire k s
  | .dpllLock => Sys2Proof.Machine.execDpllLock s
  | .dpllAcqFail => Sys2Proof.Machine.execDpllAcqFail s
  | .dpllSwitchDone phase => Sys2Proof.Machine.execDpllSwitchDone phase s
  | .historySecond => Sys2Proof.Machine.execHistorySecond s
  | .ocxoMeasureDone active dev => Sys2Proof.Machine.execOcxoMeasureDone active dev s
  | .ocxoFail => Sys2Proof.Machine.execOcxoFail s
  | .disagreeEnd => Sys2Proof.Machine.execDisagreeEnd s
  | .slewDone => Sys2Proof.Machine.execSlewDone s
  | .chainMasterApply => Sys2Proof.Machine.execChainMasterApply s
  | .chainTimeWordRx b w stamp => Sys2Proof.Machine.execChainTimeWordRx b w stamp s
  | .chainEchoWordRx b w => Sys2Proof.Machine.execChainEchoWordRx b w s
  | .chainLinkAlign x => Sys2Proof.Machine.execChainLinkAlign x s
  | .chainLinkDown b => Sys2Proof.Machine.execChainLinkDown b s
  | .chainFirstLock => Sys2Proof.Machine.execChainFirstLock s
  | .ppsOutFlywheel n => Sys2Proof.Machine.execPpsOutFlywheel n s
  | .outputStart o => Sys2Proof.Machine.execOutputStart o s
  | .martenWindowPost l => Sys2Proof.Machine.execMartenWindowPost l s
  | .cdSecondSample l => Sys2Proof.Machine.execCdSecondSample l s
  | .cdCalCapture l => Sys2Proof.Machine.execCdCalCapture l s
  | .mcBurstSend l => Sys2Proof.Machine.execMcBurstSend l s
  | .mcPreambleDetect l peak x => Sys2Proof.Machine.execMcPreambleDetect l peak x s
  | .mcSyncTimeout l => Sys2Proof.Machine.execMcSyncTimeout l s
  | .mcBurstRx l b => Sys2Proof.Machine.execMcBurstRx l b s
  | .mcPost l => Sys2Proof.Machine.execMcPost l s
  | .hubBeacon l => Sys2Proof.Machine.execHubBeacon l s
  | .leafDiscoverySend l => Sys2Proof.Machine.execLeafDiscoverySend l s
  | .leafEchoLoss l => Sys2Proof.Machine.execLeafEchoLoss l s
  | .hubLeafLost l j => Sys2Proof.Machine.execHubLeafLost l j s
  | .cloveCalEnd bad fbBad => Sys2Proof.Machine.execCloveCalEnd bad fbBad s
  | .cloveDwellEnd slice offset gain offRes gainRes => Sys2Proof.Machine.execCloveDwellEnd slice offset gain offRes gainRes s
  | .cloveCheckStep res => Sys2Proof.Machine.execCloveCheckStep res s
  | .cloveSupervisorSteps res => Sys2Proof.Machine.execCloveSupervisorSteps res s
  | .cloveConversionEnd res => Sys2Proof.Machine.execCloveConversionEnd res s
  | .clovePaceStart => Sys2Proof.Machine.execClovePaceStart s
  | .extTrigEdge rising sub => Sys2Proof.Machine.execExtTrigEdge rising sub s
  | .cloveInjTrigger srcs => Sys2Proof.Machine.execCloveInjTrigger srcs s
  | .cloveInjPost => Sys2Proof.Machine.execCloveInjPost s
  | .monSyncEdge => Sys2Proof.Machine.execMonSyncEdge s
  | .cloveSyncDeferred => Sys2Proof.Machine.execCloveSyncDeferred s
  | .detectorPost k => Sys2Proof.Machine.execDetectorPost k s
  | .biasLoopUpdate k => Sys2Proof.Machine.execBiasLoopUpdate k s
  | .cmdFetch r p => Sys2Proof.Machine.execCmdFetch r p s
  | .fwReply r dmaErr => Sys2Proof.Machine.execFwReply r dmaErr s
  | .cmdTimeout r => Sys2Proof.Machine.execCmdTimeout r s
  | .ringDrainDone r => Sys2Proof.Machine.execRingDrainDone r s
  | .asyncComplete r tag sigOk => Sys2Proof.Machine.execAsyncComplete r tag sigOk s
  | .chainCmdWordRx b w => Sys2Proof.Machine.execChainCmdWordRx b w s
  | .fwdFragmentTimeout src msg reply => Sys2Proof.Machine.execFwdFragmentTimeout src msg reply s
  | .fwdReplyTimeout msg => Sys2Proof.Machine.execFwdReplyTimeout msg s
  | .firmwareStart x => Sys2Proof.Machine.execFirmwareStart x s
  | .bootTableAccept vout => Sys2Proof.Machine.execBootTableAccept vout s
  | .cpRestart => Sys2Proof.Machine.execCpRestart s
  | .cpRestartDone => Sys2Proof.Machine.execCpRestartDone s
  | .logEntryWrite => Sys2Proof.Machine.execLogEntryWrite s
  | .watchdogExpire => Sys2Proof.Machine.execWatchdogExpire s
  | .faultRaise fs => Sys2Proof.Machine.execFaultRaise fs s
  | .dualRailBroken x => Sys2Proof.Machine.execDualRailBroken x s
  | .messengerMessage m crcOk => Sys2Proof.Machine.execMessengerMessage m crcOk s
  | .faultWindowExpire fs => Sys2Proof.Machine.execFaultWindowExpire fs s
  | .chainFaultWordRx b w => Sys2Proof.Machine.execChainFaultWordRx b w s
  | .dumpWriteDone => Sys2Proof.Machine.execDumpWriteDone s
  | .dumpDmaError => Sys2Proof.Machine.execDumpDmaError s
  | .pmbusPoll r tries => Sys2Proof.Machine.execPmbusPoll r tries s
  | .pmbAlert status => Sys2Proof.Machine.execPmbAlert status s
  | .pmbusStuck => Sys2Proof.Machine.execPmbusStuck s
  | .avsUpdate => Sys2Proof.Machine.execAvsUpdate s
  | .avsStep => Sys2Proof.Machine.execAvsStep s
  | .supervisorLost => Sys2Proof.Machine.execSupervisorLost s
  | .p2EntryStep => Sys2Proof.Machine.execP2EntryStep s
  | .p3ExitPowerGood => Sys2Proof.Machine.execP3ExitPowerGood s
  | .p3ExitTimeout => Sys2Proof.Machine.execP3ExitTimeout s
  | .powerOnReset => Sys2Proof.Machine.execPowerOnReset s
  | .resetPin ns => Sys2Proof.Machine.execResetPin ns s
  | .cmdDeviceReset => Sys2Proof.Machine.execCmdDeviceReset s
  | .resetRelease st => Sys2Proof.Machine.execResetRelease st s
  | .railPowerDown => Sys2Proof.Machine.execRailPowerDown s
  | .perst => Sys2Proof.Machine.execPerst s
  | .pcieHotReset => Sys2Proof.Machine.execPcieHotReset s
  | .flrPf0 => Sys2Proof.Machine.execFlrPf0 s
  | .flrPf1 => Sys2Proof.Machine.execFlrPf1 s
  | .trst => Sys2Proof.Machine.execTrst s
  | .jtagExtest => Sys2Proof.Machine.execJtagExtest s
  | .jtagIdcode => Sys2Proof.Machine.execJtagIdcode s
  | .jtagSamplePreload pins shift => Sys2Proof.Machine.execJtagSamplePreload pins shift s
  | .jtagHighz => Sys2Proof.Machine.execJtagHighz s
  | .jtagClamp => Sys2Proof.Machine.execJtagClamp s
  | .jtagDevReset => Sys2Proof.Machine.execJtagDevReset s
  | .jtagBypass code => Sys2Proof.Machine.execJtagBypass code s
  | .freqOffsetFound l kHz => Sys2Proof.Machine.execFreqOffsetFound l kHz s
  | .pilotsDetected l k => Sys2Proof.Machine.execPilotsDetected l k s
  | .scTrackReached l k x => Sys2Proof.Machine.execScTrackReached l k x s
  | .alignmentLost p => Sys2Proof.Machine.execAlignmentLost p s
  | .prbsLock x => Sys2Proof.Machine.execPrbsLock x s
  | .leafSlotBurst l => Sys2Proof.Machine.execLeafSlotBurst l s
  | .stackInterfaceError st => Sys2Proof.Machine.execStackInterfaceError st s
  | .pcieLinkDown => Sys2Proof.Machine.execPcieLinkDown s
  | .xoActivityLost => Sys2Proof.Machine.execXoActivityLost s
  | .msiXUnmask pf1 vec => Sys2Proof.Machine.execMsiXUnmask pf1 vec s

end Sys2Proof.Machine
end

