-- ==== Sys2Proof/Safety.lean ====
section
/-! DEFINITION. The terms in which statements speak of safe states, safe steps, and of what a ring command answers. -/

namespace Sys2Proof.Machine

/-- What no command may lower or change (R6, R369): the identity, the fused SVN, the revoked keys and the power fuses. -/
structure SameFuses (s t : State) : Prop where
  uid : t.cmd.uid = s.cmd.uid
  svn : s.cmd.fusedSvn ≤ t.cmd.fusedSvn
  keys : ∀ k, s.cmd.revoked.getLsbD k = true → t.cmd.revoked.getLsbD k = true
  vFuse : t.pwr.vFuse = s.pwr.vFuse
  kT : t.pwr.kT = s.pwr.kT

/-- Firmware runs and neither the missing boot table (R356) nor P3 (R424) turns the command with this opcode away. -/
abbrev Runs (op : Nat) (s : State) : Prop :=
  s.fwRuns = true ∧ (s.cmd.accepted = true ∨ s.cmd.accepting = true ∨ op / 256 = 0) ∧
    (s.inP3 = false ∨ op / 256 = 0 ∨ op / 256 = 9 ∨ op / 256 = 0xB)

/-- Its reply is the last one made. -/
def withReply (r : Reply) (s : State) : State := { s with cmd := { s.cmd with last := some r } }

/-- What a synchronous command leaves that has committed: its own effect s', the audit entry of R376 where it is on, and
the reply OK with data. -/
def committed (op : Nat) (h : CmdHdr) (s s' : State) (data : List Word) : State :=
  withReply (mkReply s op h .ok 0 data) (s'.audit op h .ok)

/-- What an accepted long-running command leaves (R359): its effect s', an entry of the result store, and the reply OK with ACCEPTED. -/
def longRunning (op : Nat) (h : CmdHdr) (s s' : State) (kind : AsyncKind) : State :=
  withReply { mkReply s op h .ok 0 [] with accepted := true } ((s'.hold op h kind []).audit op h .ok)

/-- A long-running command finds its tag free and room in the result store (R359). -/
abbrev HasRoom (h : CmdHdr) (s : State) : Prop :=
  (∀ e ∈ s.cmd.store, e.ring = h.ring.val → e.tag ≠ h.tag) ∧ s.cmd.store.length < 64

/-! ### The ring commands of opcode_table.json, and what groups of them do -/

/-- The opcode, header and parameter words of a ring command; none for the other rows. -/
def ringOp : Instr → Option (Nat × CmdHdr × List Word)
  | .sysNop h ws => some (0x0000, h, ws)
  | .sysIdentify h ws => some (0x0001, h, ws)
  | .sysResultGet h ws => some (0x0002, h, ws)
  | .sysResultRelease h ws => some (0x0003, h, ws)
  | .sysBootCfg h ws => some (0x0004, h, ws)
  | .sysReset h ws => some (0x0005, h, ws)
  | .fwStage h ws => some (0x0010, h, ws)
  | .fwActivate h ws => some (0x0011, h, ws)
  | .fwFuse h ws => some (0x0012, h, ws)
  | .fwInfo h ws => some (0x0013, h, ws)
  | .lineConvSet h ws => some (0x0101, h, ws)
  | .lineConvCal h ws => some (0x0102, h, ws)
  | .lineConvBgcal h ws => some (0x0103, h, ws)
  | .lineConvStatus h ws => some (0x0104, h, ws)
  | .lineConvRetire h ws => some (0x0105, h, ws)
  | .lineScCfg h ws => some (0x0110, h, ws)
  | .lineLoadSet h ws => some (0x0111, h, ws)
  | .lineEqLoad h ws => some (0x0112, h, ws)
  | .lineRxCfg h ws => some (0x0113, h, ws)
  | .lineRxAcq h ws => some (0x0114, h, ws)
  | .lineEqRead h ws => some (0x0115, h, ws)
  | .lineFecCfg h ws => some (0x0120, h, ws)
  | .lineHdrMsg h ws => some (0x0121, h, ws)
  | .clientLaneCfg h ws => some (0x0201, h, ws)
  | .clientLaneRaw h ws => some (0x0202, h, ws)
  | .clientLaneRead h ws => some (0x0203, h, ws)
  | .clientPortCfg h ws => some (0x0210, h, ws)
  | .clientPfcCfg h ws => some (0x0211, h, ws)
  | .clientRefSel h ws => some (0x0212, h, ws)
  | .clientTsAdj h ws => some (0x0213, h, ws)
  | .classKeySet h ws => some (0x0220, h, ws)
  | .flowSet h ws => some (0x0300, h, ws)
  | .flowRead h ws => some (0x0301, h, ws)
  | .saCfg h ws => some (0x0310, h, ws)
  | .saActivate h ws => some (0x0311, h, ws)
  | .saRxPromote h ws => some (0x0312, h, ws)
  | .saKeyClear h ws => some (0x0313, h, ws)
  | .saStatus h ws => some (0x0314, h, ws)
  | .saPnAdvance h ws => some (0x0315, h, ws)
  | .nutInject h ws => some (0x0316, h, ws)
  | .nutZeroise h ws => some (0x0317, h, ws)
  | .settRegionCfg h ws => some (0x0401, h, ws)
  | .settClassSet h ws => some (0x0402, h, ws)
  | .settMergeSet h ws => some (0x0403, h, ws)
  | .settMergeStatus h ws => some (0x0404, h, ws)
  | .settArbSet h ws => some (0x0405, h, ws)
  | .settCapCfg h ws => some (0x0406, h, ws)
  | .settCapArm h ws => some (0x0407, h, ws)
  | .settCapRead h ws => some (0x0408, h, ws)
  | .eccScrubCfg h ws => some (0x0501, h, ws)
  | .eccSpareRead h ws => some (0x0502, h, ws)
  | .eccSpareLoad h ws => some (0x0503, h, ws)
  | .eccTestAccess h ws => some (0x0504, h, ws)
  | .timRefCfg h ws => some (0x0601, h, ws)
  | .timDpllCfg h ws => some (0x0602, h, ws)
  | .timeSet h ws => some (0x0603, h, ws)
  | .timOutCfg h ws => some (0x0604, h, ws)
  | .martenLineCfg h ws => some (0x0701, h, ws)
  | .martenAsymCal h ws => some (0x0702, h, ws)
  | .martenSteer h ws => some (0x0703, h, ws)
  | .martenPtpCfg h ws => some (0x0704, h, ws)
  | .mcCfg h ws => some (0x0705, h, ws)
  | .mcSend h ws => some (0x0706, h, ws)
  | .mcRead h ws => some (0x0707, h, ws)
  | .cloveChanCfg h ws => some (0x0801, h, ws)
  | .cloveSeqSet h ws => some (0x0802, h, ws)
  | .cloveSync h ws => some (0x0803, h, ws)
  | .cloveInjFire h ws => some (0x0804, h, ws)
  | .cloveDetCfg h ws => some (0x0805, h, ws)
  | .cloveTdac h ws => some (0x0806, h, ws)
  | .cloveBiasCfg h ws => some (0x0807, h, ws)
  | .cloveBiasSet h ws => some (0x0808, h, ws)
  | .cloveCalCfg h ws => some (0x0809, h, ws)
  | .fltCfg h ws => some (0x0901, h, ws)
  | .fltGlobal h ws => some (0x0902, h, ws)
  | .fltInject h ws => some (0x0903, h, ws)
  | .logRead h ws => some (0x0980, h, ws)
  | .logCfg h ws => some (0x0981, h, ws)
  | .logMark h ws => some (0x0982, h, ws)
  | .logClear h ws => some (0x0983, h, ws)
  | .cntCfg h ws => some (0x0A01, h, ws)
  | .cntWrite h ws => some (0x0A02, h, ws)
  | .cntRead h ws => some (0x0A03, h, ws)
  | .cntDumpCfg h ws => some (0x0A04, h, ws)
  | .cntUwin h ws => some (0x0A05, h, ws)
  | .pwrStateSet h ws => some (0x0B01, h, ws)
  | .pwrRegCfg h ws => some (0x0B02, h, ws)
  | .pwrAvsCfg h ws => some (0x0B03, h, ws)
  | .pwrPolicy h ws => some (0x0B04, h, ws)
  | .pinCfg h ws => some (0x0B05, h, ws)
  | .chainMaster h ws => some (0x0C01, h, ws)
  | .chainAsym h ws => some (0x0C02, h, ws)
  | _ => none

/-- A block's state, all but the ring engine, the staged items, the queue and the last reply: what staging leaves alone (R26). -/
def sameInForce (s t : State) : Prop :=
  t = { s with tick := { s.tick with staged := t.tick.staged }
               cmd := { s.cmd with last := t.cmd.last, logQ := t.cmd.logQ, store := t.cmd.store } }

/-- Ring commands that only stage items. -/
def stagingOps : List Nat :=
  [0x0101, 0x0102, 0x0103, 0x0105, 0x0110, 0x0111, 0x0113, 0x0114, 0x0120, 0x0121, 0x0201, 0x0202, 0x0210, 0x0211, 0x0212, 0x0213, 0x0220,
   0x0300, 0x0310, 0x0311, 0x0312, 0x0313, 0x0315, 0x0401, 0x0402, 0x0403, 0x0406, 0x0407, 0x0501, 0x0601, 0x0602, 0x0603, 0x0604, 0x0C02,
   0x0701, 0x0702, 0x0703, 0x0704, 0x0705, 0x0801, 0x0802, 0x0803, 0x0804, 0x0805, 0x0806, 0x0807, 0x0808, 0x0809, 0x0901, 0x0902, 0x0981,
   0x0A01, 0x0A02, 0x0A04, 0x0A05, 0x0B03, 0x0B04, 0x0B05]

/-- Ring commands that only read. -/
def readingOps : List Nat := [0x0000, 0x0001, 0x0013, 0x0104, 0x0115, 0x0203, 0x0301, 0x0314, 0x0404, 0x0502, 0x0A03]

/-- The two stored memories are in their canonical form, the event log has no more entries than it may have (R376: 4,096), and no boot table is half taken. -/
structure State.Inv (s : State) : Prop where
  mem : s.sett.mem.wf = true
  sram : s.ecc.sram.wf = true
  log : s.cmd.log.length ≤ 4096
  settled : s.cmd.accepting = false

end Sys2Proof.Machine
end

