-- ==== Sys2Proof/Certificates/Slice0/Obligations.lean ====
section
/-! DEFINITION. The statements for the provers: what each command and the machine do, as the rules of the specification say it.
A rule named in a docstring is where the statement was read; only the entries of OBLIGATIONS.json with basis 'stated' state a rule whole. -/

open Sys2Proof Sys2Proof.Machine

/-- SYS_NOP returns its parameters; SYS_IDENTIFY returns DEVID, FWVER and UID; SYS_RESULT_GET returns a finished entry and marks it given, or replies NOT_READY for one under way; SYS_RESULT_RELEASE frees a finished entry; SYS_BOOT_CFG appends a piece that follows the bytes received, or with LAST is accepted as a long-running operation that starts acceptance; SYS_RESET with the confirm word schedules the reset. Each conclusion gives the whole next state. (R9, R353, R361, R371, R428, 12_commands_firmware_log.md Table 12-9.) -/
def Obligations.SystemCommandsComplete : Prop :=
  ∀ (h : CmdHdr) (ws : List Word) (s : State),
    (h.async = false → Runs 0x0000 s →
      exec (.sysNop h ws) s = .next (committed 0x0000 h s (s) (ws))) ∧
    (h.async = false → Runs 0x0001 s → ws.length = 0 →
      exec (.sysIdentify h ws) s = .next (committed 0x0001 h s (s) ([devid s.cmd, s.cmd.fwver] ++ lohi s.cmd.uid.toNat))) ∧
    (∀ e, Runs 0x0002 s → ws.length = 1 → onlyBits (wd ws 0) 0xFFFFF → findEnt s (wd ws 0) = some e → e.done = true →
      exec (.sysResultGet h ws) s = .next (withReply { mkReply s 0x0002 h e.final.status 0 (replyHdr false e.final ++ e.final.data) with repeated := e.given } { s with cmd := { s.cmd with store := s.cmd.store.map fun x => if x == e then { x with given := true } else x } })) ∧
    (∀ e, Runs 0x0002 s → ws.length = 1 → onlyBits (wd ws 0) 0xFFFFF → findEnt s (wd ws 0) = some e → e.done = false →
      exec (.sysResultGet h ws) s = .next (withReply (mkReply s 0x0002 h .notReady 0 [mkWord (fld (wd ws 0) 15 0)]) s)) ∧
    (∀ e, h.async = false → Runs 0x0003 s → ws.length = 1 → onlyBits (wd ws 0) 0xFFFFF → findEnt s (wd ws 0) = some e → e.done = true →
      exec (.sysResultRelease h ws) s = .next (committed 0x0003 h s ({ s with cmd := { s.cmd with store := s.cmd.store.filter (· != e) } }) ([]))) ∧
    (h.async = false → Runs 0x0004 s → 1 ≤ ws.length → s.cmd.accepted = false → s.cmd.acceptDue = false → onlyBits (wd ws 0) 0x800FFFFF → fld (wd ws 0) 19 0 = s.cmd.table.length → flag (wd ws 0) 31 = false →
      exec (.sysBootCfg h ws) s = .next (committed 0x0004 h s ({ s with cmd := { s.cmd with table := s.cmd.table ++ bytesOf (ws.drop 1) } }) ([]))) ∧
    (HasRoom h s → Runs 0x0004 s → 1 ≤ ws.length → s.cmd.accepted = false → s.cmd.acceptDue = false → onlyBits (wd ws 0) 0x800FFFFF → fld (wd ws 0) 19 0 = s.cmd.table.length → flag (wd ws 0) 31 = true →
      exec (.sysBootCfg h ws) s = .next (longRunning 0x0004 h s ({ s with cmd := { s.cmd with table := s.cmd.table ++ bytesOf (ws.drop 1), acceptDue := true, fromHost := true } }) (.bootCfg))) ∧
    (h.async = false → Runs 0x0005 s → ws.length = 1 → wd ws 0 = 0xA5C3 →
      exec (.sysReset h ws) s = .next (committed 0x0005 h s ({ s with cmd := { s.cmd with resetDue := true } }) ([])))

/-- FW_STAGE writes an image piece into the slot that is not running; FW_ACTIVATE is accepted as a long-running operation; FW_FUSE raises the fused SVN up to that of the image, or revokes a key that is neither that of the image nor the last; FW_INFO returns the header fields of both slots; LOG_READ returns the readable entries from FIRST on, up to COUNT, behind its four words (none when FIRST is not yet written); LOG_CFG stages its word; LOG_MARK adds a class 6 entry; LOG_CLEAR empties the log. Each conclusion gives the whole next state. (R369, R373, R376, R377, R378, 12_commands_firmware_log.md Table 12-9.) -/
def Obligations.FirmwareAndLogCommandsComplete : Prop :=
  ∀ (h : CmdHdr) (ws : List Word) (s : State),
    (h.async = false → Runs 0x0010 s → 1 ≤ ws.length → s.cmd.bootSel = false → onlyBits (wd ws 0) 0xFFFFF → fld (wd ws 0) 19 0 = 0 ∨ s.cmd.stageEnd = some (fld (wd ws 0) 19 0) → fld (wd ws 0) 19 0 + (bytesOf (ws.drop 1)).length ≤ 2 ^ 20 →
      exec (.fwStage h ws) s = .next (committed 0x0010 h s (let put (old : List Byte) : List Byte := if fld (wd ws 0) 19 0 = 0 then bytesOf (ws.drop 1) else old ++ bytesOf (ws.drop 1)
        let c := { s.cmd with stageEnd := some (fld (wd ws 0) 19 0 + (bytesOf (ws.drop 1)).length) }
        { s with cmd := if s.cmd.slot = 0 then { c with slotB := put c.slotB, sigB := false } else { c with slotA := put c.slotA, sigA := false } }) ([]))) ∧
    (HasRoom h s → Runs 0x0011 s → ws.length = 1 → onlyBits (wd ws 0) 1 →
      exec (.fwActivate h ws) s = .next (longRunning 0x0011 h s (s) (.fwActivate (fld (wd ws 0) 0 0)))) ∧
    (h.async = false → Runs 0x0012 s → ws.length = 1 → flag (wd ws 0) 31 = false → onlyBits (wd ws 0) 0x7F → s.cmd.fusedSvn < fld (wd ws 0) 6 0 → fld (wd ws 0) 6 0 ≤ s.cmd.imageSvn →
      exec (.fwFuse h ws) s = .next (committed 0x0012 h s ({ s with cmd := { s.cmd with fusedSvn := fld (wd ws 0) 6 0 } }) ([]))) ∧
    (h.async = false → Runs 0x0012 s → ws.length = 1 → flag (wd ws 0) 31 = true → onlyBits (wd ws 0) 0x80000003 → s.cmd.imageKey ≠ some (fld (wd ws 0) 1 0) → (popcount 4 s.cmd.revoked.toNat ≠ 3 ∨ s.cmd.revoked.getLsbD (fld (wd ws 0) 1 0) = true) →
      exec (.fwFuse h ws) s = .next (committed 0x0012 h s ({ s with cmd := { s.cmd with revoked := putBit s.cmd.revoked (fld (wd ws 0) 1 0) true } }) ([]))) ∧
    (h.async = false → Runs 0x0013 s → ws.length = 0 →
      exec (.fwInfo h ws) s = .next (committed 0x0013 h s (s) (let one (bs : List Byte) (sig : Bool) : List Word :=
          [mkWord (imgVersion bs), mkWord (imgSvn bs), mkWord (bitAt (imageCheck bs sig s.cmd == 0) 0), mkWord (imgKey bs % 4)]
        one s.cmd.slotA s.cmd.sigA ++ one s.cmd.slotB s.cmd.sigB))) ∧
    (∀ back, back = (s.cmd.logSeq + 2 ^ 32 - (wd ws 0).toNat) % 2 ^ 32 →
      h.async = false → Runs 0x0980 s → ws.length = 2 → onlyBits (wd ws 1) 0x7F → 1 ≤ fld (wd ws 1) 6 0 → fld (wd ws 1) 6 0 ≤ 126 → (back = 0 ∨ 2 ^ 31 ≤ back) →
      exec (.logRead h ws) s = .next (committed 0x0980 h s (s) ([mkWord (wd ws 0).toNat, 0, 0, 0]))) ∧
    (∀ back (r : State × List LogEnt × Nat), back = (s.cmd.logSeq + 2 ^ 32 - (wd ws 0).toNat) % 2 ^ 32 → r = logTake (fld (wd ws 1) 6 0) (s.cmd.log.drop (s.cmd.log.length - back)) (s, [], 0) →
      h.async = false → Runs 0x0980 s → ws.length = 2 → onlyBits (wd ws 1) 0x7F → 1 ≤ fld (wd ws 1) 6 0 → fld (wd ws 1) 6 0 ≤ 126 → 0 < back → back < 2 ^ 31 →
      exec (.logRead h ws) s = .next (committed 0x0980 h s (r.1) ([mkWord ((r.2.1.head?.map (·.seq)).getD (wd ws 0).toNat), mkWord r.2.1.length, mkWord (back - s.cmd.log.length), mkWord r.2.2] ++ r.2.1.flatMap logWords))) ∧
    (h.async = false → Runs 0x0981 s → ws.length = 1 → onlyBits (wd ws 0) 0xF3 → (s.isStaged .logCfg (0) = false) →
      exec (.logCfg h ws) s = .next (committed 0x0981 h s (s.stage .logCfg 0 0 ws) ([]))) ∧
    (h.async = false → Runs 0x0982 s → ws.length = 4 → onlyBits (wd ws 0) 0xFFFF →
      exec (.logMark h ws) s = .next (committed 0x0982 h s (s.log { cls := 6, fw := true, code := fld (wd ws 0) 15 0, data := ws.drop 1 }) ([]))) ∧
    (h.async = false → Runs 0x0983 s → ws.length = 0 →
      exec (.logClear h ws) s = .next (committed 0x0983 h s ({ s with cmd := { s.cmd with log := [] } }) ([])))

/-- LINE_CONV_SET with a valid entry on an OFF line, LINE_CONV_CAL on a line with a used entry, LINE_CONV_BGCAL for each ADC of the mask, LINE_CONV_RETIRE of a slice and its restoring while the receive side is OFF, each stage their items; LINE_CONV_STATUS returns the 65 slice records. Each conclusion gives the whole next state. (R67, R68, R69, R70, R76, R77, R78.) -/
def Obligations.ConverterCommandsComplete : Prop :=
  ∀ (h : CmdHdr) (ws : List Word) (s : State),
    (h.async = false → Runs 0x0101 s → ws.length = 9 → onlyBits (wd ws 0) 1 → opticsValid (ws.drop 1) → (s.cv (fld (wd ws 0) 0 0)).tx = .off → (s.cv (fld (wd ws 0) 0 0)).rx = .off → (s.isStaged .convEntry (fld (wd ws 0) 0 0) = false) →
      exec (.lineConvSet h ws) s = .next (committed 0x0101 h s (s.stage .convEntry (fld (wd ws 0) 0 0) 0 (ws.drop 1)) ([]))) ∧
    (HasRoom h s → Runs 0x0102 s → ws.length = 1 → onlyBits (wd ws 0) 1 → (s.cv (fld (wd ws 0) 0 0)).optics ≠ 0 → (s.cv (fld (wd ws 0) 0 0)).tx ≠ .cal → (s.cv (fld (wd ws 0) 0 0)).rx ≠ .cal → s.lineAllowed (fld (wd ws 0) 0 0) = true → (s.isStaged .convCal (fld (wd ws 0) 0 0) = false) →
      exec (.lineConvCal h ws) s = .next (longRunning 0x0102 h s (s.stage .convCal (fld (wd ws 0) 0 0) 0 []) (.conv (fld (wd ws 0) 0 0)))) ∧
    (h.async = false → Runs 0x0103 s → ws.length = 1 → onlyBits (wd ws 0) 0xFFFF01F1 → 16 ≤ fld (wd ws 0) 31 16 → fld (wd ws 0) 31 16 ≤ 4096 → (∀ a ∈ onesOf 4 (fld (wd ws 0) 7 4), s.isStaged .bgcal (adcQual (fld (wd ws 0) 0 0) a) = false) →
      exec (.lineConvBgcal h ws) s = .next (committed 0x0103 h s (s.each (onesOf 4 (fld (wd ws 0) 7 4)) fun s a => s.stage .bgcal (adcQual (fld (wd ws 0) 0 0) a) 0 [wd ws 0]) ([]))) ∧
    (h.async = false → Runs 0x0104 s → ws.length = 1 → onlyBits (wd ws 0) 0x31 →
      exec (.lineConvStatus h ws) s = .next (committed 0x0104 h s (s) ((List.range 65).flatMap (sliceRecord ((s.cv (fld (wd ws 0) 0 0)).adc.get (fld (wd ws 0) 5 4)))))) ∧
    (h.async = false → Runs 0x0105 s → ws.length = 1 → onlyBits (wd ws 0) 0x17F31 → fld (wd ws 0) 14 8 ≤ 64 → flag (wd ws 0) 16 = true → (s.cv (fld (wd ws 0) 0 0)).rx = .off → (s.isStaged .slice (adcQual (fld (wd ws 0) 0 0) (fld (wd ws 0) 5 4)) = false) →
      exec (.lineConvRetire h ws) s = .next (committed 0x0105 h s (s.stage .slice (adcQual (fld (wd ws 0) 0 0) (fld (wd ws 0) 5 4)) 1 [wd ws 0]) ([]))) ∧
    (h.async = false → Runs 0x0105 s → ws.length = 1 → onlyBits (wd ws 0) 0x17F31 → fld (wd ws 0) 14 8 ≤ 64 → flag (wd ws 0) 16 = false → (((s.cv (fld (wd ws 0) 0 0)).adc.get (fld (wd ws 0) 5 4)).slices.get (fld (wd ws 0) 14 8)).retired = false → (fld (wd ws 0) 14 8 = ((s.cv (fld (wd ws 0) 0 0)).adc.get (fld (wd ws 0) 5 4)).offline ∨ ((s.cv (fld (wd ws 0) 0 0)).adc.get (fld (wd ws 0) 5 4)).spareOk = true) → (s.isStaged .slice (adcQual (fld (wd ws 0) 0 0) (fld (wd ws 0) 5 4)) = false) →
      exec (.lineConvRetire h ws) s = .next (committed 0x0105 h s (s.stage .slice (adcQual (fld (wd ws 0) 0 0) (fld (wd ws 0) 5 4)) 0 [wd ws 0]) ([])))

/-- LINE_SC_CFG on an OFF line, LINE_LOAD_SET for the subcarriers of its mask, LINE_RX_CFG, LINE_RX_ACQ in SC_ACQ or RUN, LINE_FEC_CFG and LINE_HDR_MSG stage their items; LINE_EQ_LOAD writes the shadow bank and requests a swap, or puts it behind the fade under way; LINE_EQ_READ returns the active bank, the shadow or the residual channel estimate. Each conclusion gives the whole next state. (R83, R89, R93, R103, R107, R111, R116, R139.) -/
def Obligations.LineCommandsComplete : Prop :=
  ∀ (h : CmdHdr) (ws : List Word) (s : State),
    (h.async = false → Runs 0x0110 s → ws.length = 2 → onlyBits (wd ws 0) 0xFF03F301 → fld (wd ws 0) 31 24 ≤ 17 → 11 ≤ fld (wd ws 0) 17 12 → fld (wd ws 0) 17 12 ≤ 40 → 2197 + 128 * fld (wd ws 0) 31 24 ≤ 200 * fld (wd ws 0) 17 12 → onlyBits (wd ws 1) 0xFFFF → 32 ≤ fld (wd ws 1) 15 0 → fld (wd ws 1) 15 0 ≤ 1024 → (s.cv (fld (wd ws 0) 0 0)).tx = .off → (s.cv (fld (wd ws 0) 0 0)).rx = .off → (s.isStaged .scCfg (fld (wd ws 0) 0 0) = false) →
      exec (.lineScCfg h ws) s = .next (committed 0x0110 h s (s.stage .scCfg (fld (wd ws 0) 0 0) 0 ws) ([]))) ∧
    (h.async = false → Runs 0x0111 s → ws.length = 17 → onlyBits (wd ws 0) 0xFFFF0001 → (∀ k < 16, if (fld (wd ws 0) 31 16).testBit k then loadWordOk (wd ws (k + 1)) = true else wd ws (k + 1) = 0) → (∀ k ∈ onesOf 16 (fld (wd ws 0) 31 16), s.isStaged .load (loadItem (fld (wd ws 0) 0 0) k) = false ∧ ((s.ds (fld (wd ws 0) 0 0)).sc.get k).warming = false ∧ ((s.ds (fld (wd ws 0) 0 0)).sc.get k).closing = false) → (∃ k < 16, carriesAfter s (fld (wd ws 0) 0 0) k (if (fld (wd ws 0) 31 16).testBit k then some (wd ws (k + 1)) else none) = true) →
      exec (.lineLoadSet h ws) s = .next (committed 0x0111 h s (s.each (onesOf 16 (fld (wd ws 0) 31 16)) fun s k => s.stage .load (loadItem (fld (wd ws 0) 0 0) k) 0 [wd ws (k + 1)]) ([]))) ∧
    (h.async = false → Runs 0x0112 s → ws.length = 101 → onlyBits (wd ws 0) 0xF1 → ((s.ds (fld (wd ws 0) 0 0)).rxd = .scAcq ∨ (s.ds (fld (wd ws 0) 0 0)).rxd = .run) → (((s.ds (fld (wd ws 0) 0 0)).sc.get (fld (wd ws 0) 7 4)).slot = .idle ∨ ((s.ds (fld (wd ws 0) 0 0)).sc.get (fld (wd ws 0) 7 4)).slot = .fading) →
      exec (.lineEqLoad h ws) s = .next (committed 0x0112 h s (s.onSc (fld (wd ws 0) 0 0) (fld (wd ws 0) 7 4) fun c => { c with shadow := some (ws.drop 1), slot := if c.slot = .idle then .staged else .pending }) ([]))) ∧
    (h.async = false → Runs 0x0113 s → ws.length = 4 → onlyBits (wd ws 0) 0xFFFF3F01 → 1 ≤ fld (wd ws 0) 31 21 → fld (wd ws 0) 31 21 ≤ 1024 → 1 ≤ fld (wd ws 0) 13 8 → -320000 ≤ sword (wd ws 1) → sword (wd ws 1) ≤ 320000 → 1000 ≤ (wd ws 2).toNat → (wd ws 2).toNat ≤ 320000 → onlyBits (wd ws 3) 0xFFFF → fld (wd ws 3) 15 8 < fld (wd ws 3) 7 0 → (s.isStaged .rxCfg (fld (wd ws 0) 0 0) = false) →
      exec (.lineRxCfg h ws) s = .next (committed 0x0113 h s (s.stage .rxCfg (fld (wd ws 0) 0 0) 0 ws) ([]))) ∧
    (h.async = false → Runs 0x0114 s → ws.length = 1 → onlyBits (wd ws 0) 1 → ((s.ds (fld (wd ws 0) 0 0)).rxd = .scAcq ∨ (s.ds (fld (wd ws 0) 0 0)).rxd = .run) → (s.isStaged .rxAcq (fld (wd ws 0) 0 0) = false) →
      exec (.lineRxAcq h ws) s = .next (committed 0x0114 h s (s.stage .rxAcq (fld (wd ws 0) 0 0) 0 []) ([]))) ∧
    (h.async = false → Runs 0x0115 s → ws.length = 1 → onlyBits (wd ws 0) 0x3F1 → fld (wd ws 0) 9 8 < 3 →
      exec (.lineEqRead h ws) s = .next (committed 0x0115 h s (s) (if fld (wd ws 0) 9 8 = 0 then ((s.ds (fld (wd ws 0) 0 0)).sc.get (fld (wd ws 0) 7 4)).activeBank.getD identityBank else if fld (wd ws 0) 9 8 = 1 then ((s.ds (fld (wd ws 0) 0 0)).sc.get (fld (wd ws 0) 7 4)).shadow.getD identityBank else (((s.ds (fld (wd ws 0) 0 0)).sc.get (fld (wd ws 0) 7 4)).chan ++ List.replicate 64 0).take 64))) ∧
    (h.async = false → Runs 0x0120 s → ws.length = 1 → onlyBits (wd ws 0) 0xFFFFFFF1 → 1024 ≤ fld (wd ws 0) 31 16 → fld (wd ws 0) 31 16 ≤ 11520 → 4 ≤ fld (wd ws 0) 15 8 → fld (wd ws 0) 15 8 ≤ 32 → (fld (wd ws 0) 5 4 = (s.fr (fld (wd ws 0) 0 0)).txRate ∨ (s.cv (fld (wd ws 0) 0 0)).tx = .off) → (fld (wd ws 0) 7 6 = (s.fr (fld (wd ws 0) 0 0)).rxRate ∨ (s.cv (fld (wd ws 0) 0 0)).rx = .off) → (s.isStaged .fecCfg (fld (wd ws 0) 0 0) = false) →
      exec (.lineFecCfg h ws) s = .next (committed 0x0120 h s (s.stage .fecCfg (fld (wd ws 0) 0 0) 0 ws) ([]))) ∧
    (h.async = false → Runs 0x0121 s → ws.length = 17 → onlyBits (wd ws 0) 1 → (s.isStaged .hdrMsg (fld (wd ws 0) 0 0) = false) →
      exec (.lineHdrMsg h ws) s = .next (committed 0x0121 h s (s.stage .hdrMsg (fld (wd ws 0) 0 0) 0 (ws.drop 1)) ([])))

/-- CLIENT_LANE_CFG stages its word for every lane of the mask, CLIENT_LANE_RAW for a lane that no enabled port owns or will own; CLIENT_LANE_READ returns the equaliser, or makes a reply that waits for the bits captured in the next tick; CLIENT_PORT_CFG, CLIENT_PFC_CFG, CLIENT_REF_SEL and CLIENT_TS_ADJ stage their words. Each conclusion gives the whole next state. (R143, R147, R148, R150, R161, R170, R171, 05_client_interface.md Table 5-8.) -/
def Obligations.ClientCommandsComplete : Prop :=
  ∀ (h : CmdHdr) (ws : List Word) (s : State),
    (h.async = false → Runs 0x0201 s → ws.length = 2 → onlyBits (wd ws 0) 0x3FFFF → onlyBits (wd ws 1) 0xFFFFFDE0 → fld (wd ws 1) 27 23 ≤ 16 → fld (wd ws 1) 22 18 ≤ 16 → fld (wd ws 1) 17 16 ≠ 3 → fld (wd ws 1) 15 10 ≤ 48 → (∀ x ∈ onesOf 18 (wd ws 0).toNat, (fld (s.lane x).cfg 8 5 = fld (wd ws 1) 8 5 ∨ laneOwner s x = none) ∧ s.isStaged .laneCfg x = false) →
      exec (.clientLaneCfg h ws) s = .next (committed 0x0201 h s (s.each (onesOf 18 (wd ws 0).toNat) fun s x => s.stage .laneCfg x 0 [wd ws 1]) ([]))) ∧
    (h.async = false → Runs 0x0202 s → ws.length = 1 → onlyBits (wd ws 0) 0x7F0F0C73 → fld (wd ws 0) 11 10 ≠ 3 → fld (wd ws 0) 6 4 ≤ 4 → laneOwner s (fld (wd ws 0) 19 16) = none → laneClaimed s (fld (wd ws 0) 19 16) = false → (s.isStaged .laneRaw (fld (wd ws 0) 19 16) = false) →
      exec (.clientLaneRaw h ws) s = .next (committed 0x0202 h s (s.stage .laneRaw (fld (wd ws 0) 19 16) 0 ws) ([]))) ∧
    (h.async = false → Runs 0x0203 s → ws.length = 1 → onlyBits (wd ws 0) 0x31F → fld (wd ws 0) 4 0 ≤ 17 → fld (wd ws 0) 9 8 = 0 →
      exec (.clientLaneRead h ws) s = .next (committed 0x0203 h s (s) (let x := s.lane (fld (wd ws 0) 4 0)
        let tap (n : Nat) : Nat := wrapInt 8 (x.dfe.getD n 0)
        [mkWord x.ctle, mkWord (tap 0 + 256 * tap 1 + 65536 * tap 2 + 16777216 * tap 3), mkWord (tap 4 + 256 * tap 5)]))) ∧
    (h.async = false → Runs 0x0203 s → ws.length = 1 → onlyBits (wd ws 0) 0x31F → fld (wd ws 0) 4 0 ≤ 15 → fld (wd ws 0) 9 8 = 1 →
      exec (.clientLaneRead h ws) s = .next (withReply { mkReply s 0x0203 h .ok 0 [] with cap := some (fld (wd ws 0) 4 0, 2) } (s.audit 0x0203 h .ok))) ∧
    (h.async = false → Runs 0x0210 s → ws.length = 5 → onlyBits (wd ws 0) 0xFFC00007 → fld (wd ws 0) 28 27 ≠ 3 → fld (wd ws 0) 26 24 ≤ 5 → (flag (wd ws 0) 31 = true → modeAllowed (fld (wd ws 0) 2 0) (fld (wd ws 0) 23 22) = true ∧ ((s.port (fld (wd ws 0) 2 0)).enabled = true → (s.port (fld (wd ws 0) 2 0)).mode = fld (wd ws 0) 23 22)) → (flag (wd ws 0) 31 = true → ∀ q < 8, q ≠ fld (wd ws 0) 2 0 → portEnabled (nextPortCfg s q) = true →
        ∀ x ∈ lanesOf q (portMode (nextPortCfg s q)), (lanesOf (fld (wd ws 0) 2 0) (fld (wd ws 0) 23 22)).contains x = false) → (flag (wd ws 0) 31 = true → ∀ x ∈ lanesOf (fld (wd ws 0) 2 0) (fld (wd ws 0) 23 22), (s.lane x).raw = false ∧ s.isStaged .laneRaw x = false) → onlyBits (wd ws 1) 0x1FFF1FFF → (fld (wd ws 0) 28 27 = 1 → flowClass (s.flowE (fld (wd ws 1) 28 16)) = 7) → onlyBits (wd ws 2) 0x3FFF → 64 ≤ fld (wd ws 2) 13 0 → fld (wd ws 2) 13 0 ≤ 16000 → onlyBits (wd ws 4) 0xFFFF → (s.isStaged .port (fld (wd ws 0) 2 0) = false) →
      exec (.clientPortCfg h ws) s = .next (committed 0x0210 h s (s.stage .port (fld (wd ws 0) 2 0) 0 ws) ([]))) ∧
    (∀ x : PortS, x = { s.port (fld (wd ws 0) 2 0) with pfc := ws } → h.async = false → Runs 0x0211 s → ws.length = 3 → onlyBits (wd ws 0) 0x3FFFFF07 → 1 ≤ fld (wd ws 0) 29 24 → x.txEn (x.pri 7) = false → x.rxEn (x.pri 7) = false → (x.mode = 0 ∨ fld (wd ws 0) 29 24 * bitsPerTick x.mode < x.quanta * 512) → onlyBits (wd ws 1) 0xFFFF → 1 ≤ x.quanta → onlyBits (wd ws 2) 0xFFFFFF → (∀ q < 8, q ∈ (List.range 8).map x.pri) → (s.isStaged .pfc (fld (wd ws 0) 2 0) = false) →
      exec (.clientPfcCfg h ws) s = .next (committed 0x0211 h s (s.stage .pfc (fld (wd ws 0) 2 0) 0 ws) ([]))) ∧
    (h.async = false → Runs 0x0212 s → ws.length = 1 → onlyBits (wd ws 0) 0x8F8F → (s.isStaged .refSel (0) = false) →
      exec (.clientRefSel h ws) s = .next (committed 0x0212 h s (s.stage .refSel 0 0 ws) ([]))) ∧
    (h.async = false → Runs 0x0213 s → ws.length = 3 → onlyBits (wd ws 0) 7 → -20000 ≤ sword (wd ws 1) → sword (wd ws 1) ≤ 20000 → -20000 ≤ sword (wd ws 2) → sword (wd ws 2) ≤ 20000 → (s.isStaged .tsAdj (fld (wd ws 0) 2 0) = false) →
      exec (.clientTsAdj h ws) s = .next (committed 0x0213 h s (s.stage .tsAdj (fld (wd ws 0) 2 0) 0 ws) ([])))

/-- CLASS_KEY_SET stages the addition or replacement of a key while its bucket has room, and the deletion of a key that is present; FLOW_SET stages every entry of its range; FLOW_READ returns the entries in force. Each conclusion gives the whole next state. (R165, R167, R173.) -/
def Obligations.ClassifierCommandsComplete : Prop :=
  ∀ (h : CmdHdr) (ws : List Word) (s : State),
    (∀ k : BitVec 64, k = keyWord (fld (wd ws 0) 2 0) (fld (wd ws 0) 26 24) ((wd ws 1).toNat + 2 ^ 32 * fld (wd ws 2) 15 0) → h.async = false → Runs 0x0220 s → ws.length = 4 → onlyBits (wd ws 0) 0x87000007 → 1 ≤ fld (wd ws 0) 26 24 → fld (wd ws 0) 26 24 ≤ 5 → (wd ws 1).toNat < 2 ^ keyWidth (fld (wd ws 0) 26 24) → (wd ws 1).toNat + 2 ^ 32 * fld (wd ws 2) 15 0 < 2 ^ keyWidth (fld (wd ws 0) 26 24) → onlyBits (wd ws 2) 0xFFFF → onlyBits (wd ws 3) 0x1FFF → flag (wd ws 0) 31 = false → ((keyLookup s k).isSome = true ∨ bucketLoad s (bucketOf k) < 4) → (s.isStaged .key (k.toNat) = false) →
      exec (.classKeySet h ws) s = .next (committed 0x0220 h s (s.stage .key k.toNat 0 [wd ws 3]) ([]))) ∧
    (∀ k : BitVec 64, k = keyWord (fld (wd ws 0) 2 0) (fld (wd ws 0) 26 24) ((wd ws 1).toNat + 2 ^ 32 * fld (wd ws 2) 15 0) → h.async = false → Runs 0x0220 s → ws.length = 4 → onlyBits (wd ws 0) 0x87000007 → 1 ≤ fld (wd ws 0) 26 24 → fld (wd ws 0) 26 24 ≤ 5 → (wd ws 1).toNat < 2 ^ keyWidth (fld (wd ws 0) 26 24) → (wd ws 1).toNat + 2 ^ 32 * fld (wd ws 2) 15 0 < 2 ^ keyWidth (fld (wd ws 0) 26 24) → onlyBits (wd ws 2) 0xFFFF → onlyBits (wd ws 3) 0x1FFF → flag (wd ws 0) 31 = true → (keyLookup s k).isSome = true → (s.isStaged .key (k.toNat) = false) →
      exec (.classKeySet h ws) s = .next (committed 0x0220 h s (s.stage .key k.toNat 1 [wd ws 3]) ([]))) ∧
    (h.async = false → Runs 0x0300 s → ws.length = fld (wd ws 0) 28 16 + 1 → onlyBits (wd ws 0) 0x1FFF1FFF → 1 ≤ fld (wd ws 0) 28 16 → fld (wd ws 0) 28 16 ≤ 1015 → fld (wd ws 0) 12 0 + fld (wd ws 0) 28 16 ≤ 8192 → (∀ n < fld (wd ws 0) 28 16, flowWordOk s (fld (wd ws 0) 12 0 + n) (wd ws (n + 1)) = true ∧ s.isStaged .flow (fld (wd ws 0) 12 0 + n) = false) →
      exec (.flowSet h ws) s = .next (committed 0x0300 h s (s.each (List.range (fld (wd ws 0) 28 16)) fun s n => s.stage .flow (fld (wd ws 0) 12 0 + n) 0 [wd ws (n + 1)]) ([]))) ∧
    (h.async = false → Runs 0x0301 s → ws.length = 1 → onlyBits (wd ws 0) 0x1FFF1FFF → 1 ≤ fld (wd ws 0) 28 16 → fld (wd ws 0) 28 16 ≤ 1015 → fld (wd ws 0) 12 0 + fld (wd ws 0) 28 16 ≤ 8192 →
      exec (.flowRead h ws) s = .next (committed 0x0301 h s (s) ((List.range (fld (wd ws 0) 28 16)).map fun n => s.flowE (fld (wd ws 0) 12 0 + n))))

/-- SA_CFG stages every SA word of its range, SA_ACTIVATE the activation of a valid next transmit key, SA_RX_PROMOTE that of a valid next receive key, SA_KEY_CLEAR the clearing, SA_PN_ADVANCE a higher PN; SA_STATUS returns the records; NUT_INJECT answers whether the lane is in service; NUT_ZEROISE is accepted and starts zeroisation. Each conclusion gives the whole next state. (R177, R183, R186, R189, R203, R206, 06_nutmeg.md Table 6-6.) -/
def Obligations.SecurityCommandsComplete : Prop :=
  ∀ (h : CmdHdr) (ws : List Word) (s : State),
    (h.async = false → Runs 0x0310 s → ws.length = fld (wd ws 0) 28 16 + 1 → onlyBits (wd ws 0) 0x1FFF1FFF → 1 ≤ fld (wd ws 0) 28 16 → fld (wd ws 0) 28 16 ≤ 1015 → fld (wd ws 0) 12 0 + fld (wd ws 0) 28 16 ≤ 8192 → (∀ k < fld (wd ws 0) 28 16, onlyBits (wd ws (k + 1)) 0xFFFF3F03 = true ∧ 10 ≤ saMark (wd ws (k + 1)) ∧ saMark (wd ws (k + 1)) ≤ 60000 ∧ s.isStaged .sa (fld (wd ws 0) 12 0 + k) = false) → s.nut.zeroising = none → (s.nut.locked = true → s.cmd.accepting = false → ∀ w ∈ ws.drop 1, modeOk s.nut (saMode w) = true) →
      exec (.saCfg h ws) s = .next (committed 0x0310 h s (s.each (List.range (fld (wd ws 0) 28 16)) fun s k => s.stage .sa (fld (wd ws 0) 12 0 + k) 0 [wd ws (k + 1)]) ([]))) ∧
    (h.async = false → Runs 0x0311 s → ws.length = 1 → onlyBits (wd ws 0) 0x1FFF → s.nut.zeroising = none → (s.sa (fld (wd ws 0) 12 0)).txNxt.valid = true → slotNow s (fld (wd ws 0) 12 0) = false → (s.isStaged .sa (fld (wd ws 0) 12 0) = false) →
      exec (.saActivate h ws) s = .next (committed 0x0311 h s (s.stage .sa (fld (wd ws 0) 12 0) 1 []) ([]))) ∧
    (h.async = false → Runs 0x0312 s → ws.length = 1 → onlyBits (wd ws 0) 0x1FFF → s.nut.zeroising = none → (s.sa (fld (wd ws 0) 12 0)).rxNxt.valid = true → (s.isStaged .sa (fld (wd ws 0) 12 0) = false) →
      exec (.saRxPromote h ws) s = .next (committed 0x0312 h s (s.stage .sa (fld (wd ws 0) 12 0) 2 []) ([]))) ∧
    (h.async = false → Runs 0x0313 s → ws.length = 1 → onlyBits (wd ws 0) 0x31FFF → fld (wd ws 0) 17 16 ≠ 3 → s.nut.zeroising = none → (s.isStaged .sa (fld (wd ws 0) 12 0) = false) →
      exec (.saKeyClear h ws) s = .next (committed 0x0313 h s (s.stage .sa (fld (wd ws 0) 12 0) 3 ws) ([]))) ∧
    (h.async = false → Runs 0x0314 s → ws.length = 1 → onlyBits (wd ws 0) 0x7F1FFF → 1 ≤ fld (wd ws 0) 22 16 → fld (wd ws 0) 12 0 + fld (wd ws 0) 22 16 ≤ 8192 → s.nut.zeroising = none →
      exec (.saStatus h ws) s = .next (committed 0x0314 h s (s) ((List.range (fld (wd ws 0) 22 16)).flatMap fun k => saRecord s (fld (wd ws 0) 12 0 + k)))) ∧
    (h.async = false → Runs 0x0315 s → ws.length = 3 → onlyBits (wd ws 0) 0x1FFF → s.nut.zeroising = none → (s.sa (fld (wd ws 0) 12 0)).txCur.valid = true → (s.sa (fld (wd ws 0) 12 0)).txCur.pn < ofLohi (wd ws 1) (wd ws 2) → (s.isStaged .sa (fld (wd ws 0) 12 0) = false) →
      exec (.saPnAdvance h ws) s = .next (committed 0x0315 h s (s.stage .sa (fld (wd ws 0) 12 0) 5 (ws.drop 1)) ([]))) ∧
    (h.async = false → Runs 0x0316 s → ws.length = 1 → onlyBits (wd ws 0) 0xF01 → s.nut.zeroising = none →
      exec (.nutInject h ws) s = .next (committed 0x0316 h s (s) ([if fld (wd ws 0) 11 8 < lanesIn s.nut (flag (wd ws 0) 0) then 1 else 0]))) ∧
    (HasRoom h s → Runs 0x0317 s → ws.length = 0 → s.nut.zeroising = none →
      exec (.nutZeroise h ws) s = .next (longRunning 0x0317 h s ({ s with nut := { s.nut with zeroising := some 0 } }) (.zeroise)))

/-- SETT_REGION_CFG, SETT_CLASS_SET, SETT_CAP_CFG and SETT_CAP_ARM stage their words; SETT_MERGE_SET stages a new ring at the lowest place where it fits and each operation on a flow that has one; SETT_MERGE_STATUS returns a flow state; SETT_ARB_SET takes effect at once where no other requester waits and is staged elsewhere; SETT_CAP_READ asks for the granules of its records as the control port does and returns the records from the memory. Each conclusion gives the whole next state. (R210, R214, R224, R226, R227, R233, R237, 07_sett.md Table 7-10.) -/
def Obligations.SettCommandsComplete : Prop :=
  ∀ (h : CmdHdr) (ws : List Word) (s : State),
    (h.async = false → Runs 0x0401 s → ws.length = 2 → onlyBits (wd ws 0) 0x0FFF0FFF → onlyBits (wd ws 1) 0x0FFF0FFF → fld (wd ws 0) 27 16 + fld (wd ws 0) 11 0 + fld (wd ws 1) 27 16 + fld (wd ws 1) 11 0 = 2048 → fld (wd ws 1) 11 0 ≤ 512 → (s.sett.st = .ready ∨ s.cmd.accepting = true) → (∀ l < 2, (s.cv l).tx = .off ∧ (s.cv l).rx = .off) → (∀ f ∈ s.sett.merge.keys, (s.mg f).ringU = 0) → (∀ g ∈ s.tick.staged, g.item = .merge → g.op ≠ 0) → (s.isStaged .region (0) = false) →
      exec (.settRegionCfg h ws) s = .next (committed 0x0401 h s (s.stage .region 0 0 ws) ([]))) ∧
    (∀ size : Nat, size = regionSize s (if flag (wd ws 0) 8 then 2 else 1) / 2 ^ 20 → h.async = false → Runs 0x0402 s → ws.length = 5 → onlyBits (wd ws 0) 0x107 → (∀ k < 5, 1 ≤ k → onlyBits (wd ws k) 0xFFFFF = true) → (wd ws 1).toNat ≤ (wd ws 4).toNat → (((List.range 8).filter (· != fld (wd ws 0) 2 0)).map fun k => (wd (nextCls s (flag (wd ws 0) 8) k) 0).toNat).sum + (wd ws 1).toNat ≤ size → (wd ws 3).toNat ≤ (wd ws 2).toNat → (wd ws 2).toNat ≤ size → (wd ws 4).toNat < (wd ws 3).toNat → (s.sett.st = .ready ∨ s.cmd.accepting = true) → (s.isStaged .cls (if flag (wd ws 0) 8 then 8 + fld (wd ws 0) 2 0 else fld (wd ws 0) 2 0) = false) →
      exec (.settClassSet h ws) s = .next (committed 0x0402 h s (s.stage .cls (if flag (wd ws 0) 8 then 8 + fld (wd ws 0) 2 0 else fld (wd ws 0) 2 0) 0 (ws.drop 1)) ([]))) ∧
    (∀ b, h.async = false → Runs 0x0403 s → ws.length = 3 → onlyBits (wd ws 0) 0xC0011FFF → fld (wd ws 0) 31 30 = 0 → (s.mg (fld (wd ws 0) 12 0)).ringU = 0 → onlyBits (wd ws 1) 0x3FFFFF → fld (wd ws 1) 21 0 ≠ 0 → onlyBits (wd ws 2) 0xFFFF → 3 ≤ fld (wd ws 2) 15 0 → (s.sett.st = .ready ∨ s.cmd.accepting = true) → (s.isStaged .merge (fld (wd ws 0) 12 0) = false) → firstFit s (fld (wd ws 1) 21 0) = some b →
      exec (.settMergeSet h ws) s = .next (committed 0x0403 h s (s.stage .merge (fld (wd ws 0) 12 0) 0 (ws ++ [mkWord b])) ([]))) ∧
    (h.async = false → Runs 0x0403 s → ws.length = 3 → onlyBits (wd ws 0) 0xC0011FFF → fld (wd ws 0) 31 30 ≠ 0 → (s.mg (fld (wd ws 0) 12 0)).ringU ≠ 0 → onlyBits (wd ws 1) 0x3FFFFF → onlyBits (wd ws 2) 0xFFFF → (2 ≤ fld (wd ws 0) 31 30 ∨ 3 ≤ fld (wd ws 2) 15 0) → (s.sett.st = .ready ∨ s.cmd.accepting = true) → (s.isStaged .merge (fld (wd ws 0) 12 0) = false) →
      exec (.settMergeSet h ws) s = .next (committed 0x0403 h s (s.stage .merge (fld (wd ws 0) 12 0) (fld (wd ws 0) 31 30) ws) ([]))) ∧
    (h.async = false → Runs 0x0404 s → ws.length = 1 → onlyBits (wd ws 0) 0x1FFF →
      exec (.settMergeStatus h ws) s = .next (committed 0x0404 h s (s) (let m := s.mg (fld (wd ws 0) 12 0)
        [mkWord (mergeState s (fld (wd ws 0) 12 0)), mkWord m.head, mkWord m.hold, mkWord m.ringU, mkWord m.slots.ents.length]))) ∧
    (h.async = false → Runs 0x0405 s → ws.length = 3 → onlyBits (wd ws 0) 0x000F030F → fld (wd ws 0) 3 0 ≤ 8 → 1 ≤ fld (wd ws 0) 19 16 → (s.sett.st = .ready ∨ s.cmd.accepting = true) → (∀ c ∈ onesOf 64 (ofLohi (wd ws 1) (wd ws 2)), s.isStaged .arb (16 * c + fld (wd ws 0) 3 0) = false) →
      exec (.settArbSet h ws) s = .next (committed 0x0405 h s (s.each (onesOf 64 (ofLohi (wd ws 1) (wd ws 2))) fun t c =>
        if (waiters s c).all fun r => r == fld (wd ws 0) 3 0 then
          onArb c (fld (wd ws 0) 3 0) (fun x => { x with band := fld (wd ws 0) 9 8, weight := fld (wd ws 0) 19 16, credit := fld (wd ws 0) 19 16 }) t
        else t.stage .arb (16 * c + fld (wd ws 0) 3 0) 0 [wd ws 0]) ([]))) ∧
    (h.async = false → Runs 0x0406 s → ws.length = 5 → onlyBits (wd ws 0) 0x1FFF000F → fld (wd ws 0) 2 0 ≤ 5 → onlyBits (wd ws 1) 0x01FF0003 → fld (wd ws 1) 1 0 ≤ 2 → onlyBits (wd ws 4) 0x07FFFFFF → (s.sett.st = .ready ∨ s.cmd.accepting = true) → (s.sett.cap = .idle ∨ s.sett.cap = .done) → (s.isStaged .capCfg (0) = false) →
      exec (.settCapCfg h ws) s = .next (committed 0x0406 h s (s.stage .capCfg 0 0 ws) ([]))) ∧
    (h.async = false → Runs 0x0407 s → ws.length = 1 → onlyBits (wd ws 0) 3 → (s.sett.st = .ready ∨ s.cmd.accepting = true) → (s.isStaged .capArm (0) = false) →
      exec (.settCapArm h ws) s = .next (committed 0x0407 h s (s.stage .capArm 0 0 ws) ([]))) ∧
    (∀ (at_ : Nat → Nat) (r : State × List Word), (∀ k, at_ k = regionBase s 3 + 320 * ((s.sett.recs - capHeld s + (wd ws 0).toNat + k) % capRoom s)) →
      r = (List.range (fld (wd ws 1) 3 0)).foldl (fun a k => readRecord (at_ k / 64) a) (s.each (List.range (fld (wd ws 1) 3 0)) fun s k => request 8 (granulePcs (at_ k) 5) s, []) →
      h.async = false → Runs 0x0408 s → ws.length = 2 → onlyBits (wd ws 1) 0xF → 1 ≤ fld (wd ws 1) 3 0 → fld (wd ws 1) 3 0 ≤ 12 → (wd ws 0).toNat + fld (wd ws 1) 3 0 ≤ capHeld s → (s.sett.st = .ready ∨ s.cmd.accepting = true) → (s.sett.cap = .idle ∨ s.sett.cap = .done) →
      exec (.settCapRead h ws) s = .next (committed 0x0408 h s (r.1) (r.2)))

/-- ECC_SCRUB_CFG stages its word; ECC_SPARE_READ returns the spare records of a target, or those of its fuse map; ECC_SPARE_LOAD with well-formed records is accepted and queues them; ECC_TEST_ACCESS asks for its granule as the control port does and writes a granule of the capture region, or reads it and returns its words with syndrome and flag. Each conclusion gives the whole next state. (R244, R245, R248, R252, R254.) -/
def Obligations.EccCommandsComplete : Prop :=
  ∀ (h : CmdHdr) (ws : List Word) (s : State),
    (h.async = false → Runs 0x0501 s → ws.length = 1 → onlyBits (wd ws 0) 0x8001FFFF → 14 ≤ fld (wd ws 0) 16 0 → fld (wd ws 0) 16 0 ≤ 86400 → (s.isStaged .scrub (0) = false) →
      exec (.eccScrubCfg h ws) s = .next (committed 0x0501 h s (s.stage .scrub 0 0 ws) ([]))) ∧
    (h.async = false → Runs 0x0502 s → ws.length = 1 → onlyBits (wd ws 0) 0xFFFF01FF → targets.contains (fld (wd ws 0) 7 0) = true → 1 ≤ fld (wd ws 0) 31 26 →
      exec (.eccSpareRead h ws) s = .next (committed 0x0502 h s (s) ((List.range (fld (wd ws 0) 31 26)).flatMap fun j => lohi (((if flag (wd ws 0) 8 then (s.tgt (fld (wd ws 0) 7 0)).fuses[fld (wd ws 0) 25 16 + j]? else (s.tgt (fld (wd ws 0) 7 0)).spares.find? fun r => r.spare == fld (wd ws 0) 25 16 + j).map spareBits).getD 0)))) ∧
    (HasRoom h s → Runs 0x0503 s → ws.length = 1 + 2 * fld (wd ws 0) 7 0 → onlyBits (wd ws 0) 0xFF → 1 ≤ fld (wd ws 0) 7 0 → ((spareRecs (ws.drop 1)).findIdx fun r => !spareOk r) = fld (wd ws 0) 7 0 → s.sett.st = .ready → s.ecc.loading = [] →
      exec (.eccSpareLoad h ws) s = .next (longRunning 0x0503 h s ({ s with ecc := { s.ecc with loading := (spareRecs (ws.drop 1)).map spareOf, loaded := 0, loadFull := false } }) (.spareLoad))) ∧
    (h.async = false → Runs 0x0504 s → ws.length = 19 → onlyBits (wd ws 0) 1 → flag (wd ws 0) 0 = true → ofLohi (wd ws 1) (wd ws 2) % 64 = 0 → regionBase s 3 ≤ ofLohi (wd ws 1) (wd ws 2) → ofLohi (wd ws 1) (wd ws 2) < regionBase s 3 + regionSize s 3 → s.sett.st = .ready → s.sett.cap = .idle →
      exec (.eccTestAccess h ws) s = .next (committed 0x0504 h s (settWrite (ofLohi (wd ws 1) (wd ws 2) / 64) (granuleWords (ws.drop 3)) (request 8 (granulePcs (ofLohi (wd ws 1) (wd ws 2)) 1) s)) ([]))) ∧
    (∀ r : State × List (BitVec 64 × BitVec 16), r = settRead (ofLohi (wd ws 1) (wd ws 2) / 64) false (request 8 (granulePcs (ofLohi (wd ws 1) (wd ws 2)) 1) s) →
      h.async = false → Runs 0x0504 s → ws.length = 3 → onlyBits (wd ws 0) 1 → flag (wd ws 0) 0 = false → ofLohi (wd ws 1) (wd ws 2) % 64 = 0 → regionBase s 3 ≤ ofLohi (wd ws 1) (wd ws 2) → ofLohi (wd ws 1) (wd ws 2) < regionBase s 3 + regionSize s 3 → s.sett.st = .ready → s.sett.cap = .idle →
      exec (.eccTestAccess h ws) s = .next (committed 0x0504 h s (r.1) ((r.2.flatMap fun w => lohi (shownData w).toNat) ++ r.2.map fun w => mkWord ((decodeSynd (syndrome w.1 w.2)).flag * 65536 + (syndrome w.1 w.2).toNat))))

/-- TIM_REF_CFG, TIM_DPLL_CFG, TIME_SET, TIM_OUT_CFG and CHAIN_ASYM stage their words; CHAIN_MASTER starts the 16 ticks after which a declared device becomes master. Each conclusion gives the whole next state. (R274, R276, R279, R282, R283, R286.) -/
def Obligations.TimingCommandsComplete : Prop :=
  ∀ (h : CmdHdr) (ws : List Word) (s : State),
    (h.async = false → Runs 0x0601 s → ws.length = 4 → onlyBits (wd ws 0) 0xF07F0007 → (refPps ws = true → fld (wd ws 0) 2 0 < 4) → bwOk (refPps ws) (refBw ws) = true → (refPrio ws = 0 → s.tim.mode = 1 ∨ s.tim.mode = 2 → fld (wd ws 0) 2 0 ≠ s.tim.selRef) → onlyBits (wd ws 1) 0x3FFFFFFF → (refPps ws = true ∨ 4 ≤ fld (wd ws 0) 2 0 ∨ 1000 ≤ refNom ws ∧ refNom ws ≤ 800000000) → -1000000 ≤ refDelay ws → refDelay ws ≤ 1000000 → onlyBits (wd ws 3) 0x3FFF → 1 ≤ fld (wd ws 3) 13 0 → fld (wd ws 3) 13 0 ≤ 10000 → (s.isStaged .ref (fld (wd ws 0) 2 0) = false) →
      exec (.timRefCfg h ws) s = .next (committed 0x0601 h s (s.stage .ref (fld (wd ws 0) 2 0) 0 ws) ([]))) ∧
    (∀ t : TimS, t = { s.tim with cfg := ws } → h.async = false → Runs 0x0602 s → ws.length = 4 → onlyBits (wd ws 0) 0xC70003FF → 1 ≤ t.wtr → t.wtr ≤ 600 → (t.mode = 1 ∨ t.mode = 2 → (s.ref t.selRef).prio ≠ 0) → 10 ≤ fld (wd ws 1) 31 16 → fld (wd ws 1) 31 16 ≤ 5000 → 10 ≤ fld (wd ws 1) 15 0 → fld (wd ws 1) 15 0 ≤ 10000 → 10 ≤ t.window → t.window ≤ 900 → t.guardSec ≤ 120 → onlyBits (wd ws 3) 0xFFFF01FF → 1 ≤ t.slewRate → t.slewRate ≤ 10000 → t.xoPpm ≤ 50 → (s.cmd.accepting = true ∨ t.ocxoEn = s.tim.ocxoEn) → (s.isStaged .dpll (0) = false) →
      exec (.timDpllCfg h ws) s = .next (committed 0x0602 h s (s.stage .dpll 0 0 ws) ([]))) ∧
    (h.async = false → Runs 0x0603 s → ws.length = 7 → timeSetBad s ws = none → (fld (wd ws 0) 1 0 = 2 ∨ 8 ≤ s.tim.sel ∨ (s.ref s.tim.sel).pps = false ∨ (s.tim.st ≠ .acquire ∧ s.tim.st ≠ .locked ∧ s.tim.st ≠ .switch)) → (s.isStaged .timeSet (0) = false) →
      exec (.timeSet h ws) s = .next (committed 0x0603 h s (s.stage .timeSet 0 0 ws) ([]))) ∧
    (h.async = false → Runs 0x0604 s → ws.length = 5 → onlyBits (wd ws 0) 0xE0070007 → fld (wd ws 0) 2 0 ≤ 5 → outSquelch ws ≠ 3 → (fld (wd ws 0) 2 0 < 4 ∨ outSrc ws ≤ 4 ∧ (outSrc ws = 0 ∨ (s.ref (outSrc ws - 1)).pps = true)) → -62500000000 ≤ signed 37 (fld (wd ws 1) 31 0 + 2 ^ 32 * fld (wd ws 2) 4 0) → signed 37 (fld (wd ws 1) 31 0 + 2 ^ 32 * fld (wd ws 2) 4 0) ≤ 62500000000 → onlyBits (wd ws 2) 0xFFFFF01F → 1 ≤ fld (wd ws 2) 31 12 → fld (wd ws 2) 31 12 ≤ 500000 → onlyBits (wd ws 3) 0xFFFFFF → onlyBits (wd ws 4) 0xFFFFFF → fld (wd ws 4) 23 0 ≠ 0 → 1000 * fld (wd ws 4) 23 0 ≤ 1600000000 * fld (wd ws 3) 23 0 → 1600000000 * fld (wd ws 3) 23 0 ≤ 800000000 * fld (wd ws 4) 23 0 → (s.isStaged .out (fld (wd ws 0) 2 0) = false) →
      exec (.timOutCfg h ws) s = .next (committed 0x0604 h s (s.stage .out (fld (wd ws 0) 2 0) 0 ws) ([]))) ∧
    (h.async = false → Runs 0x0C01 s → ws.length = 1 → onlyBits (wd ws 0) 3 → fld (wd ws 0) 1 0 < s.cmd.devs → s.tim.newMaster = none →
      exec (.chainMaster h ws) s = .next (committed 0x0C01 h s ({ s with tim := { s.tim with newMaster := some (fld (wd ws 0) 1 0, 16) } }) ([]))) ∧
    (h.async = false → Runs 0x0C02 s → ws.length = 2 → (sword (wd ws 0)).natAbs ≤ 100000 → (sword (wd ws 1)).natAbs ≤ 100000 → (s.isStaged .chainAsym (0) = false) →
      exec (.chainAsym h ws) s = .next (committed 0x0C02 h s (s.stage .chainAsym 0 0 ws) ([])))

/-- MARTEN_LINE_CFG, MARTEN_ASYM_CAL (with or without its two lengths), MARTEN_STEER, MARTEN_PTP_CFG and MC_CFG stage their words; MC_SEND queues its bytes behind at most fifteen others; MC_READ takes the oldest received burst, or returns the leaf table. Each conclusion gives the whole next state. (R297, R300, R307, R312, 10_marten.md Table 10-9.) -/
def Obligations.MartenCommandsComplete : Prop :=
  ∀ (h : CmdHdr) (ws : List Word) (s : State),
    (∀ m : MartenL, m = { cfg := ws } → h.async = false → Runs 0x0701 s → ws.length = 7 → onlyBits (wd ws 0) 0x1FFFF031 → 125 ≤ m.ttAvg → m.ttAvg ≤ 125000 → m.mode ≠ 3 → (m.fTx = 0 ∨ 185000000 ≤ m.fTx ∧ m.fTx ≤ 200000000) → onlyBits (wd ws 2) 0x3FFFF → m.txPath ≤ 200000 → onlyBits (wd ws 3) 0x3FFFF → m.rxPath ≤ 200000 → m.asymCal.natAbs ≤ 100000000 → onlyBits (wd ws 5) 0xFFFF0FFF → 16 ≤ m.driftAvg → onlyBits (wd ws 6) 0xFFFF → 10 ≤ m.jumpThr → m.jumpThr ≤ 10000 → (s.isStaged .martenLine (fld (wd ws 0) 0 0) = false) →
      exec (.martenLineCfg h ws) s = .next (committed 0x0701 h s (s.stage .martenLine (fld (wd ws 0) 0 0) 0 ws) ([]))) ∧
    (h.async = false → Runs 0x0702 s → (ws.length = 2 ∨ ws.length = 4) → onlyBits (wd ws 0) 1 → (sword (wd ws 1)).natAbs ≤ 100000000 → (ws.getD 2 0x80000000 = 0x80000000 ↔ ws.getD 3 0x80000000 = 0x80000000) → ((s.ml (fld (wd ws 0) 0 0)).mode = 2 ∨ ws.getD 2 0x80000000 = 0x80000000) → (s.isStaged .martenLine (fld (wd ws 0) 0 0) = false) →
      exec (.martenAsymCal h ws) s = .next (committed 0x0702 h s (s.stage .martenLine (fld (wd ws 0) 0 0) 1 [wd ws 1, ws.getD 2 0x80000000, ws.getD 3 0x80000000]) ([]))) ∧
    (h.async = false → Runs 0x0703 s → ws.length = 1 → onlyBits (wd ws 0) 0x00FF0107 → steerSrc (wd ws 0) ≤ 5 → deadBand (wd ws 0) ≤ 100 → (s.isStaged .steer (0) = false) →
      exec (.martenSteer h ws) s = .next (committed 0x0703 h s (s.stage .steer 0 0 ws) ([]))) ∧
    (h.async = false → Runs 0x0704 s → ws.length = 1 → onlyBits (wd ws 0) 0xFCFF3307 → -7 ≤ sfld (wd ws 0) 31 28 → sfld (wd ws 0) 31 28 ≤ 0 → fld (wd ws 0) 27 26 ≠ 3 → fld (wd ws 0) 13 12 ≤ 1 → (s.isStaged .ptp (fld (wd ws 0) 2 0) = false) →
      exec (.martenPtpCfg h ws) s = .next (committed 0x0704 h s (s.stage .ptp (fld (wd ws 0) 2 0) 0 ws) ([]))) ∧
    (∀ m : MartenL, m = { mc := ws } → h.async = false → Runs 0x0705 s → ws.length = 2 → onlyBits (wd ws 0) 0x00FFFF31 → 10 ≤ m.capMargin → m.capMargin ≤ 200 → (m.role = 0 ∨ (s.ds (fld (wd ws 0) 0 0)).mcEn = true ∧ (s.ml (fld (wd ws 0) 0 0)).role = 0) → 1 ≤ m.mcAvg → m.mcAvg ≤ 1024 → 8 ≤ m.period → m.period ≤ 12500 → (m.role = 3 → (s.cv (fld (wd ws 0) 0 0)).tx = .off) → (s.isStaged .mc (fld (wd ws 0) 0 0) = false) →
      exec (.mcCfg h ws) s = .next (committed 0x0705 h s (s.stage .mc (fld (wd ws 0) 0 0) 0 ws) ([]))) ∧
    (h.async = false → Runs 0x0706 s → ws.length = 1 + (fld (wd ws 0) 26 16 + 3) / 4 → onlyBits (wd ws 0) 0x07FFFF01 → 1 ≤ fld (wd ws 0) 26 16 → fld (wd ws 0) 26 16 ≤ 1024 → ((s.ml (fld (wd ws 0) 0 0)).role ≤ 1 ∨ fld (wd ws 0) 26 16 ≤ 64) → (s.ml (fld (wd ws 0) 0 0)).sendQ.length < 16 →
      exec (.mcSend h ws) s = .next (committed 0x0706 h s (s.onMar (fld (wd ws 0) 0 0) fun m => { m with sendQ := m.sendQ ++ [(fld (wd ws 0) 15 8, (beWords (ws.drop 1)).take (fld (wd ws 0) 26 16))] }) ([]))) ∧
    (h.async = false → Runs 0x0707 s → ws.length = 1 → onlyBits (wd ws 0) 0x301 → fld (wd ws 0) 9 8 = 1 →
      exec (.mcRead h ws) s = .next (committed 0x0707 h s (s) ((List.range 16).flatMap fun j => leafWords ((s.ml (fld (wd ws 0) 0 0)).leaf.get j)))) ∧
    (∀ src pw bs q, h.async = false → Runs 0x0707 s → ws.length = 1 → onlyBits (wd ws 0) 0x301 → fld (wd ws 0) 9 8 = 0 → (s.ml (fld (wd ws 0) 0 0)).mail = (src, pw, bs) :: q →
      exec (.mcRead h ws) s = .next (committed 0x0707 h s (s.onMar (fld (wd ws 0) 0 0) fun m => { m with mail := q }) (mkWord (wrapInt 16 pw * 2 ^ 16 + src) :: mkWord bs.length :: wordsBe bs)))

/-- CLOVE_CHAN_CFG, CLOVE_SEQ_SET, CLOVE_DET_CFG, CLOVE_TDAC, CLOVE_BIAS_CFG, CLOVE_BIAS_SET of an output without a loop, within its limits, and CLOVE_CAL_CFG stage their words; CLOVE_SYNC and CLOVE_INJ_FIRE act at the next boundary and are never turned away as staged. Each conclusion gives the whole next state. (R319, R330, R334, R338, R341, R344.) -/
def Obligations.CloveCommandsComplete : Prop :=
  ∀ (h : CmdHdr) (ws : List Word) (s : State),
    (h.async = false → Runs 0x0801 s → ws.length = 1 → onlyBits (wd ws 0) 0x31F → (s.isStaged .chan (fld (wd ws 0) 4 0) = false) →
      exec (.cloveChanCfg h ws) s = .next (committed 0x0801 h s (s.stage .chan (fld (wd ws 0) 4 0) 0 ws) ([]))) ∧
    (h.async = false → Runs 0x0802 s → ws.length = 10 → seqOk ws → (s.isStaged .seq (fld (wd ws 0) 31 31) = false) →
      exec (.cloveSeqSet h ws) s = .next (committed 0x0802 h s (s.stage .seq (fld (wd ws 0) 31 31) 0 ws) ([]))) ∧
    (h.async = false → Runs 0x0803 s → ws.length = 0 →
      exec (.cloveSync h ws) s = .next (committed 0x0803 h s (s.stage .sync 0 0 []) ([]))) ∧
    (h.async = false → Runs 0x0804 s → ws.length = 0 → seqMode s.clv.inj ≠ 0 →
      exec (.cloveInjFire h ws) s = .next (committed 0x0804 h s (s.stage .injFire 0 0 []) ([]))) ∧
    (h.async = false → Runs 0x0805 s → ws.length = 3 → onlyBits (wd ws 0) 0xFFFFFF3F → fld (wd ws 0) 31 16 ≠ 0 → fld (wd ws 0) 13 8 < 48 → onlyBits (wd ws 1) 0x0FFFFFFF → onlyBits (wd ws 2) 0x00FFFFFF → (s.isStaged .det (fld (wd ws 0) 3 0) = false) →
      exec (.cloveDetCfg h ws) s = .next (committed 0x0805 h s (s.stage .det (fld (wd ws 0) 3 0) 0 ws) ([]))) ∧
    (h.async = false → Runs 0x0806 s → ws.length = 1 → onlyBits (wd ws 0) 0x1FF30FFF → fld (wd ws 0) 17 16 ≠ 3 → (s.isStaged .tdac (0) = false) →
      exec (.cloveTdac h ws) s = .next (committed 0x0806 h s (s.stage .tdac 0 0 ws) ([]))) ∧
    (h.async = false → Runs 0x0807 s → ws.length = 6 → biasOk ws → (s.isStaged .bias (fld (wd ws 0) 3 0) = false) →
      exec (.cloveBiasCfg h ws) s = .next (committed 0x0807 h s (s.stage .bias (fld (wd ws 0) 3 0) 0 ws) ([]))) ∧
    (h.async = false → Runs 0x0808 s → ws.length = 1 → onlyBits (wd ws 0) 0xFFFF000F → (s.clv.bias.get (fld (wd ws 0) 3 0)).min ≤ fld (wd ws 0) 31 16 → fld (wd ws 0) 31 16 ≤ (s.clv.bias.get (fld (wd ws 0) 3 0)).max → (s.clv.bias.get (fld (wd ws 0) 3 0)).target = 0 → (s.isStaged .bias (fld (wd ws 0) 3 0) = false) →
      exec (.cloveBiasSet h ws) s = .next (committed 0x0808 h s (s.stage .bias (fld (wd ws 0) 3 0) 1 ws) ([]))) ∧
    (h.async = false → Runs 0x0809 s → ws.length = 1 → onlyBits (wd ws 0) 0x800F3FFF → 125 ≤ fld (wd ws 0) 13 0 → fld (wd ws 0) 13 0 ≤ 12500 → (s.isStaged .cloveCal (0) = false) →
      exec (.cloveCalCfg h ws) s = .next (committed 0x0809 h s (s.stage .cloveCal 0 0 ws) ([])))

/-- FLT_CFG stages the words of its sources, on a locked collector those that R390 allows; FLT_GLOBAL stages its words while the collector is not locked; FLT_INJECT has a source signal (none of the sources that never raise), sends a message for a message source, or breaks the dual rails; CNT_CFG and CNT_WRITE stage a word or a value for every counter of their range; CNT_READ returns the snapshot; CNT_DUMP_CFG and CNT_UWIN stage their words. Each conclusion gives the whole next state. (R390, R395, R397, R399, R402, R406, R409.) -/
def Obligations.CollectorAndCounterCommandsComplete : Prop :=
  ∀ (h : CmdHdr) (ws : List Word) (s : State),
    (h.async = false → Runs 0x0901 s → ws.length = 1 + fld (wd ws 0) 24 16 → onlyBits (wd ws 0) 0x01FF01FF → 1 ≤ fld (wd ws 0) 24 16 → fld (wd ws 0) 8 0 + fld (wd ws 0) 24 16 ≤ 512 → (∀ w ∈ ws.drop 1, onlyBits w 0x37F = true ∧ fld w 6 4 ≠ 7) → (∀ k < fld (wd ws 0) 24 16, s.flt.locked = true → fltChangeOk (s.flt.word (fld (wd ws 0) 8 0 + k)) (wd (ws.drop 1) k) = true) → (∀ k < fld (wd ws 0) 24 16, s.isStaged .fltCfg (fld (wd ws 0) 8 0 + k) = false) →
      exec (.fltCfg h ws) s = .next (committed 0x0901 h s (s.each (List.range (fld (wd ws 0) 24 16)) fun s k => s.stage .fltCfg (fld (wd ws 0) 8 0 + k) 0 [wd (ws.drop 1) k]) ([]))) ∧
    (h.async = false → Runs 0x0902 s → ws.length = 5 → (∀ k < 4, onlyBits (wd ws k) 0xFFFFFF = true ∧ 125 ≤ fld (wd ws k) 23 0) → onlyBits (wd ws 4) 0x3FFF → 10 ≤ fld (wd ws 4) 13 0 → fld (wd ws 4) 13 0 ≤ 10000 → s.flt.locked = false → (s.isStaged .fltGlobal (0) = false) →
      exec (.fltGlobal h ws) s = .next (committed 0x0902 h s (s.stage .fltGlobal 0 0 ws) ([]))) ∧
    (h.async = false → Runs 0x0903 s → ws.length = 1 → onlyBits (wd ws 0) 0x301FF → fsAssigned (fld (wd ws 0) 8 0) = true → fld (wd ws 0) 17 16 = 0 → 8 ≤ fld (wd ws 0) 8 0 →
      exec (.fltInject h ws) s = .next (committed 0x0903 h s (s.when (fsRaises (fld (wd ws 0) 8 0)) (·.signal (fld (wd ws 0) 8 0))) ([]))) ∧
    (h.async = false → Runs 0x0903 s → ws.length = 1 → onlyBits (wd ws 0) 0x301FF → fsAssigned (fld (wd ws 0) 8 0) = true → fld (wd ws 0) 17 16 = 0 → fld (wd ws 0) 8 0 < 8 →
      exec (.fltInject h ws) s = .next (committed 0x0903 h s (s.send (Fin.ofNat 8 (fld (wd ws 0) 8 0)) 0xFE 0 0) ([]))) ∧
    (h.async = false → Runs 0x0903 s → ws.length = 1 → onlyBits (wd ws 0) 0x301FF → fsAssigned (fld (wd ws 0) 8 0) = true → fld (wd ws 0) 17 16 = 1 → 8 ≤ fld (wd ws 0) 8 0 →
      exec (.fltInject h ws) s = .next (committed 0x0903 h s (s.onFlt fun f => { f with rails := f.rails ++ [fld (wd ws 0) 8 0] }) ([]))) ∧
    (h.async = false → Runs 0x0A01 s → ws.length = 1 + fld (wd ws 0) 28 16 → cntRange (wd ws 0) 1015 → (∀ n ∈ cntSpan (wd ws 0), cntWordOk n (wd ws (1 + n - fld (wd ws 0) 11 0)) = true ∧ s.isStaged .cnt n = false) →
      exec (.cntCfg h ws) s = .next (committed 0x0A01 h s (s.each (cntSpan (wd ws 0)) fun s n => s.stage .cnt n 0 [wd ws (1 + n - fld (wd ws 0) 11 0)]) ([]))) ∧
    (h.async = false → Runs 0x0A02 s → ws.length = 1 + 2 * fld (wd ws 0) 28 16 → cntRange (wd ws 0) 507 → (∀ n ∈ cntSpan (wd ws 0), onlyBits (wd ws (2 + 2 * (n - fld (wd ws 0) 11 0))) 0xFFFF = true ∧ s.isStaged .cnt n = false) →
      exec (.cntWrite h ws) s = .next (committed 0x0A02 h s (s.each (cntSpan (wd ws 0)) fun s n => s.stage .cnt n 1 [wd ws (1 + 2 * (n - fld (wd ws 0) 11 0)), wd ws (2 + 2 * (n - fld (wd ws 0) 11 0))]) ([]))) ∧
    (h.async = false → Runs 0x0A03 s → ws.length = 1 → cntRange (wd ws 0) 500 →
      exec (.cntRead h ws) s = .next (committed 0x0A03 h s (s) (lohi s.cnt.snapTick ++ (cntSpan (wd ws 0)).flatMap fun n => [cntLo s.cnt.snap n, cntHi s.cnt.snap n]))) ∧
    (∀ c : CntS, c = { dumpCfg := ws } → h.async = false → Runs 0x0A04 s → ws.length = 5 → onlyBits (wd ws 0) 0x80FF0000 → 2 ≤ c.nbuf → onlyBits (wd ws 1) 0x00FFFFFF → 16 ≤ c.period → onlyBits (wd ws 2) 0x1FFF0FFF → 1 ≤ c.count → c.count ≤ 4096 → c.first + c.count ≤ 4096 → fld (wd ws 3) 11 0 = 0 → (s.isStaged .dumpCfg (0) = false) →
      exec (.cntDumpCfg h ws) s = .next (committed 0x0A04 h s (s.stage .dumpCfg 0 0 ws) ([]))) ∧
    (h.async = false → Runs 0x0A05 s → ws.length = 1 + fld (wd ws 0) 16 8 → onlyBits (wd ws 0) 0x8001FFFF → 1 ≤ fld (wd ws 0) 16 8 → fld (wd ws 0) 7 0 + fld (wd ws 0) 16 8 ≤ 256 → (∀ k < fld (wd ws 0) 16 8, onlyBits (wd ws (1 + k)) 0x80000FFF = true) → (s.isStaged .uwin (0) = false) →
      exec (.cntUwin h ws) s = .next (committed 0x0A05 h s (s.stage .uwin 0 0 ws) ([])))

/-- PWR_STATE_SET stages a change of state, begins the exit from P3, or leaves the state in force as it is; PWR_REG_CFG is taken from the boot table; PWR_AVS_CFG, PWR_POLICY and PIN_CFG stage their words. Each conclusion gives the whole next state. (R415, R418, R420, R425, R439, 14_power.md Table 14-17.) -/
def Obligations.PowerCommandsComplete : Prop :=
  ∀ (h : CmdHdr) (ws : List Word) (s : State),
    (h.async = false → Runs 0x0B01 s → ws.length = 1 → onlyBits (wd ws 0) 0x13 → s.pwr.changing = false → (pwrOf (fld (wd ws 0) 1 0) ≠ s.pwr.st ∨ pwrOf (fld (wd ws 0) 1 0) = .p1 ∧ fld (wd ws 0) 4 4 ≠ s.pwr.p1Line) → s.pwr.st ≠ .p3 → (s.isStaged .pwrState (0) = false) →
      exec (.pwrStateSet h ws) s = .next (committed 0x0B01 h s (s.stage .pwrState 0 0 ws) ([]))) ∧
    (h.async = false → Runs 0x0B01 s → ws.length = 1 → onlyBits (wd ws 0) 0x13 → s.pwr.changing = false → s.pwr.st = .p3 → pwrOf (fld (wd ws 0) 1 0) ≠ .p3 →
      exec (.pwrStateSet h ws) s = .next (committed 0x0B01 h s (operationP3 0x80 (s.onPwr fun p => { p with p3Exit := true, changing := true, target := pwrOf (fld (wd ws 0) 1 0), p1Line := fld (wd ws 0) 4 4 })) ([]))) ∧
    (h.async = false → Runs 0x0B01 s → ws.length = 1 → onlyBits (wd ws 0) 0x13 → s.pwr.changing = false → pwrOf (fld (wd ws 0) 1 0) = s.pwr.st → (pwrOf (fld (wd ws 0) 1 0) ≠ .p1 ∨ fld (wd ws 0) 4 4 = s.pwr.p1Line) →
      exec (.pwrStateSet h ws) s = .next (committed 0x0B01 h s (s) ([]))) ∧
    (∀ g : RegS, g = { cfg := ws } → h.async = false → Runs 0x0B02 s → ws.length = 2 → s.cmd.accepting = true → onlyBits (wd ws 0) 0x3FFFFF07 → g.rail < 6 → (g.isAvs = true → g.rail = 0 ∧ ∀ r < 8, (s.pwr.reg.get r).isAvs = false) → (g.offP3 = true → g.rail = 2 ∨ g.rail = 3) → (∀ r < 8, (s.pwr.reg.get r).cfg ≠ [0, 0x4E2] → (s.pwr.reg.get r).place ≠ g.place) → onlyBits (wd ws 1) 0xFFFF → 125 ≤ g.poll →
      exec (.pwrRegCfg h ws) s = .next (committed 0x0B02 h s (s.onReg (fld (wd ws 0) 2 0) fun y => { y with cfg := ws, age := 0 }) ([]))) ∧
    (h.async = false → Runs 0x0B03 s → ws.length = 1 → onlyBits (wd ws 0) 0xF → -5 ≤ sfld (wd ws 0) 3 0 → sfld (wd ws 0) 3 0 ≤ 5 → (s.isStaged .avs (0) = false) →
      exec (.pwrAvsCfg h ws) s = .next (committed 0x0B03 h s (s.stage .avs 0 0 ws) ([]))) ∧
    (h.async = false → Runs 0x0B04 s → ws.length = 2 → onlyBits (wd ws 0) 0x8000FFFF → 80 ≤ fld (wd ws 0) 7 0 → fld (wd ws 0) 7 0 ≤ 105 → 100 ≤ fld (wd ws 0) 15 8 → fld (wd ws 0) 15 8 ≤ 115 → onlyBits (wd ws 1) 0xFFFF → 100 ≤ fld (wd ws 1) 15 0 → fld (wd ws 1) 15 0 ≤ 1500 → (s.isStaged .policy (0) = false) →
      exec (.pwrPolicy h ws) s = .next (committed 0x0B04 h s (s.stage .policy 0 0 ws) ([]))) ∧
    (h.async = false → Runs 0x0B05 s → ws.length = 1 → onlyBits (wd ws 0) 0xF0F → (s.isStaged .pin (0) = false) →
      exec (.pinCfg h ws) s = .next (committed 0x0B05 h s (s.stage .pin 0 0 ws) ([])))

/-- A dwell that ends gives the offline slice the trims reached, held within their ranges: a passing slice is to be rotated in, one with a saturated trim or four lengths old retired, at the next boundary, any other goes on; a position that deviated for 16 ticks is marked suspect and, with a good spare, is to be substituted; a second retirement or 256 ticks without a spare fail the ADC; calibration starts at the second boundary after acceptance, each side leaves it with its state, or fails after 6,250 ticks; a lost PLL mutes the line, whose sides fail at the next boundary, and at most three attempts rerun calibration. (R53, R54, R56, R57, R59, R60, R63, R70, R71, R72, R73.) -/
def Obligations.ConverterEventsComplete : Prop :=
    (∀ (l : Fin 2) (a : Fin 4) (m : SliceMeas) (s : State), dwellOver s l a = true → slicePasses m = true →
      exec (.adcDwellEnd l a m) s = .next ((s.onAdc l a (trimSlice ((s.cv l).adc.get a).offline m)).onAdc l a fun c => { c with act := .swap })) ∧
    (∀ (l : Fin 2) (a : Fin 4) (m : SliceMeas) (s : State), dwellOver s l a = true → slicePasses m = false → (saturated m = true ∨ 4 * ((s.cv l).adc.get a).dwellLen ≤ ((s.cv l).adc.get a).dwellTicks + 1) →
      exec (.adcDwellEnd l a m) s = .next ((s.onAdc l a (trimSlice ((s.cv l).adc.get a).offline m)).onAdc l a fun c => { c with act := .retire })) ∧
    (∀ (l : Fin 2) (a : Fin 4) (m : SliceMeas) (s : State), dwellOver s l a = true → slicePasses m = false → saturated m = false → ((s.cv l).adc.get a).dwellTicks + 1 < 4 * ((s.cv l).adc.get a).dwellLen →
      exec (.adcDwellEnd l a m) s = .next ((s.onAdc l a (trimSlice ((s.cv l).adc.get a).offline m)))) ∧
    (∀ (l : Fin 2) (a : Fin 4) (p : Fin 64) (s : State), s.up = true → ((s.cv l).adc.get a).on = true → 16 ≤ ((s.cv l).adc.get a).devCount.get p → ((s.cv l).adc.get a).suspects.contains p.val = false →
      exec (.sliceSuspect l a p) s = .next ((s.onAdc l a fun c => { c with suspects := c.suspects ++ [p.val] }).convFault l 0)) ∧
    (∀ (l : Fin 2) (a : Fin 4) (p : Nat) (ps : List Nat) (s : State), s.up = true → ((s.cv l).adc.get a).on = true → ((s.cv l).adc.get a).suspects = p :: ps → ((s.cv l).adc.get a).spareOk = true →
      exec (.sliceSubstitute l a) s = .next (s.onAdc l a fun c => { c with act := .subst p })) ∧
    (∀ (l : Fin 2) (a : Fin 4) (s : State), s.up = true → ((s.cv l).adc.get a).on = true → (2 ≤ ((s.cv l).adc.get a).retiredCount ∨ ((s.cv l).adc.get a).spareOk = false ∧ 256 ≤ ((s.cv l).adc.get a).suspectTicks) →
      exec (.adcFail l a) s = .next (failAdc l a s)) ∧
    (∀ (l : Fin 2) (s : State), s.up = true → (s.cv l).startIn = some 0 → (s.cv l).optics ≠ 0 → s.lineAllowed l = true →
      exec (.convCalStart l) s = .next (beginCal l s)) ∧
    (∀ (l : Fin 2) (meas : List (Fin 4 × Fin 65 × SliceMeas)) (s : State), calAt s l 1625 = true → (s.cv l).rx = .cal →
      exec (.convRxCalDone l meas) s = .next (let fresh := meas.filter fun b => !(((s.cv l).adc.get b.1).slices.get b.2.1).retired
        let t := s.each fresh fun s b => s.onAdc l b.1 (trimSlice b.2.1 b.2.2)
        let u := t.each (fresh.filter fun b => !slicePasses b.2.2) fun s b => retireSlice l b.1 b.2.1 s
        calSettle l ((u.each (List.range 4) fun s a => s.onAdc l a adcAfterCal).onConv l fun c => { c with rx := rxAfterCal c, rxChanged := true }))) ∧
    (∀ (l : Fin 2) (bad : List (Fin 4)) (trims : List DacMeas) (s : State), calAt s l 3250 = true → (s.cv l).tx = .cal → bad = [] → (s.ml l).role ≠ 3 →
      exec (.convTxCalDone l bad trims) s = .next (calSettle l ((lightAll l (setDacs l [] trims s)).onConv l fun c => { c with tx := .ready, muted := false }))) ∧
    (∀ (l : Fin 2) (bad : List (Fin 4)) (trims : List DacMeas) (s : State), calAt s l 3250 = true → (s.cv l).tx = .cal → bad = [] → (s.ml l).role = 3 →
      exec (.convTxCalDone l bad trims) s = .next (calSettle l ((setDacs l [] trims s).onConv l fun c => { c with tx := .mcOnly, muted := true }))) ∧
    (∀ (l : Fin 2) (bad : List (Fin 4)) (trims : List DacMeas) (s : State), calAt s l 3250 = true → (s.cv l).tx = .cal → bad ≠ [] →
      exec (.convTxCalDone l bad trims) s = .next (((calSettle l ((setDacs l bad trims s).onConv l fun c => { c with tx := .failed, muted := true })).convFault l 2).trigger 3)) ∧
    (∀ (l : Fin 2) (s : State), calAt s l 6250 = true → (s.cv l).tx = .cal →
      exec (.convCalTimeout l true) s = .next (((calSettle l (s.onConv l fun c => { c with tx := .failed, muted := true })).convFault l 4).trigger 3)) ∧
    (∀ (l : Fin 2) (s : State), calAt s l 6250 = true → (s.cv l).rx = .cal →
      exec (.convCalTimeout l false) s = .next ((calSettle l (s.onConv l fun c => { c with rx := .failed, rxChanged := true })).convFault l 4)) ∧
    (∀ (l : Fin 2) (s : State), s.up = true → (s.cv l).pll = true → (s.cv l).powered = true →
      exec (.linePllUnlock l) s = .next (((s.onConv l fun c => { c with pll := false, muted := true, failDue := true, calTick := none, relock := c.relock.elim (some 0) fun k => if k < 3 then some k else none }).each (List.range 4) fun s a => s.onAdc l a adcIdle).convFault l 5)) ∧
    (∀ (l : Fin 2) (locks : Bool) (k : Nat) (s : State), s.up = true → (s.cv l).relock = some k → (s.cv l).pll = false → (s.cv l).failDue = false →
      (s.cv l).calTick = none → k < 3 →
      exec (.linePllRelockAttempt l locks) s = .next ((beginCal l s).onConv l fun c => { c with relock := some (k + 1), pll := locks }))

/-- The last tick of a warm-up, of a closing and of a fade mark what the boundary that ends it does; detected pilots take a subcarrier to ACQ with its banks at the identity; a full tick of pilot sync, a valid announcement, pilot SNR at LOCK_THR and the first bank applied take it to TRACK and its line to RUN; 64 ticks of ACQ take it to OFF; 4 ticks below LOSS_THR or 16 invalid announcements take it to LOST with the fault set. (R91, R92, R99, R102, R103, R106, R109, R111, R112.) -/
def Obligations.SubcarrierEventsComplete : Prop :=
    (∀ (l : Fin 2) (k : Fin 16) (s : State), s.up = true → ((s.ds l).sc.get k).warming = true → ((s.ds l).sc.get k).warm ≤ 1 →
      exec (.scWarmupEnd l k) s = .next (s.onSc l k fun c => { c with due := true })) ∧
    (∀ (l : Fin 2) (k : Fin 16) (s : State), s.up = true → ((s.ds l).sc.get k).closing = true →
      exec (.scCloseEnd l k) s = .next (s.onSc l k fun c => { c with due := true })) ∧
    (∀ (l : Fin 2) (k : Fin 16) (s : State), s.up = true → ((s.ds l).sc.get k).fade ≤ 1 → (((s.ds l).sc.get k).slot = .fading ∨ ((s.ds l).sc.get k).slot = .pending) →
      exec (.eqFadeEnd l k) s = .next (s.onSc l k fun c => { c with fadeDue := true })) ∧
    (∀ (l : Fin 2) (k : Fin 16) (s : State), s.up = true → ((s.ds l).rxd = .scAcq ∨ (s.ds l).rxd = .run) → ((s.ds l).sc.get k).rx = .off →
      exec (.pilotsDetected l k) s = .next ((scAcq l k s).onSc l k resetBanks)) ∧
    (∀ (l : Fin 2) (k : Fin 16) (x : AcqIn) (s : State), s.up = true → (s.ds l).rxd = .run → ((s.ds l).sc.get k).rx = .acq → 1 ≤ ((s.ds l).sc.get k).acqTicks → ((s.ds l).sc.get k).acqTicks ≤ 64 →
      x.sync = true → x.ann = true → (firstBank x.bank ((s.ds l).sc.get k)).applied = true → 10 * (s.ds l).lockThr ≤ x.snr →
      exec (.scTrackReached l k x) s = .next (s.onSc l k fun c => { firstBank x.bank c with rx := .track, lowTicks := 0, annBad := 0, annZero := false })) ∧
    (∀ (l : Fin 2) (k : Fin 16) (x : AcqIn) (s : State), s.up = true → (s.ds l).rxd = .scAcq → (s.ds l).rxdTicks ≤ 64 → ((s.ds l).sc.get k).rx = .acq → 1 ≤ ((s.ds l).sc.get k).acqTicks → ((s.ds l).sc.get k).acqTicks ≤ 64 →
      x.sync = true → x.ann = true → (firstBank x.bank ((s.ds l).sc.get k)).applied = true → 10 * (s.ds l).lockThr ≤ x.snr →
      exec (.scTrackReached l k x) s = .next (toRxd l .run (s.onSc l k fun c => { firstBank x.bank c with rx := .track, lowTicks := 0, annBad := 0, annZero := false }))) ∧
    (∀ (l : Fin 2) (k : Fin 16) (s : State), s.up = true → ((s.ds l).sc.get k).rx = .acq → 64 ≤ ((s.ds l).sc.get k).acqTicks →
      exec (.scAcqExpire l k) s = .next (scOff l k s)) ∧
    (∀ (l : Fin 2) (k : Fin 16) (s : State), s.up = true → ((s.ds l).sc.get k).rx = .track → (4 ≤ ((s.ds l).sc.get k).lowTicks ∨ 16 ≤ ((s.ds l).sc.get k).annBad) →
      exec (.scTrackLoss l k) s = .next ((s.onSc l k fun c => { c with rx := .lost, annBad := 0 }).dspFault l 2))

/-- A peak within the scan leads to FREQ_ACQ with its dispersion, an offset found within 8 ticks to SC_ACQ; a scan that has covered its window without a peak goes on to the full scan and, the third in an episode, raises ACQ_FAIL; 8 ticks of FREQ_ACQ or 64 of SC_ACQ without success start the full scan, 64 ticks of RUN without TRACK the narrow one; a receive side in CAL or FAILED sends the line to WAIT_CONV, one that is OFF to OFF; 1,000 ticks of residual dispersion alarm; a window that is due is posted, with its estimate or none. (R96, R97, R98, R109, R110, R111, R114.) -/
def Obligations.LineAcquisitionEventsComplete : Prop :=
    (∀ (l : Fin 2) (cd : Int) (s : State), s.up = true → (s.ds l).rxd = .cdSearch → inScan (s.ds l) cd = true → (s.ds l).scanTicks ≤ scanLength (s.ds l) →
      exec (.cdSearchScanEnd l (some cd)) s = .next ((toRxd l .freqAcq s).onDsp l fun d => { d with cdBulk := cd, narrow := false, failedScans := 0, acqFailed := false })) ∧
    (∀ (l : Fin 2) (s : State), s.up = true → (s.ds l).rxd = .cdSearch → scanLength (s.ds l) ≤ (s.ds l).scanTicks → (s.ds l).narrow = true →
      exec (.cdSearchScanEnd l none) s = .next ((s.onDsp l fun d => { d with scanTicks := 0 }).onDsp l fun d => { d with narrow := false })) ∧
    (∀ (l : Fin 2) (s : State), s.up = true → (s.ds l).rxd = .cdSearch → scanLength (s.ds l) ≤ (s.ds l).scanTicks → (s.ds l).narrow = false → (s.ds l).failedScans = 2 → (s.ds l).acqFailed = false →
      exec (.cdSearchScanEnd l none) s = .next (((s.onDsp l fun d => { d with scanTicks := 0 }).onDsp l fun d => { d with failedScans := 3, acqFailed := true }).dspFault l 1)) ∧
    (∀ (l : Fin 2) (s : State), s.up = true → (s.ds l).rxd = .cdSearch → scanLength (s.ds l) ≤ (s.ds l).scanTicks → (s.ds l).narrow = false → ((s.ds l).failedScans ≠ 2 ∨ (s.ds l).acqFailed = true) →
      exec (.cdSearchScanEnd l none) s = .next ((s.onDsp l fun d => { d with scanTicks := 0 }).onDsp l fun d => { d with failedScans := min (d.failedScans + 1) 3 })) ∧
    (∀ (l : Fin 2) (kHz : Int) (s : State), s.up = true → (s.ds l).rxd = .freqAcq → (s.ds l).rxdTicks ≤ 8 →
      exec (.freqOffsetFound l kHz) s = .next ((toRxd l .scAcq s).onDsp l fun d => { d with freqOfs := kHz })) ∧
    (∀ (l : Fin 2) (s : State), s.up = true → (s.ds l).rxd = .freqAcq → 8 ≤ (s.ds l).rxdTicks →
      exec (.freqAcqTimeout l) s = .next (enterSearch l false s)) ∧
    (∀ (l : Fin 2) (s : State), s.up = true → (s.ds l).rxd = .scAcq → 64 ≤ (s.ds l).rxdTicks → anyTrack (s.ds l) = false →
      exec (.scAcqTimeout l) s = .next (enterSearch l false s)) ∧
    (∀ (l : Fin 2) (s : State), s.up = true → (s.ds l).rxd = .run → 64 ≤ (s.ds l).noTrack →
      exec (.runTrackLoss l) s = .next (enterSearch l true s)) ∧
    (∀ (l : Fin 2) (s : State), s.up = true → (s.cv l).rxChanged = true → ((s.cv l).rx = .cal ∨ (s.cv l).rx = .failed) → ((s.ds l).rxd ≠ .off ∨ (s.cv l).powered = true) →
      exec (.rxdConvStateChange l) s = .next (leaveRx l .waitConv (s.onConv l fun c => { c with rxChanged := false }))) ∧
    (∀ (l : Fin 2) (s : State), s.up = true → (s.cv l).rxChanged = true → (s.cv l).rx = .off →
      exec (.rxdConvStateChange l) s = .next (leaveRx l .off (s.onConv l fun c => { c with rxChanged := false }))) ∧
    (∀ (l : Fin 2) (s : State), s.up = true → 1000 ≤ (s.ds l).residTicks →
      exec (.cdResidualAlarm l) s = .next ((s.onDsp l fun d => { d with residTicks := 0 }).dspFault l 4)) ∧
    (∀ (l : Fin 2) (q : QualMeas) (s : State), s.up = true → (s.ds l).winDue = true → ∃ t,
      exec (.qualityWindowPost l q) s = .next t ∧ t.tick = s.tick ∧ t.conv = s.conv ∧ t.cl = s.cl ∧ t.nut = s.nut ∧ t.sett = s.sett ∧
        t.ecc = s.ecc ∧ t.tim = s.tim ∧ t.clv = s.clv ∧ t.cmd = s.cmd ∧ t.flt = s.flt ∧ t.cnt = s.cnt ∧ t.pwr = s.pwr ∧
        (t.ds l).winDue = false ∧ (t.fr l).post = (s.fr l).dueWin ∧ (t.fr l).qDb = qDbOf (s.fr l).dueWin.preErr (s.fr l).dueWin.preBits ∧
        (t.ds l).cdEst = (if cdTrusted (t.ds l) then some (10 * (s.ds l).cdBulk + q.slope) else none) ∧
        (∀ k < 16, ((t.ds l).sc.get k).snrX = min (q.snrX.getD k 0) 0xFFFF ∧ ((t.ds l).sc.get k).snrY = min (q.snrY.getD k 0) 0xFFFF ∧
          ((t.ds l).sc.get k).snrValid = (((s.ds l).sc.get k).dueTrack && !(s.ds l).winBroken)))

/-- In its last tick a lane state marks what the next boundary makes of it: SIG_WAIT 16 ticks long to ADAPT, ADAPT with its equaliser to READY, or after 2,500 ticks to FAILED, a lost signal to LOS, LOS and 125 ticks of FAILED to SIG_WAIT; a raw lane locks to its pattern. A port goes on at the next boundary from ALIGN with its fourth tick of alignment and every lane READY, to FAULT on fault ordered sets and back after 4 ticks without; alignment that is lost starts ALIGN again; 5 ticks without a receiving line make it send local fault. (R146, R147, R150, R153, R154.) -/
def Obligations.LaneAndPortEventsComplete : Prop :=
    (∀ (x : Fin 18) (s : State), s.up = true → (s.lane x).rx = .sigWait → 15 ≤ (s.lane x).ticks →
      exec (.laneSignalDetect x) s = .next (laneDue x .adapt (s.onLane x fun c => { c with sigdet := true }))) ∧
    (∀ (x : Fin 18) (ctle : Fin 49) (dfe : List Int) (s : State), s.up = true → (s.lane x).rx = .adapt → (s.lane x).ticks ≤ 2499 →
      exec (.laneAdaptDone x ctle dfe) s = .next (laneDue x .ready (s.onLane x fun c => { c with ctle := if fld c.cfg 17 16 = 2 then fld c.cfg 15 10 else ctle.val, dfe := dfe.take 6 }))) ∧
    (∀ (x : Fin 18) (s : State), s.up = true → (s.lane x).rx = .adapt → 2499 ≤ (s.lane x).ticks → (s.lane x).due = none →
      exec (.laneAdaptTimeout x) s = .next (laneDue x .failed s)) ∧
    (∀ (x : Fin 18) (s : State), s.up = true → ((s.lane x).rx = .adapt ∨ (s.lane x).rx = .ready) →
      exec (.laneLos x) s = .next (laneDue x .los s)) ∧
    (∀ (x : Fin 18) (s : State), s.up = true → ((s.lane x).rx = .los ∨ (s.lane x).rx = .failed ∧ 124 ≤ (s.lane x).ticks) →
      exec (.laneRetry x) s = .next (laneDue x .sigWait s)) ∧
    (∀ (x : Fin 16) (s : State), s.up = true → (s.lane x).raw = true → (fld (s.lane x).rawCfg 6 4 = 1 ∨ fld (s.lane x).rawCfg 6 4 = 2) → (s.lane x).rx = .ready → (s.lane x).lock = false →
      exec (.prbsLock x) s = .next (s.onLane x fun c => { c with lock := true })) ∧
    (∀ (p : Fin 8) (s : State), s.up = true → (s.port p).st = .align → (s.port p).aligned = true → 3 ≤ (s.port p).ticks → lanesReady s p = true →
      exec (.portAlignDone p) s = .next (portDue p s)) ∧
    (∀ (p : Fin 8) (s : State), s.up = true →
      exec (.alignmentLost p) s = .next (s.onPort p fun c => { c with aligned := false, ticks := if c.st = .align then 0 else c.ticks })) ∧
    (∀ (p : Fin 8) (remote : Bool) (s : State), s.up = true → (s.port p).st = .up →
      exec (.portFaultRx p remote) s = .next (portDue p (s.onPort p fun c => { c with faultTick := true, rxLf := c.rxLf || !remote, rxRf := c.rxRf || remote }))) ∧
    (∀ (p : Fin 8) (remote : Bool) (s : State), s.up = true → (s.port p).st = .fault →
      exec (.portFaultRx p remote) s = .next (s.onPort p fun c => { c with faultTick := true, rxLf := c.rxLf || !remote, rxRf := c.rxRf || remote })) ∧
    (∀ (p : Fin 8) (s : State), s.up = true → (s.port p).st = .fault → 3 ≤ (s.port p).ticks → (s.port p).faultTick = false →
      exec (.portFaultClear p) s = .next (portDue p s)) ∧
    (∀ (p : Fin 8) (s : State), s.up = true → (s.port p).enabled = true → flag (wd (s.port p).cfg 0) 30 = true → 5 ≤ (s.port p).noLine →
      exec (.linkPropLocalFault p) s = .next (sigTurn p (s.onPort p fun c => { c with lfSent := true })))

/-- An incoming frame is counted as lost to overflow, FCS, RUNT, OVERSIZE or a port that is not UP, in that order, or handled as a MAC control frame, or accepted and classified; a PFC frame sets or clears the pauses it enables; a pause that ends within the tick is lifted; an XOFF class repeats its frame after REFRESH ticks; the egress MAC starts the frame of the highest class that is not paused, with its FCS; an open cell whose oldest byte waits its last tick is marked for the boundary to close. (R34, R35, R152, R156, R157, R159, R160, R162, R304.) -/
def Obligations.ClientFrameEventsComplete : Prop :=
    (∀ (p : Fin 8) (f : EthFrame) (sub : Nat) (cwErrs : List Nat) (rmOvf : Bool) (s : State), s.up = true → (s.port p).enabled = true → rmOvf = true →
      exec (.clientFrameIngress p f sub cwErrs rmOvf) s = .next (((s.atSub sub).when (fecFails cwErrs) fun s => s.portFault (8 + p)).count 4 4 p 1)) ∧
    (∀ (p : Fin 8) (f : EthFrame) (sub : Nat) (cwErrs : List Nat) (rmOvf : Bool) (s : State), s.up = true → (s.port p).enabled = true → rmOvf = false → (fecFails cwErrs = true ∨ f.fcsOk = false) →
      exec (.clientFrameIngress p f sub cwErrs rmOvf) s = .next (((s.atSub sub).when (fecFails cwErrs) fun s => s.portFault (8 + p)).count 4 0 p 1)) ∧
    (∀ (p : Fin 8) (f : EthFrame) (sub : Nat) (cwErrs : List Nat) (rmOvf : Bool) (s : State), s.up = true → (s.port p).enabled = true → rmOvf = false → fecFails cwErrs = false → f.fcsOk = true → f.data.length < 60 →
      exec (.clientFrameIngress p f sub cwErrs rmOvf) s = .next ((s.atSub sub).count 4 1 p 1)) ∧
    (∀ (p : Fin 8) (f : EthFrame) (sub : Nat) (cwErrs : List Nat) (rmOvf : Bool) (s : State), s.up = true → (s.port p).enabled = true → rmOvf = false → fecFails cwErrs = false → f.fcsOk = true → 60 ≤ f.data.length → fld (wd (s.port p).cfg 2) 13 0 < f.data.length + 4 →
      exec (.clientFrameIngress p f sub cwErrs rmOvf) s = .next ((s.atSub sub).count 4 2 p 1)) ∧
    (∀ (p : Fin 8) (f : EthFrame) (sub : Nat) (cwErrs : List Nat) (rmOvf : Bool) (s : State), s.up = true → (s.port p).enabled = true → fecFails cwErrs = false → rmOvf = false → f.fcsOk = true → 60 ≤ f.data.length → f.data.length + 4 ≤ fld (wd (s.port p).cfg 2) 13 0 → (s.port p).st ≠ .up →
      exec (.clientFrameIngress p f sub cwErrs rmOvf) s = .next ((s.atSub sub).count 4 0xB p 1)) ∧
    (∀ (p : Fin 8) (f : EthFrame) (sub : Nat) (cwErrs : List Nat) (rmOvf : Bool) (s : State), s.up = true → (s.port p).enabled = true → fecFails cwErrs = false → rmOvf = false → f.fcsOk = true → 60 ≤ f.data.length → f.data.length + 4 ≤ fld (wd (s.port p).cfg 2) 13 0 → (s.port p).st = .up → etherType f.data = 0x8808 →
      exec (.clientFrameIngress p f sub cwErrs rmOvf) s = .next (controlFrame p f.data (s.atSub sub))) ∧
    (∀ (p : Fin 8) (f : EthFrame) (sub : Nat) (cwErrs : List Nat) (rmOvf : Bool) (s : State), s.up = true → (s.port p).enabled = true → fecFails cwErrs = false → rmOvf = false → f.fcsOk = true → 60 ≤ f.data.length → f.data.length + 4 ≤ fld (wd (s.port p).cfg 2) 13 0 → (s.port p).st = .up → etherType f.data ≠ 0x8808 →
      exec (.clientFrameIngress p f sub cwErrs rmOvf) s = .next (acceptFrame p f.data (s.atSub sub))) ∧
    (∀ (p : Fin 8) (en : BitVec 8) (quanta : List (BitVec 16)) (s : State), s.up = true → (s.port p).st = .up →
      exec (.pfcFrameRx p en quanta) s = .next (takePfc p en quanta s)) ∧
    (∀ (p : Fin 8) (q : Fin 8) (s : State), s.up = true → (s.port p).paused.getLsbD q = true → (s.port p).pause.get q ≤ bitsPerTick (s.port p).mode →
      exec (.pauseTimerExpire p q) s = .next (s.onPort p fun c => { c with paused := putBit c.paused q false, pause := c.pause.set q 0 })) ∧
    (∀ (p : Fin 8) (c : Fin 8) (s : State), s.up = true → (s.port p).st = .up → (s.port p).xoff.getLsbD ((s.port p).pri c) = true → (s.port p).refreshTicks ≤ (s.port p).refresh.get ((s.port p).pri c) →
      exec (.pfcRefresh p c) s = .next (sendPfc p [((s.port p).pri c, (s.port p).quanta)] (s.onPort p fun x => { x with refresh := x.refresh.set ((s.port p).pri c) 0 }))) ∧
    (∀ (p : Fin 8) (sub : Nat) (f : EgrFrame) (s : State), s.up = true → (s.port p).sends = true → nextEgress (s.port p) = some f → (s.port p).ptpMode = 0 → (s.port p).tcEn = false →
      exec (.egressFrameStart p sub) s = .next ((((s.atSub sub).onPort p fun x => { x with egr := dropFirst f x.egr }).count 4 0xA p 1).emit (.clientFrame p f.flow f.data (fcs32 f.data)))) ∧
    (∀ (f : Fin 8192) (s : State), s.up = true → (s.cl.stream.get f).open_ ≠ [] → flowFlush (s.flowE f) ≤ (s.cl.stream.get f).age + 1 →
      exec (.cellFlush f) s = .next (s.onFlow f fun x => { x with due := true }))

/-- The oldest frame of its flow leaves the queue. On transmit it is counted and dropped in a FAILED direction, by overload, in mode DROP, with an exhausted or missing key or on a comparison that fails; in mode BYPASS it goes to the cell builder behind its descriptor, in AUTH and ENCRYPT sealed under the key half as read, with the PN that is then issued. On receive it is counted and dropped in a FAILED direction, by overload, malformed, with the wrong mode, without a key, not fresh, on a comparison that fails or with a wrong tag; in mode BYPASS it goes to egress, in AUTH and ENCRYPT it is accepted. In every case exec answers the next state that is given. (R176, R178, R179, R187, R188, R190, R193, R194, R195, R196, R197.) -/
def Obligations.NutmegFramesComplete : Prop :=
    (∀ (x : NutRun) (f : NutFrame) (s : State), mayRun s.nut.txQ x.idx = some f → s.up = true → s.nut.txD = .failed →
      exec (.nutEncrypt x) s = .next ((takeFrame false x f s).count 5 5 f.flow 1)) ∧
    (∀ (x : NutRun) (f : NutFrame) (s : State), mayRun s.nut.txQ x.idx = some f → s.up = true → s.nut.txD ≠ .failed → overloaded s false x f = true →
      exec (.nutEncrypt x) s = .next (((takeFrame false x f s).count 5 6 f.flow 1).nutFault 8)) ∧
    (∀ (x : NutRun) (f : NutFrame) (s : State), mayRun s.nut.txQ x.idx = some f → s.up = true → s.nut.txD ≠ .failed → overloaded s false x f = false → saMode (s.sa f.flow).cfg = 0 →
      exec (.nutEncrypt x) s = .next ((takeFrame false x f s).count 5 8 f.flow 1)) ∧
    (∀ (x : NutRun) (f : NutFrame) (s : State), mayRun s.nut.txQ x.idx = some f → s.up = true → s.nut.txD ≠ .failed → overloaded s false x f = false → saMode (s.sa f.flow).cfg = 1 →
      exec (.nutEncrypt x) s = .next (buildCells f.flow (descriptor 1 f.flow ++ f.data) (((takeFrame false x f s).count 5 9 f.flow 1).count 5 0x21 0 (frameBlocks f.data.length)))) ∧
    (∀ (x : NutRun) (f : NutFrame) (s : State), mayRun s.nut.txQ x.idx = some f → s.up = true → s.nut.txD ≠ .failed → overloaded s false x f = false → 2 ≤ saMode (s.sa f.flow).cfg → (s.sa f.flow).exhausted = true →
      exec (.nutEncrypt x) s = .next ((takeFrame false x f s).count 5 7 f.flow 1)) ∧
    (∀ (x : NutRun) (f : NutFrame) (s : State), mayRun s.nut.txQ x.idx = some f → s.up = true → s.nut.txD ≠ .failed → overloaded s false x f = false → 2 ≤ saMode (s.sa f.flow).cfg → (s.sa f.flow).exhausted = false → ((readHalf f.flow 0 (takeFrame false x f s)).sa f.flow).txCur.valid = false →
      exec (.nutEncrypt x) s = .next ((readHalf f.flow 0 (takeFrame false x f s)).count 5 2 f.flow 1)) ∧
    (∀ (x : NutRun) (f : NutFrame) (s : State), mayRun s.nut.txQ x.idx = some f → s.up = true → s.nut.txD ≠ .failed → overloaded s false x f = false → 2 ≤ saMode (s.sa f.flow).cfg → (s.sa f.flow).exhausted = false → ((readHalf f.flow 0 (takeFrame false x f s)).sa f.flow).txCur.valid = true → x.mismatch = true →
      exec (.nutEncrypt x) s = .next (mismatched false f.flow x.lane ((issuePn f.flow (readHalf f.flow 0 (takeFrame false x f s))).count 5 0x21 0 (frameBlocks f.data.length)))) ∧
    (∀ (x : NutRun) (f : NutFrame) (s : State), mayRun s.nut.txQ x.idx = some f → s.up = true → s.nut.txD ≠ .failed → overloaded s false x f = false → 2 ≤ saMode (s.sa f.flow).cfg → (s.sa f.flow).exhausted = false → ((readHalf f.flow 0 (takeFrame false x f s)).sa f.flow).txCur.valid = true → x.mismatch = false →
      exec (.nutEncrypt x) s = .next (buildCells f.flow (sealFrame (saMode (s.sa f.flow).cfg) f.flow ((readHalf f.flow 0 (takeFrame false x f s)).sa f.flow).txCur ((readHalf f.flow 0 (takeFrame false x f s)).sa f.flow).txCur.pn f.data) (((issuePn f.flow (readHalf f.flow 0 (takeFrame false x f s))).count 5 0x21 0 (frameBlocks f.data.length)).count 5 9 f.flow 1))) ∧
    (∀ (x : NutRun) (f : NutFrame) (s : State), mayRun s.nut.rxQ x.idx = some f → s.up = true → s.nut.rxD = .failed →
      exec (.nutRxFrame x) s = .next ((takeFrame true x f s).count 5 5 f.flow 1)) ∧
    (∀ (x : NutRun) (f : NutFrame) (s : State), mayRun s.nut.rxQ x.idx = some f → s.up = true → s.nut.rxD ≠ .failed → overloaded s true x f = true →
      exec (.nutRxFrame x) s = .next (((takeFrame true x f s).count 5 6 f.flow 1).nutFault 8)) ∧
    (∀ (x : NutRun) (f : NutFrame) (s : State), mayRun s.nut.rxQ x.idx = some f → s.up = true → s.nut.rxD ≠ .failed → overloaded s true x f = false → (f.data.length < 4 ∨ beAt f.data 0 4 / 2 ^ 28 ≠ 1 ∨ beAt f.data 0 4 % 8192 ≠ f.flow) →
      exec (.nutRxFrame x) s = .next ((takeFrame true x f s).count 5 0 f.flow 1)) ∧
    (∀ (x : NutRun) (f : NutFrame) (s : State), mayRun s.nut.rxQ x.idx = some f → s.up = true → s.nut.rxD ≠ .failed → overloaded s true x f = false → 4 ≤ f.data.length → beAt f.data 0 4 / 2 ^ 28 = 1 → beAt f.data 0 4 % 8192 = f.flow → (beAt f.data 0 4 / 2 ^ 26 % 4 ≠ saMode (s.sa f.flow).cfg ∨ saMode (s.sa f.flow).cfg = 0) →
      exec (.nutRxFrame x) s = .next ((takeFrame true x f s).count 5 1 f.flow 1)) ∧
    (∀ (x : NutRun) (f : NutFrame) (s : State), mayRun s.nut.rxQ x.idx = some f → s.up = true → s.nut.rxD ≠ .failed → overloaded s true x f = false → 4 ≤ f.data.length → beAt f.data 0 4 / 2 ^ 28 = 1 → beAt f.data 0 4 % 8192 = f.flow → beAt f.data 0 4 / 2 ^ 26 % 4 = saMode (s.sa f.flow).cfg → saMode (s.sa f.flow).cfg = 1 →
      exec (.nutRxFrame x) s = .next (toEgress f.flow (f.data.drop 4) (((takeFrame true x f s).count 5 0xA f.flow 1).count 5 0x21 1 (frameBlocks (f.data.length - 4))))) ∧
    (∀ (x : NutRun) (f : NutFrame) (s : State), mayRun s.nut.rxQ x.idx = some f → s.up = true → s.nut.rxD ≠ .failed → overloaded s true x f = false → 4 ≤ f.data.length → beAt f.data 0 4 / 2 ^ 28 = 1 → beAt f.data 0 4 % 8192 = f.flow → beAt f.data 0 4 / 2 ^ 26 % 4 = saMode (s.sa f.flow).cfg → 2 ≤ saMode (s.sa f.flow).cfg → (rxHalf ((readHalf f.flow (if f.slot && !(s.sa f.flow).alias_ then 3 else 2) (takeFrame true x f s)).sa f.flow) f.slot).1.valid = false →
      exec (.nutRxFrame x) s = .next ((readHalf f.flow (if f.slot && !(s.sa f.flow).alias_ then 3 else 2) (takeFrame true x f s)).count 5 2 f.flow 1)) ∧
    (∀ (x : NutRun) (f : NutFrame) (s : State), mayRun s.nut.rxQ x.idx = some f → s.up = true → s.nut.rxD ≠ .failed → overloaded s true x f = false → 4 ≤ f.data.length → beAt f.data 0 4 / 2 ^ 28 = 1 → beAt f.data 0 4 % 8192 = f.flow → beAt f.data 0 4 / 2 ^ 26 % 4 = saMode (s.sa f.flow).cfg → 2 ≤ saMode (s.sa f.flow).cfg → (rxHalf ((readHalf f.flow (if f.slot && !(s.sa f.flow).alias_ then 3 else 2) (takeFrame true x f s)).sa f.flow) f.slot).1.valid = true → pnFresh (saWin ((readHalf f.flow (if f.slot && !(s.sa f.flow).alias_ then 3 else 2) (takeFrame true x f s)).sa f.flow).cfg) (rxHalf ((readHalf f.flow (if f.slot && !(s.sa f.flow).alias_ then 3 else 2) (takeFrame true x f s)).sa f.flow) f.slot).1 (beAt f.data 4 8) = false →
      exec (.nutRxFrame x) s = .next ((readHalf f.flow (if f.slot && !(s.sa f.flow).alias_ then 3 else 2) (takeFrame true x f s)).count 5 3 f.flow 1)) ∧
    (∀ (x : NutRun) (f : NutFrame) (s : State), mayRun s.nut.rxQ x.idx = some f → s.up = true → s.nut.rxD ≠ .failed → overloaded s true x f = false → 4 ≤ f.data.length → beAt f.data 0 4 / 2 ^ 28 = 1 → beAt f.data 0 4 % 8192 = f.flow → beAt f.data 0 4 / 2 ^ 26 % 4 = saMode (s.sa f.flow).cfg → 2 ≤ saMode (s.sa f.flow).cfg → (rxHalf ((readHalf f.flow (if f.slot && !(s.sa f.flow).alias_ then 3 else 2) (takeFrame true x f s)).sa f.flow) f.slot).1.valid = true → pnFresh (saWin ((readHalf f.flow (if f.slot && !(s.sa f.flow).alias_ then 3 else 2) (takeFrame true x f s)).sa f.flow).cfg) (rxHalf ((readHalf f.flow (if f.slot && !(s.sa f.flow).alias_ then 3 else 2) (takeFrame true x f s)).sa f.flow) f.slot).1 (beAt f.data 4 8) = true → x.mismatch = true →
      exec (.nutRxFrame x) s = .next (mismatched true f.flow x.lane ((readHalf f.flow (if f.slot && !(s.sa f.flow).alias_ then 3 else 2) (takeFrame true x f s)).count 5 0x21 1 (frameBlocks (f.data.length - 28))))) ∧
    (∀ (x : NutRun) (f : NutFrame) (s : State), mayRun s.nut.rxQ x.idx = some f → s.up = true → s.nut.rxD ≠ .failed → overloaded s true x f = false → 4 ≤ f.data.length → beAt f.data 0 4 / 2 ^ 28 = 1 → beAt f.data 0 4 % 8192 = f.flow → beAt f.data 0 4 / 2 ^ 26 % 4 = saMode (s.sa f.flow).cfg → 2 ≤ saMode (s.sa f.flow).cfg → (rxHalf ((readHalf f.flow (if f.slot && !(s.sa f.flow).alias_ then 3 else 2) (takeFrame true x f s)).sa f.flow) f.slot).1.valid = true → pnFresh (saWin ((readHalf f.flow (if f.slot && !(s.sa f.flow).alias_ then 3 else 2) (takeFrame true x f s)).sa f.flow).cfg) (rxHalf ((readHalf f.flow (if f.slot && !(s.sa f.flow).alias_ then 3 else 2) (takeFrame true x f s)).sa f.flow) f.slot).1 (beAt f.data 4 8) = true → x.mismatch = false → (f.data.length < 28 ∨ tagOk (saMode (s.sa f.flow).cfg) (rxHalf ((readHalf f.flow (if f.slot && !(s.sa f.flow).alias_ then 3 else 2) (takeFrame true x f s)).sa f.flow) f.slot).1 (beAt f.data 4 8) f.data = false) →
      exec (.nutRxFrame x) s = .next (authFail f.flow ((readHalf f.flow (if f.slot && !(s.sa f.flow).alias_ then 3 else 2) (takeFrame true x f s)).count 5 0x21 1 (frameBlocks (f.data.length - 28))))) ∧
    (∀ (x : NutRun) (f : NutFrame) (s : State), mayRun s.nut.rxQ x.idx = some f → s.up = true → s.nut.rxD ≠ .failed → overloaded s true x f = false → 4 ≤ f.data.length → beAt f.data 0 4 / 2 ^ 28 = 1 → beAt f.data 0 4 % 8192 = f.flow → beAt f.data 0 4 / 2 ^ 26 % 4 = saMode (s.sa f.flow).cfg → 2 ≤ saMode (s.sa f.flow).cfg → (rxHalf ((readHalf f.flow (if f.slot && !(s.sa f.flow).alias_ then 3 else 2) (takeFrame true x f s)).sa f.flow) f.slot).1.valid = true → pnFresh (saWin ((readHalf f.flow (if f.slot && !(s.sa f.flow).alias_ then 3 else 2) (takeFrame true x f s)).sa f.flow).cfg) (rxHalf ((readHalf f.flow (if f.slot && !(s.sa f.flow).alias_ then 3 else 2) (takeFrame true x f s)).sa f.flow) f.slot).1 (beAt f.data 4 8) = true → x.mismatch = false → 28 ≤ f.data.length → tagOk (saMode (s.sa f.flow).cfg) (rxHalf ((readHalf f.flow (if f.slot && !(s.sa f.flow).alias_ then 3 else 2) (takeFrame true x f s)).sa f.flow) f.slot).1 (beAt f.data 4 8) f.data = true →
      exec (.nutRxFrame x) s = .next (acceptRx (saMode (s.sa f.flow).cfg) f (beAt f.data 4 8) ((readHalf f.flow (if f.slot && !(s.sa f.flow).alias_ then 3 else 2) (takeFrame true x f s)).count 5 0x21 1 (frameBlocks (f.data.length - 28)))))

/-- A pipeline due for it is marked to be fenced at the next boundary; a C7 frame with no free lane suspends the job with most blocks left, whose counter and GHASH state are kept, and is counted; a mark in its last tick is to be taken back at the boundary; staging words that have waited 125 ticks clear; the self-test fences what failed and gives both directions their state; zeroisation clears every association and the key loads that are staged. Each conclusion gives the whole next state, from conditions on the state and the operands alone. (R182, R183, R198, R200, R202, R203.) -/
def Obligations.NutmegEventsComplete : Prop :=
    (∀ (rx : Bool) (red : Bool) (n : Fin 16) (s : State), s.up = true → s.nut.fenceDue.contains (pipeNo rx red n) = true →
      exec (.pipelineFence rx red n) s = .next ({ s with nut := { s.nut with fenceDue := s.nut.fenceDue.filter (· != pipeNo rx red n), fenceNow := s.nut.fenceNow ++ [pipeNo rx red n] } })) ∧
    (∀ (rx : Bool) (jobs : List LaneJob) (j : LaneJob) (s : State), s.up = true → ((if rx then s.nut.rxQ else s.nut.txQ).any fun f => f.cls == 7) = true → lanesIn s.nut rx ≤ jobs.length → victim s rx jobs = some j →
      exec (.c7Preempt rx jobs) s = .next (State.count { s with nut := { s.nut with suspended := s.nut.suspended ++ [{ rx := rx, lane := j.lane.val, left := j.left, ctr := j.ctr, hash := j.hash }] } } 5 0x20 (dirOf rx) 1)) ∧
    (∀ (n : Fin 8192) (s : State), s.up = true → (s.sa n).markLeft = 1 →
      exec (.txMarkExpire n) s = .next (s.onSa n fun a => { a with markDue := true })) ∧
    (∀ (s : State), s.up = true → s.nut.wrMask ≠ 0 → 125 ≤ s.nut.stageTicks →
      exec .keyStagingTimeout s = .next ({ s with nut := { s.nut with stage := [], wrMask := 0, stageTicks := 0 } })) ∧
    (∀ (badTx : BitVec 32) (badRx : BitVec 32) (s : State), s.up = true → s.nut.txD = .selftest → 8 ≤ s.tick.count → badTx = 0 → badRx = 0 →
      exec (.nutSelftestEnd badTx badRx) s = .next (updateDstate true (updateDstate false s))) ∧
    (∀ (badTx : BitVec 32) (badRx : BitVec 32) (s : State), s.up = true → s.nut.txD = .selftest → 8 ≤ s.tick.count → (badTx ≠ 0 ∨ badRx ≠ 0) →
      exec (.nutSelftestEnd badTx badRx) s = .next (updateDstate true (updateDstate false (State.nutFault { s with nut := { s.nut with fenceTx := s.nut.fenceTx ||| badTx, fenceRx := s.nut.fenceRx ||| badRx } } 9)))) ∧
    (∀ (s : State), s.up = true → s.nut.zeroising ≠ none →
      exec .nutZeroiseDone s = .next (let t := s.each s.nut.sa.keys fun s n => clearSa n s
        { t with nut := { t.nut with zeroising := none }
                 tick := { t.tick with staged := t.tick.staged.filter fun g => !(g.item == .sa && g.op == 6) } }))

/-- TRAIN that ends in time goes to CLEAR, CLEAR to READY at the next boundary; stacks still untrained after 2,500 ticks, interface errors and a temperature of 105 degrees fail there; a stack temperature sets REFX2, HOT and TRIP; the oldest copy is passed on directly, dropped on a line whose delay is not valid, or merged; the oldest elastic cell is admitted where its class and pool allow, or dropped and counted; capture is triggered and done. Each conclusion gives the whole next state, from conditions on the state and the operands alone. (R211, R212, R216, R218, R224, R226, R234.) -/
def Obligations.SettEventsComplete : Prop :=
    (∀ (s : State), s.up = true → s.sett.st = .train → s.sett.ticks ≤ 2500 →
      exec .settTrainDone s = .next ({ s with sett := { s.sett with due := some .clear } })) ∧
    (∀ (untrained : BitVec 4) (s : State), s.up = true → s.sett.st = .train → 2500 ≤ s.sett.ticks → untrained ≠ 0 →
      exec (.settTrainTimeout untrained) s = .next (failStacks (onesOf 4 untrained.toNat) 1 s)) ∧
    (∀ (s : State), s.up = true → s.sett.st = .clear →
      exec .settClearDone s = .next ({ s with sett := { s.sett with due := some .ready } })) ∧
    (∀ (st : Fin 4) (s : State), s.up = true → s.sett.st = .ready →
      exec (.stackInterfaceError st) s = .next (failStacks [st] 3 s)) ∧
    (∀ (st : Fin 4) (temp : BitVec 8) (s : State), s.up = true → s.sett.st ≠ .off → temp.toInt < 95 →
      exec (.settStackTemp st temp) s = .next ({ s with sett := { s.sett with temp := s.sett.temp.set st temp, refx2 := putBit s.sett.refx2 st (decide (85 < temp.toInt)), hot := putBit s.sett.hot st false } })) ∧
    (∀ (st : Fin 4) (temp : BitVec 8) (s : State), s.up = true → s.sett.st ≠ .off → 95 ≤ temp.toInt → temp.toInt < 105 →
      exec (.settStackTemp st temp) s = .next (State.when { s with sett := { s.sett with temp := s.sett.temp.set st temp, refx2 := putBit s.sett.refx2 st true, hot := putBit s.sett.hot st true } } (!s.sett.hot.getLsbD st) fun s => (s.settFault 7).trigger 4)) ∧
    (∀ (st : Fin 4) (temp : BitVec 8) (s : State), s.up = true → s.sett.st ≠ .off → s.sett.st ≠ .failed → 105 ≤ temp.toInt →
      exec (.settStackTemp st temp) s = .next (failStacks [st] 2 ((State.when { s with sett := { s.sett with temp := s.sett.temp.set st temp, refx2 := putBit s.sett.refx2 st true, hot := putBit s.sett.hot st true } } (!s.sett.hot.getLsbD st) fun s => (s.settFault 7).trigger 4).settFault 8))) ∧
    (∀ (c : Copy) (cs : List Copy) (s : State), s.sett.inQ = c :: cs → s.up = true → isDirect s c.cell.flow = true →
      exec .settCopyReceive s = .next (directCopy c { s with sett := { s.sett with inQ := cs } })) ∧
    (∀ (c : Copy) (cs : List Copy) (s : State), s.sett.inQ = c :: cs → s.up = true → isDirect s c.cell.flow = false → delayValid s c.line = false →
      exec .settCopyReceive s = .next (State.count { s with sett := { s.sett with inQ := cs } } 6 0xB c.cell.flow 1)) ∧
    (∀ (c : Copy) (cs : List Copy) (s : State), s.sett.inQ = c :: cs → s.up = true → isDirect s c.cell.flow = false → delayValid s c.line = true →
      exec .settCopyReceive s = .next (mergeCopy c { s with sett := { s.sett with inQ := cs } })) ∧
    (∀ (x : ElCell) (xs : List ElCell) (s : State), s.sett.elQ = x :: xs → s.up = true → s.sett.st ≠ .ready →
      exec .cellElasticAdmit s = .next (State.count { s with sett := { s.sett with elQ := xs } } 6 0xC x.cell.flow 1)) ∧
    (∀ (x : ElCell) (xs : List ElCell) (s : State), s.sett.elQ = x :: xs → s.up = true → s.sett.st = .ready → admits s x.rx x.cls = true →
      exec .cellElasticAdmit s = .next (let a := freePlace s x.rx
        let t := metaWrite (acctWord x.rx x.cls) 1 (request (if x.rx then 3 else 6) (granulePcs a 4) { s with sett := { s.sett with elQ := xs } })
        storeCell a x.cell { t with sett := { t.sett with el := t.sett.el ++ [{ x with addr := a }] } })) ∧
    (∀ (x : ElCell) (xs : List ElCell) (s : State), s.sett.elQ = x :: xs → s.up = true → s.sett.st = .ready → admits s x.rx x.cls = false →
      exec .cellElasticAdmit s = .next ((State.count { s with sett := { s.sett with elQ := xs } } 6 0xC x.cell.flow 1).settFault 4)) ∧
    (∀ (fs : Fin 512) (s : State), s.up = true → s.sett.cap = .armed → capTrig s = 1 → fld (wd s.sett.capCfg 1) 24 16 = fs.val → s.flt.pend.getLsbD fs = true →
      exec (.captureTrigger fs) s = .next ({ s with sett := { s.sett with cap := .triggered, capLeft := capPost s } })) ∧
    (∀ (fs : Fin 512) (s : State), s.up = true → s.sett.cap = .armed → capTrig s = 2 → ofLohi (wd s.sett.capCfg 2) (wd s.sett.capCfg 3) = s.tick.num →
      exec (.captureTrigger fs) s = .next ({ s with sett := { s.sett with cap := .triggered, capLeft := capPost s } })) ∧
    (∀ (s : State), s.up = true → s.sett.cap = .triggered → s.sett.capLeft = 0 →
      exec .captureDone s = .next ({ s with sett := { s.sett with cap := .done } }))

/-- The oldest write-back of an SRAM, or of a stack the oldest whose pseudo-channel has an ECC cycle left, is performed, taking that cycle; the scrubber reads on through an SRAM within the pace of its pass, or through a stack within the quota and the cycles left, and with the last word ends its pass; tracker entries older than a pass expire; a row copy of an SRAM corrects the row and ends, one of a stack stores its row again and waits for its time. Each conclusion gives the whole next state, from conditions on the state and the operands alone. (R241, R244, R245, R246, R247.) -/
def Obligations.StoredDataEventsComplete : Prop :=
    (∀ (target : Fin 20) (w : WbS) (ws : List WbS) (s : State), s.up = true → target.val < 16 → (s.tgt target.val).wb = w :: ws →
      exec (.eccWriteBack target) s = .next (takeWb target.val w s)) ∧
    (∀ (target : Fin 20) (w : WbS) (s : State), s.up = true → 16 ≤ target.val → s.sett.st = .ready → ((s.tgt target.val).wb.find? fun w => w.held && decide (s.ecc.used.get w.pc < eccCycles)) = some w →
      exec (.eccWriteBack target) s = .next (takeWb target.val w (useEcc w.pc 1 s))) ∧
    (∀ (target : Fin 20) (addr : Nat) (up : List Upset) (s : State), s.up = true → target.val < 8 → (s.tgt target.val).pos ≤ addr → addr + 1 < sramWords target.val → s.ecc.scrubbed.get (64 + target.val) + (addr + 1 - (s.tgt target.val).pos) ≤ s.ecc.sramTicks * sramPace target.val →
      exec (.scrubRead target addr up) s = .next (let n := addr + 1 - (s.tgt target.val).pos
        let t := s.each up fun s u => applyUpset u s
        let t := { t with ecc := { t.ecc with scrubbed := t.ecc.scrubbed.upd (64 + target.val) (· + n) } }
        (t.each (badWords t target.val (s.tgt target.val).pos n) fun s i => (sramRead target.val i true s).2).onTgt target.val fun x => { x with pos := addr + 1 })) ∧
    (∀ (target : Fin 20) (addr : Nat) (up : List Upset) (s : State), s.up = true → target.val < 8 → (s.tgt target.val).pos ≤ addr → addr + 1 = sramWords target.val → s.ecc.scrubbed.get (64 + target.val) + (addr + 1 - (s.tgt target.val).pos) ≤ s.ecc.sramTicks * sramPace target.val →
      exec (.scrubRead target addr up) s = .next (let n := addr + 1 - (s.tgt target.val).pos
        let t := s.each up fun s u => applyUpset u s
        let t := { t with ecc := { t.ecc with scrubbed := t.ecc.scrubbed.upd (64 + target.val) (· + n) } }
        endPass target.val (t.each (badWords t target.val (s.tgt target.val).pos n) fun s i => (sramRead target.val i true s).2))) ∧
    (∀ (target : Fin 20) (addr : Nat) (up : List Upset) (s : State), s.up = true → 16 ≤ target.val → scrubRuns s = true → (s.tgt target.val).pos ≤ addr → addr ≤ scrubEnd → (granules ≤ addr ∨ granuleTarget addr = target.val) → scrubFits s target.val (s.tgt target.val).pos addr = true →
      exec (.scrubRead target addr up) s = .next (let pos := (s.tgt target.val).pos
        let t := scrubTake target.val pos addr (s.each up fun s u => applyUpset u s)
        let t := t.each (t.sett.mem.keys.filter fun g => pos ≤ g && g ≤ addr && granuleTarget g == target.val) fun s g => (settRead g true s).1
        let t := t.each (badMeta t target.val pos (addr + 1)) fun s p => scrubMeta p s
        if addr = scrubEnd then endPass target.val t else t.onTgt target.val fun x => { x with pos := addr + 1 })) ∧
    (∀ (target : Fin 20) (s : State), s.up = true → targets.contains target.val = true →
      exec (.trackerExpire target) s = .next (s.onTgt target.val fun x => { x with track := x.track.filter fun e => s.tick.count - e.tick ≤ passTicks s target.val })) ∧
    (∀ (target : Fin 20) (n : Nat) (r : SpareS) (s : State), s.up = true → target.val < 16 → (s.tgt target.val).copying = some n → (s.tgt target.val).spares.getLast? = some r → (s.tgt target.val).copyDone = false →
      exec (.rowRemapCopyDone target) s = .next (finishCopy target.val (s.each ((badWords s target.val 0 (sramWords target.val)).filter (inRow r target.val)) fun s k => copyWord target.val k s))) ∧
    (∀ (target : Fin 20) (n : Nat) (r : SpareS) (s : State), s.up = true → 16 ≤ target.val → s.sett.st = .ready → (s.tgt target.val).copying = some n → 1 ≤ n → (s.tgt target.val).spares.getLast? = some r → (s.tgt target.val).copyDone = false →
      exec (.rowRemapCopyDone target) s = .next (let t := s.each (s.sett.mem.keys.filter fun g => inRow r (granuleTarget g) g) fun s g => putGranule g ((granuleOf s g).map settled) s
        (t.each ((badMeta t target.val granules (scrubEnd + 1)).filter fun p => inRow r target.val (sramAddr p.1 p.2)) fun s p => copyWord p.1 p.2 s).onTgt target.val fun x => { x with copyDone := true }))

/-- A PPS edge is stamped and sets the phase, and where no edge is expected the next expected one, or counts as one inside its window; a reference that has waited its time is QUALIFIED; a DPLL that locks, gives up or ends a switch takes its state at the next boundary; a second enters the history and renews XO_CORR and the holdover value; the OCXO is measured, fails with what it corrected carried over, and the XO is reported lost; a disagreement ends, a slew ends; an output starts at a TAI second, and flies over a missed pulse. (R257, R258, R260, R261, R264, R266, R267, R270, R275, R278, R279, R383.) -/
def Obligations.TimingEventsComplete : Prop :=
    (∀ (k : Fin 4) (sub : Nat) (s : State), s.up = true → (s.ref k).pps = true → (s.ref k).expect = none →
      exec (.ppsEdge k sub) s = .next
        (let ph := addPs (s.atSub sub).now (-(refDelay (s.ref k).cfg))
         ((s.atSub sub).onRef k fun r => { r with ph := some (unitsPs ((ph : Int) - nearestSecond ph)) }).onRef k fun r =>
           { r with expect := some (ph + secUnits), missed := 0, outside := 0 })) ∧
    (∀ (k : Fin 4) (sub e : Nat) (s : State), s.up = true → (s.ref k).pps = true → (s.ref k).expect = some e →
      e ≤ addPs (s.atSub sub).now (-(refDelay (s.ref k).cfg)) + (s.ref k).window → addPs (s.atSub sub).now (-(refDelay (s.ref k).cfg)) ≤ e + (s.ref k).window →
      exec (.ppsEdge k sub) s = .next
        (let ph := addPs (s.atSub sub).now (-(refDelay (s.ref k).cfg))
         inWindow k ph ((s.atSub sub).onRef k fun r => { r with ph := some (unitsPs ((ph : Int) - nearestSecond ph)) }))) ∧
    (∀ (k : Fin 8) (s : State), s.up = true → (s.ref k).st = .wait → (s.ref k).wtrLeft = 0 →
      exec (.refWtrExpire k) s = .next (s.onRef k fun r => { r with st := .qualified })) ∧
    (∀ (s : State), s.up = true → s.tim.st = .acquire → (if (s.ref s.tim.sel).pps then 8 ≤ s.tim.lockRun else 125000 ≤ s.tim.lockRun) →
      exec .dpllLock s = .next ({ s with tim := { s.tim with due := some (.locked, 0) } })) ∧
    (∀ (s : State), s.up = true → s.tim.st = .acquire → (if (s.ref s.tim.sel).pps then 37500000 ≤ s.tim.ticks else 1250000 ≤ s.tim.ticks) →
      exec .dpllAcqFail s = .next ({ s with tim := { s.tim with due := some (.freerun, 0) } })) ∧
    (∀ (phase : Int) (s : State), s.up = true → s.tim.st = .switch → (if (s.ref s.tim.target).pps then 2 ≤ s.tim.meas else 16 ≤ s.tim.meas) →
      exec (.dpllSwitchDone phase) s = .next ({ s with tim := { s.tim with due := some (.locked, phase) } })) ∧
    (∀ (s : State), s.up = true → s.atSecond = true → s.tim.fcwCnt ≠ 0 → ∃ t, exec .historySecond s = .next { s with tim := t } ∧
        t.hist = ({ sec := s.second - 1, mean := roundDiv s.tim.fcwSum s.tim.fcwCnt, valid := s.tim.secValid && s.tim.fcwCnt == 125000 } :: s.tim.hist).take 1024 ∧
        t.fcwSum = 0 ∧ t.fcwCnt = 0 ∧ t.secValid = true ∧ t.secLocked = true ∧ t.st = s.tim.st ∧ t.ref = s.tim.ref ∧ t.fcw = s.tim.fcw ∧
        t.xoCorr = (if s.tim.secLocked then roundDiv s.tim.fcwSum s.tim.fcwCnt else s.tim.xoCorr) ∧
        (s.tim.st = .holdover → t.ho = s.tim.ho ∧ t.hoQual = s.tim.hoQual) ∧
        (s.tim.st ≠ .holdover → t.ho = (holdoverOf t s.second).1 ∧ t.hoQual = (holdoverOf t s.second).2)) ∧
    (∀ (active : Bool) (dev : Int) (n : Nat) (s : State), s.up = true → s.tim.ocxoMeas = some n → 125000 ≤ n → active = true → dev.natAbs ≤ s.tim.ocxoLimit →
      exec (.ocxoMeasureDone active dev) s = .next ({ s with tim := { s.tim with ocxoMeas := none, baseDone := true, ocxo := true, ocxoOfs := dev } })) ∧
    (∀ (active : Bool) (dev : Int) (n : Nat) (s : State), s.up = true → s.tim.ocxoMeas = some n → 125000 ≤ n → (active = false ∨ s.tim.ocxoLimit < dev.natAbs) →
      exec (.ocxoMeasureDone active dev) s = .next ((State.timFault { s with tim := { s.tim with ocxoMeas := none, baseDone := true, ocxo := false, ocxoOfs := dev } } 3).send 2 4 0 0)) ∧
    (∀ (s : State), s.up = true → s.tim.ocxo = true → (s.tim.ocxoDead = true ∨ s.tim.ocxoLimit < s.tim.ocxoOfs.natAbs) →
      exec .ocxoFail s = .next ((State.timFault { s with tim := { s.tim with ocxo := false, fcw := s.tim.fcw + 1000 * s.tim.ocxoOfs, ho := if s.tim.st = .holdover then s.tim.ho + 1000 * s.tim.ocxoOfs else s.tim.ho, held := s.tim.held + 1000 * s.tim.ocxoOfs, hist := [], fcwSum := 0, fcwCnt := 0, secValid := false, secLocked := false, xoCorrOk := false } } 3).send 2 4 0 0)) ∧
    (∀ (s : State), s.up = true → s.tim.xoActive = true →
      exec .xoActivityLost s = .next (State.send { s with tim := { s.tim with xoActive := false } } 2 5 0 0)) ∧
    (∀ (s : State), s.up = true → s.tim.disagree = true → 125000 * s.tim.wtr ≤ s.tim.agreeTicks →
      exec .disagreeEnd s = .next ({ s with tim := { s.tim with disagree := false, agreeTicks := 0 } })) ∧
    (∀ (s : State), s.up = true → s.tim.slewing = true → s.tim.slew = 0 →
      exec .slewDone s = .next ({ s with tim := { s.tim with slewing := false } })) ∧
    (∀ (o : Fin 6) (s : State), s.up = true → s.atSecond = true → (s.tim.out.get o).due = true →
      exec (.outputStart o) s = .next (s.onOut o fun x => { x with cfg := x.next.getD x.cfg, next := none, due := false, on := flag (wd (x.next.getD x.cfg) 0) 31 && !squelched s (x.next.getD x.cfg) })) ∧
    (∀ (n : Fin 2) (s : State), s.up = true → (s.tim.out.get (4 + n.val)).on = true → outSrc (s.tim.out.get (4 + n.val)).cfg ≠ 0 → (s.tim.out.get (4 + n.val)).missed = true →
      exec (.ppsOutFlywheel n) s = .next (((s.onOut (4 + n.val) fun x => { x with missed := false, fly := true }).timFault 7).emit (.pulse (4 + n.val) ((s.tick.tod : Int) + psUnits (s.tim.out.get (4 + n.val)).ofs + outOfs (s.tim.out.get (4 + n.val)).cfg))))

/-- A link comes UP and goes down; a TIME word gives its two stamps and flags, an ECHO word the link delay and the offset of the neighbour; the first lock asks for the change of time; the last tick before a new master passes, so that the next boundary applies it; a CMD word for this device joins its message, one that has made three hops is counted, any other goes to the queue of the other link where that is UP, and a word of another type is counted; a FAULT word not seen before is recorded, signalled and passed on before all others; late fragments and replies time out. (R280, R281, R282, R283, R365, R366, R367, R393.) -/
def Obligations.ChainEventsComplete : Prop :=
    (∀ (x : LinkAlign) (s : State), s.up = true → s.chained = true → (s.link x.linkB).st = .align →
      exec (.chainLinkAlign x) s = .next (s.onLink x.linkB fun k => { k with st := .up, slip := (k.slip + x.slips) % 128 })) ∧
    (∀ (b : Bool) (s : State), s.up = true → linkUp s b = true →
      exec (.chainLinkDown b) s = .next (linkLost b .align s)) ∧
    (∀ (b : Bool) (w : ChainWord) (stamp : Nat) (s : State), s.up = true → linkUp s b = true → chainType w = some 2 →
      exec (.chainTimeWordRx b w stamp) s = .next (let t := s.atSub stamp
        State.onLink { t with tim := { t.tim with lost := putBit t.tim.lost (bitsOf w.toNat 119 118) false } } b fun k =>
          { k with heard := true, got := true, farTick := bitsOf w.toNat 111 48, rxTick := t.tick.num, rxOfs := stamp, flags := bitsOf w.toNat 15 0,
                   t3 := some (bitsOf w.toNat 111 48 * tickUnits + bitsOf w.toNat 47 16), t4 := some (t.tick.num * tickUnits + stamp) })) ∧
    (∀ (b : Bool) (w : ChainWord) (t3 t4 : Nat) (s : State), s.up = true → linkUp s b = true → chainType w = some 3 → (s.link b).skip = 0 → (s.link b).t3 = some t3 → (s.link b).t4 = some t4 →
      exec (.chainEchoWordRx b w) s = .next (let t1 := nearTick s.tick.num (bitsOf w.toNat 111 80) * tickUnits + txOfs
        let t2 := nearTick (s.link b).farTick (bitsOf w.toNat 79 48) * tickUnits + bitsOf w.toNat 47 16
        s.onLink b fun k =>
          { k with t1 := some t1.toNat, t2 := some t2.toNat, dly := roundDiv (unitsPs ((t2 - t1) + ((t4 : Int) - t3))) 20,
                   theta := some (roundDiv ((t2 - t1) - ((t4 : Int) - t3) - psUnits k.asym) 2) })) ∧
    (∀ (b : Bool) (d : Int) (s : State), s.up = true → viaLink s = some b → (s.link b).theta = some d → s.tim.st = .chain → s.tim.chainOnce = false →
      exec .chainFirstLock s = .next ({ s with tim := { s.tim with chainOnce := true, due := some (.chain, 0), retime := s.tim.retime + d } })) ∧
    (∀ (m : Nat) (s : State), s.up = true → s.tim.newMaster = some (m, 1) →
      exec .chainMasterApply s = .next ({ s with tim := { s.tim with newMaster := some (m, 0) } })) ∧
    (∀ (b : Bool) (w : ChainWord) (s : State), s.up = true → s.chained = true → (s.link b).st = .up → chainType w = some 4 → bitsOf w.toNat 117 116 = s.cmd.id →
      exec (.chainCmdWordRx b w) s = .next (takeFrag (bitsOf w.toNat 119 118) (bitsOf w.toNat 111 96) (bitsOf w.toNat 95 84) (w.toNat.testBit 83) (w.toNat.testBit 82) b (beBytes 10 (bitsOf w.toNat 79 0)) s)) ∧
    (∀ (b : Bool) (w : ChainWord) (s : State), s.up = true → s.chained = true → (s.link b).st = .up → chainType w = some 4 → bitsOf w.toNat 117 116 ≠ s.cmd.id → bitsOf w.toNat 115 114 = 3 →
      exec (.chainCmdWordRx b w) s = .next (s.count 10 1 (if b then 1 else 0) 1)) ∧
    (∀ (b : Bool) (w : ChainWord) (s : State), s.up = true → s.chained = true → (s.link b).st = .up → chainType w = some 4 → bitsOf w.toNat 117 116 ≠ s.cmd.id → bitsOf w.toNat 115 114 ≠ 3 →
      exec (.chainCmdWordRx b w) s = .next (s.when ((s.link !b).st == .up) (linkQueue (!b) (chainWord 4 (bitsOf w.toNat 119 118) (bitsOf w.toNat 117 116) (bitsOf w.toNat 115 114 + 1) (bitsOf w.toNat 111 0))))) ∧
    (∀ (b : Bool) (w : ChainWord) (n : Nat) (s : State), s.up = true → linkUp s b = true → (s.link b).st = .up → chainType w = some n → 5 ≤ n →
      exec (.chainCmdWordRx b w) s = .next (s.count 10 4 (if b then 1 else 0) 1)) ∧
    (∀ (b : Bool) (w : ChainWord) (s : State), s.up = true → s.chained = true → (s.link b).st = .up → chainType w = some 1 → bitsOf w.toNat 119 118 ≠ s.cmd.id → s.flt.seen.contains (bitsOf w.toNat 119 118, bitsOf w.toNat 99 92) = false →
      exec (.chainFaultWordRx b w) s = .next (let src := bitsOf w.toNat 119 118
        let t := s.onFlt fun f => { f with seen := ((src, bitsOf w.toNat 99 92) :: f.seen).take 16 }
        let t := (t.onFlt fun f => { f with chainLast := mkWord (src * 2 ^ 30 + bitsOf w.toNat 102 100 * 2 ^ 27 + bitsOf w.toNat 99 92 * 2 ^ 9 + bitsOf w.toNat 111 103) }).signal 289
        t.when (bitsOf w.toNat 115 114 != 3 && (t.link !b).st == .up) fun s =>
          linkPut (!b) (chainWord 1 src (bitsOf w.toNat 117 116) (bitsOf w.toNat 115 114 + 1) (bitsOf w.toNat 111 0)) s)) ∧
    (∀ (b : Bool) (w : ChainWord) (s : State), s.up = true → s.chained = true → (s.link b).st = .up → chainType w = some 1 → bitsOf w.toNat 119 118 ≠ s.cmd.id → s.flt.seen.contains (bitsOf w.toNat 119 118, bitsOf w.toNat 99 92) = true →
      exec (.chainFaultWordRx b w) s = .next (s.onFlt fun f => { f with seen := ((bitsOf w.toNat 119 118, bitsOf w.toNat 99 92) :: f.seen).take 16 })) ∧
    (∀ (src : Fin 4) (msg : BitVec 16) (reply : Bool) (m : FwdMsg) (s : State), s.live = true → (s.cmd.fwdIn.find? fun m => m.src == src.val && m.msg == msg.toNat && m.reply == reply && decide (125 ≤ m.age)) = some m →
      exec (.fwdFragmentTimeout src msg reply) s = .next (State.count { s with cmd := { s.cmd with fwdIn := s.cmd.fwdIn.filter (· != m) } } 10 3 (if m.linkB then 1 else 0) 1)) ∧
    (∀ (msg : BitVec 16) (s : State), s.live = true → (∃ m ∈ s.cmd.fwdOut, m.1 = msg.toNat ∧ 1250 ≤ m.2) →
      exec (.fwdReplyTimeout msg) s = .next (finishEnt (fun e => e.kind == .forward msg.toNat && !e.done) (fun r => { r with status := .timeout }) { s with cmd := { s.cmd with fwdOut := s.cmd.fwdOut.filter fun m => m.1 != msg.toNat } }))

/-- A window that is due is posted with its samples, its offset and the correction then in force; the dispersion of a second becomes a sample, and a pending calibration whose two means stand is marked for the boundary to capture; bursts leave in their ticks, at most one a tick; a preamble takes the receiver to PRE, a timeout back to SEARCH, a burst with a bad header is counted and reported and one with a good header is taken; enough samples are posted; a leaf without echo unranges, and a leaf that stays silent is lost to its hub. (R292, R297, R298, R308, R309, R311, R312, R313, R314.) -/
def Obligations.MartenEventsComplete : Prop :=
    (∀ (l : Fin 2) (s : State), marRuns s = true → (s.ml l).due = true → s.lineAllowed l = true → ∃ t, exec (.martenWindowPost l) s = .next t ∧
        (t.ml l).due = false ∧ (t.ml l).post.samples = (s.ml l).dueWin.cnt ∧
        (t.ml l).post.appIn = roundDiv (s.ml l).dueWin.sumIn (s.ml l).dueWin.cnt ∧ (t.ml l).post.appOut = roundDiv (s.ml l).dueWin.sumOut (s.ml l).dueWin.cnt ∧
        (t.ml l).post.theta = thetaOf (t.ml l).post.appOut (t.ml l).post.appIn (psUnits (s.ml l).delta) ∧ (t.ml l).post.asym = (s.ml l).delta ∧
        t.conv = s.conv ∧ t.dsp = s.dsp ∧ t.frm = s.frm ∧ t.cl = s.cl ∧ t.nut = s.nut ∧ t.ecc = s.ecc ∧ t.clv = s.clv ∧ t.cmd = s.cmd ∧ t.pwr = s.pwr) ∧
    (∀ (l : Fin 2) (s : State), marRuns s = true → s.atSecond = true → (s.ds l).rxd = .run →
      exec (.cdSecondSample l) s = .next (s.onMar l fun m => { m with cdIn := secondSample m.driftAvg m.secIn m.cdIn, cdOut := secondSample m.driftAvg m.secOut m.cdOut, secIn := [], secOut := [] })) ∧
    (∀ (l : Fin 2) (s : State), marRuns s = true → (s.ml l).calPend = true → (s.ml l).avgIn.isSome = true → (s.ml l).avgOut.isSome = true →
      exec (.cdCalCapture l) s = .next (s.onMar l fun m => { m with calDue := true })) ∧
    (∀ (l : Fin 2) (s : State), mayBurst s l 1 = true → s.tick.num % (s.ml l).period = 0 →
      exec (.mcBurstSend l) s = .next (sendBurst l 1 0x1F 0x1F (burstStamp s l) ((s.ml l).mcEcho.getD (0, 0)).1 ((s.ml l).mcEcho.getD (0, 0)).2 0 s)) ∧
    (∀ (l : Fin 2) (s : State), mayBurst s l 2 = true → superTick s < 16 →
      exec (.hubBeacon l) s = .next (sendBurst l 2 0x1F 0xFF (burstStamp s l) 0 0 0 s)) ∧
    (∀ (l : Fin 2) (e : Nat × Nat × Nat × Int) (s : State), mayBurst s l 2 = true → 16 ≤ superTick s → superTick s ≤ 31 → ((s.ml l).leafEcho.find? fun e => e.1 == superTick s - 16) = some e →
      exec (.hubBeacon l) s = .next (sendBurst l 2 0x1F (superTick s - 16) (burstStamp s l) e.2.1 e.2.2.1 e.2.2.2 s)) ∧
    (∀ (l : Fin 2) (s : State), mayBurst s l 3 = true → (s.ml l).timed = true → (s.ml l).ranged = false → (s.ml l).sentDisc = false → 625 ≤ superTick s → superTick s ≤ 936 →
      exec (.leafDiscoverySend l) s = .next (sendBurst l 4 (s.ml l).leafId 0x1F (burstStamp s l) ((s.ml l).mcEcho.getD (0, 0)).1 ((s.ml l).mcEcho.getD (0, 0)).2 0 (s.onMar l fun m => { m with sentDisc := true }))) ∧
    (∀ (l : Fin 2) (s : State), mayBurst s l 3 = true → (s.ml l).ranged = true → superTick s = leafSendTime (s.ml l) / tickUnits →
      exec (.leafSlotBurst l) s = .next (sendBurst l 3 (s.ml l).leafId 0x1F (s.tick.num * tickUnits + leafSendTime (s.ml l) % tickUnits) ((s.ml l).mcEcho.getD (0, 0)).1 ((s.ml l).mcEcho.getD (0, 0)).2 0 s)) ∧
    (∀ (l : Fin 2) (peak : Nat) (x : McPeak) (s : State), mcHears s l = true → (((s.ml l).synced x.sync).mcSt = .search ∨ (((s.ml l).synced x.sync).mcSt = .pre ∨ ((s.ml l).synced x.sync).mcSt = .sync) ∧ ((s.ml l).synced x.sync).mcPeak < peak) →
      exec (.mcPreambleDetect l peak x) s = .next ((s.onMar l fun m => m.synced x.sync).onMar l fun m => { m with mcSt := .pre, mcPeak := peak })) ∧
    (∀ (l : Fin 2) (peak : Nat) (x : McPeak) (s : State), mcHears s l = true → (((s.ml l).synced x.sync).mcSt = .pre ∨ ((s.ml l).synced x.sync).mcSt = .sync) → peak ≤ ((s.ml l).synced x.sync).mcPeak →
      exec (.mcPreambleDetect l peak x) s = .next (s.onMar l fun m => m.synced x.sync)) ∧
    (∀ (l : Fin 2) (peak : Nat) (x : McPeak) (v : Int) (s : State), mcHears s l = true → ((s.ml l).synced x.sync).mcSt = .body → ((s.ml l).synced x.sync).strength = some v → v + ((s.ml l).synced x.sync).capMargin < x.power →
      exec (.mcPreambleDetect l peak x) s = .next (((s.onMar l fun m => m.synced x.sync).onMar l fun m => { m with mcSt := .pre, mcPeak := peak }).count 8 2 (2 + l.val) 1)) ∧
    (∀ (l : Fin 2) (s : State), mcHears s l = true → ((s.ml l).mcSt = .pre ∨ (s.ml l).mcSt = .sync) →
      exec (.mcSyncTimeout l) s = .next ((s.onMar l fun m => { m with mcSt := .search }).count 8 1 (2 + l.val) 1)) ∧
    (∀ (l : Fin 2) (b : Burst) (s : State), mcHears s l = true → (s.ml l).mcSt ≠ .search → (b.hdrOk = false ∨ burstFld b.hdr 31 0 ≠ burstCrc b.hdr.toNat) →
      exec (.mcBurstRx l b) s = .next ((((s.onMar l fun m => { m with mcSt := .search, strength := some b.power }).onMar l fun m => { m with mcGood := false }).count 8 4 (2 + l.val) 1 |>.marFault 7).send 7 1 l (wrapInt 16 b.power))) ∧
    (∀ (l : Fin 2) (b : Burst) (s : State), mcHears s l = true → (s.ml l).mcSt ≠ .search → b.hdrOk = true → burstFld b.hdr 31 0 = burstCrc b.hdr.toNat →
      exec (.mcBurstRx l b) s = .next (takeBurst l b (addPs b.stamp (-((s.ml l).rxPath : Int))) (s.onMar l fun m => { m with mcSt := .search, strength := some b.power }))) ∧
    (∀ (l : Fin 2) (s : State), marRuns s = true → (s.ml l).role ≠ 0 → (steerSrc s.mar.steer ≠ 4 ∨ (s.ml l).role ≠ 3) → (s.ml l).mcAvg ≤ (s.ml l).mcCnt → (s.ml l).mcCnt ≠ 0 →
      exec (.mcPost l) s = .next (let aOut := roundDiv (s.ml l).mcOut (s.ml l).mcCnt
        let aIn := roundDiv (s.ml l).mcIn (s.ml l).mcCnt
        s.onMar l fun x => { x with mcPost := { appIn := aIn, appOut := aOut, theta := thetaOf aOut aIn (psUnits (mcDelta s l)), asym := mcDelta s l, valid := x.mcGood, samples := x.mcCnt },
                                    mcOut := 0, mcIn := 0, mcCnt := 0, mcGood := true, mcMoved := s.tim.slewing })) ∧
    (∀ (l : Fin 2) (s : State), marRuns s = true → (s.ml l).role = 3 → (s.ml l).ranged = true → 16 < (s.ml l).noEcho →
      exec (.leafEchoLoss l) s = .next (s.onMar l fun m => { m with ranged := false, noEcho := 0 })) ∧
    (∀ (l : Fin 2) (j : Fin 16) (s : State), marRuns s = true → (s.ml l).role = 2 → ((s.ml l).leaf.get j).ranged = true → 16 < ((s.ml l).leaf.get j).empty →
      exec (.hubLeafLost l j) s = .next ((s.onMar l fun m => { m with leaf := m.leaf.upd j fun x => { x with ranged := false, lost := true, empty := 0 } }).marFault 8))

/-- Calibration that has run 250 ticks, a dwell that ends, an injected run that is done, a detector and a bias loop mark what the next boundary does; the second check counts failures and marks suspects and the supervisor steps take their results; a conversion ends in the injected or the regular scan; a scan starts at the pace boundary or is skipped and counted; an edge that EDGE selects and an enabled event that has happened trigger the injected sequence; syncs act at once or after the run. (R319, R320, R321, R325, R328, R330, R331, R334, R335, R336, R340, R342.) -/
def Obligations.CloveEventsComplete : Prop :=
    (∀ (bad : List (Fin 5)) (fbBad : Bool) (s : State), s.live = true → s.clv.st = .cal → 249 ≤ s.clv.ticks →
      exec (.cloveCalEnd bad fbBad) s = .next (s.onClv fun c => { c with calDue := some (((List.finRange 5).filter fun x => bad.contains x).map Fin.val, fbBad) })) ∧
    (∀ (slice : Fin 5) (offset : Int) (gain : Int) (offRes : Nat) (gainRes : Nat) (s : State), s.up = true → s.clv.st = .run → s.clv.rotEn = true → s.clv.offline = slice.val → s.clv.dwellLen ≤ s.clv.dwell + 1 → offRes ≤ 2 → gainRes ≤ 5 → clvSaturated offset gain = false →
      exec (.cloveDwellEnd slice offset gain offRes gainRes) s = .next ((s.onClv fun c => { c with trims := c.trims.set slice (clamp (-2000) 2000 offset, clamp (-20000) 20000 gain) }).onClv fun c => { c with dwellDue := some true })) ∧
    (∀ (slice : Fin 5) (offset : Int) (gain : Int) (offRes : Nat) (gainRes : Nat) (s : State), s.up = true → s.clv.st = .run → s.clv.rotEn = true → s.clv.offline = slice.val → s.clv.dwellLen ≤ s.clv.dwell + 1 → (clvSaturated offset gain = true ∨ (2 < offRes ∨ 5 < gainRes) ∧ 4 * s.clv.dwellLen ≤ s.clv.dwell + 1) →
      exec (.cloveDwellEnd slice offset gain offRes gainRes) s = .next ((s.onClv fun c => { c with trims := c.trims.set slice (clamp (-2000) 2000 offset, clamp (-20000) 20000 gain) }).onClv fun c => { c with dwellDue := some false })) ∧
    (∀ (slice : Fin 5) (offset : Int) (gain : Int) (offRes : Nat) (gainRes : Nat) (s : State), s.up = true → s.clv.st = .run → s.clv.rotEn = true → s.clv.offline = slice.val → s.clv.dwellLen ≤ s.clv.dwell + 1 → clvSaturated offset gain = false → (2 < offRes ∨ 5 < gainRes) → s.clv.dwell + 1 < 4 * s.clv.dwellLen →
      exec (.cloveDwellEnd slice offset gain offRes gainRes) s = .next ((s.onClv fun c => { c with trims := c.trims.set slice (clamp (-2000) 2000 offset, clamp (-20000) 20000 gain) }))) ∧
    (∀ (res : List Int) (s : State), s.up = true → s.clv.st.runs = true → s.clv.xstep = some 0 → s.clv.injStep = none →
      s.clv.xclk + s.clv.xleft < s.clkBoundary + 160 → ∃ t,
        exec (.cloveCheckStep res) s = .next t ∧
        (∀ k < 5, t.clv.checkBad.get k = if checkFails (res.getD k 0) then s.clv.checkBad.get k + 1 else 0) ∧
        t.clv.suspects = (if s.clv.st = .fallback then [] else (List.range 4).filter fun k => 2 ≤ t.clv.checkBad.get k) ∧
        t.clv.failDue = decide (2 ≤ t.clv.checkBad.get 4) ∧
        t.tick = s.tick ∧ t.conv = s.conv ∧ t.cl = s.cl ∧ t.nut = s.nut ∧ t.sett = s.sett ∧ t.cmd = s.cmd ∧ t.pwr = s.pwr) ∧
    (∀ (res : List ConvOut) (s : State), s.up = true → s.clv.st.runs = true → s.clv.xstep = some 1 → s.clv.injStep = none →
      s.clv.xclk + s.clv.xleft < s.clkBoundary + 160 → ∃ t,
        exec (.cloveSupervisorSteps res) s = .next t ∧ t.clv.supNew.length = 11 ∧
        t.conv = s.conv ∧ t.cl = s.cl ∧ t.nut = s.nut ∧ t.sett = s.sett ∧ t.cmd = s.cmd ∧ t.pwr = s.pwr) ∧
    (∀ (res : List ConvOut) (j : Nat) (s : State), s.up = true → s.clv.st.runs = true → s.clv.injStep = some j → s.clv.run.clk + seqClocks s.clv.inj < s.clkBoundary + 160 →
      exec (.cloveConversionEnd res) s = .next (injStepEnd j res s)) ∧
    (∀ (res : List ConvOut) (j : Nat) (s : State), s.up = true → s.clv.st.runs = true → s.clv.injStep = none → s.clv.xstep = none → s.clv.step = some j → s.clv.reg.clk + seqClocks s.clv.seq < s.clkBoundary + 160 →
      exec (.cloveConversionEnd res) s = .next (regStepEnd j res s)) ∧
    (∀ (s : State), s.up = true → s.clv.st.runs = true → s.clv.paceDue = true → s.clv.step = none → s.clv.injStep = none →
      exec .clovePaceStart s = .next (s.onClv fun c => c.scanFrom s.clkBoundary)) ∧
    (∀ (s : State), s.up = true → s.clv.st.runs = true → s.clv.paceDue = true → (s.clv.step ≠ none ∨ s.clv.injStep ≠ none) →
      exec .clovePaceStart s = .next (((s.onClv fun c => { c with paceDue := false }).count 9 2 0 1).clvFault 6)) ∧
    (∀ (rising : Bool) (sub : Nat) (s : State), s.up = true → s.clv.edge.testBit (if rising then 0 else 1) = true →
      exec (.extTrigEdge rising sub) s = .next (injTrigger 1 (s.atSub sub).now (s.atSub sub).clkNow (s.atSub sub))) ∧
    (∀ (rising : Bool) (sub : Nat) (s : State), s.up = true → s.clv.edge.testBit (if rising then 0 else 1) = false →
      exec (.extTrigEdge rising sub) s = .next (s.atSub sub)) ∧
    (∀ (srcs : BitVec 6) (s : State), s.up = true → (srcs &&& s.clv.trig).toNat &&& s.clv.srcMask ≠ 0 →
      exec (.cloveInjTrigger srcs) s = .next (injTrigger (4 * ((srcs &&& s.clv.trig).toNat &&& s.clv.srcMask)) (s.tick.tod + s.tick.sub / clockUnits * clockUnits) s.clkNow (s.onClv fun c => { c with trig := c.trig &&& ~~~srcs }))) ∧
    (∀ (s : State), s.up = true → s.clv.injDone = true →
      exec .cloveInjPost s = .next (s.onClv fun c => { c with injDue := true })) ∧
    (∀ (s : State), s.up = true →
      exec .monSyncEdge s = .next (syncArrives s.clkNow s)) ∧
    (∀ (s : State), s.up = true → s.clv.syncDue = true → s.clv.injStep = none →
      exec .cloveSyncDeferred s = .next (syncNow s.clv.syncAt s)) ∧
    (∀ (k : Fin 16) (s : State), s.up = true → (s.clv.det.get k.val).kind ≠ 0 →
      exec (.detectorPost k) s = .next (s.onDet k.val fun d => { d with go := true })) ∧
    (∀ (k : Fin 16) (s : State), s.up = true → s.fwRuns = true → (s.clv.bias.get k.val).en = true → (s.clv.bias.get k.val).target ≠ 0 →
      exec (.biasLoopUpdate k) s = .next (s.onBias k.val fun b => { b with due := true }))

/-- A write of PF0 changes what its register holds and a write of PF1 nothing; a read answers in rdata; a staging word and its written mark; GO stages a load that no check refuses, and zeroises the staging words either way; the flip is armed unless both masks are zero; a good download starts firmware and a bad one leaves its ERR code; the dump head, the pending bits with their windows, the first-source latch and the message queues follow the written bits. (R10, R11, R12, R13, R180, R182, R251, R370, R385, R387, R394, R404.) -/
def Obligations.RegisterAccessesComplete : Prop :=
    (∀ (addr : BitVec 26) (val : Word) (s : State), s.live = true →
      exec (.regWrite false addr val) s = .next (regWrite addr.toNat val s)) ∧
    (∀ (addr : BitVec 26) (val : Word) (s : State), s.live = true →
      exec (.regWrite true addr val) s = .next (s)) ∧
    (∀ (val : Word) (s : State), s.live = true →
      exec (.regWrite false 0x24 val) s = .next { s with cmd := { s.cmd with rstCause := s.cmd.rstCause &&& ~~~(val.setWidth 5) } }) ∧
    (∀ (k : Fin 4) (val : Word) (s : State), s.live = true →
      exec (.regWrite false (BitVec.ofNat 26 (0x30 + 4 * k.val)) val) s = .next { s with cmd := { s.cmd with scratch := s.cmd.scratch.set k val } }) ∧
    (∀ (pf1 : Bool) (addr : BitVec 26) (s : State), s.live = true →
      exec (.rsLowWordRead pf1 addr) s = .next (regRead pf1 addr.toNat s)) ∧
    (∀ (x : Fin 9) (val : Word) (s : State), s.up = true →
      exec (.nutKeyStageWrite x val) s = .next ({ s with nut := { s.nut with stage := ((s.nut.stage ++ List.replicate 9 0).take 9).set x val, wrMask := putBit s.nut.wrMask x true, stageTicks := 0 } })) ∧
    (∀ (val : Word) (s : State), s.up = true → flag val 31 = true → goResult s (fld val 12 0) (flag val 16) = 0 →
      exec (.nutKeyGo val) s = .next (let t := s.stage .sa (fld val 12 0) 6 (mkWord (dirOf (flag val 16)) :: s.nut.stage)
        clearStage { t with nut := { t.nut with result := 0, busyTill := s.now + 64 * nsUnits } })) ∧
    (∀ (val : Word) (r : Nat) (s : State), s.up = true → flag val 31 = true → goResult s (fld val 12 0) (flag val 16) = r → r ≠ 0 →
      exec (.nutKeyGo val) s = .next (clearStage { s with nut := { s.nut with result := r } })) ∧
    (∀ (val : Word) (img : DlImage) (s : State), s.live = true → s.cmd.boot = .waitPcie → flag val 0 = true → img.dmaErr = false → imageCheck (img.bytes.take s.cmd.dlLen.toNat) img.sigOk s.cmd = 0 →
      exec (.bootDlGo val img) s = .next (startImage 2 (img.bytes.take s.cmd.dlLen.toNat) s)) ∧
    (∀ (val : Word) (img : DlImage) (s : State), s.live = true → s.cmd.boot = .waitPcie → flag val 0 = true → img.dmaErr = false → imageCheck (img.bytes.take s.cmd.dlLen.toNat) img.sigOk s.cmd ≠ 0 →
      exec (.bootDlGo val img) s = .next (bootErr (imageCheck (img.bytes.take s.cmd.dlLen.toNat) img.sigOk s.cmd) s)) ∧
    (∀ (val : Word) (img : DlImage) (s : State), s.live = true → s.cmd.boot = .waitPcie → flag val 0 = true → img.dmaErr = true →
      exec (.bootDlGo val img) s = .next (bootErr 9 s)) ∧
    (∀ (val : Word) (s : State), s.up = true →
      exec (.eccFlipArm val) s = .next ({ s with ecc := { s.ecc with flipCtl := mkWord (bitAt (flag val 31 && (s.ecc.flipData != 0 || s.ecc.flipChk != 0)) 31 +
        bitAt (flag s.ecc.flipCtl 30 && !flag val 30) 30 + fld val 15 8 * 256 + bitAt (flag val 4) 4 + fld val 2 0) } })) ∧
    (∀ (val : Word) (s : State), s.up = true →
      exec (.cntDumpHeadWrite val) s = .next ({ s with cnt := { s.cnt with head := val.toNat } })) ∧
    (∀ (j : Fin 16) (val : Word) (s : State), s.live = true → ∃ f, exec (.fltPendClear j val) s = .next { s with flt := f } ∧
        (∀ b : Fin 32, val.getLsbD b = true → f.pend.getLsbD (32 * j.val + b.val) = false ∧ f.win.get (32 * j.val + b.val) = none) ∧
        (∀ n : Fin 512, (n.val / 32 = j.val → val.getLsbD (n.val % 32) = false) → f.pend.getLsbD n = s.flt.pend.getLsbD n ∧ f.win.get n = s.flt.win.get n) ∧
        f.cfg = s.flt.cfg ∧ f.esc = s.flt.esc ∧ f.broken = s.flt.broken ∧ f.msg = s.flt.msg ∧ f.first = s.flt.first) ∧
    (∀ (val : Word) (s : State), s.live = true →
      exec (.fltFirstClear val) s = .next ({ s with flt := { s.flt with first := s.flt.first && !flag val 31, ovf := s.flt.ovf && !flag val 31 && !flag val 30 } })) ∧
    (∀ (val : Word) (s : State), s.live = true → ∃ m, exec (.fltMsgPop val) s = .next { s with flt := { s.flt with msg := m } } ∧
        (∀ k : Fin 8, val.getLsbD k = true → (m.get k).q = (s.flt.msg.get k).q.drop 1 ∧ (m.get k).lost = (s.flt.msg.get k).lost) ∧
        (∀ k : Nat, (8 ≤ k ∨ val.getLsbD k = false) → m.get k = s.flt.msg.get k))

/-- Enabling starts an empty ring in RUN; disabling drains it; the tail and head doorbells move their pointers, and a value beyond the ring halts it; a fetch takes the packet at the head and puts its reply in flight; a packet of a bad length halts the ring; the reply is posted, or lost with a halt when its DMA fails; a late one is dropped and counted; after 1,250 ticks the engine answers TIMEOUT; a drained ring is OFF. (R347, R348, R349, R350, R351, R352, R357, R363, R366.) -/
def Obligations.RingEventsComplete : Prop :=
    (∀ (r : Fin 16) (val : Word) (s : State), s.live = true → flag val 31 = true → fld val 3 0 ≤ 10 → fld val 11 8 ≤ 10 → (s.ring r).en = false → (s.ring r).st ≠ .drain →
      exec (.ringEnable r val) s = .next (s.onRing r fun k => { k with en := true, irqEn := flag val 30, sqSize := fld val 3 0, cqSize := fld val 11 8, sqTail := 0, sqHead := 0, cqHead := 0, cqTail := 0, pass := 0, cqUsed := 0, st := .run, halt := 0, age := 0 })) ∧
    (∀ (r : Fin 16) (val : Word) (s : State), s.live = true → flag val 31 = false → fld val 3 0 ≤ 10 → fld val 11 8 ≤ 10 → (s.ring r).en = true → ((s.ring r).st ≠ .halted ∨ (s.ring r).flight.isSome = true) →
      exec (.ringDisable r val) s = .next (s.onRing r fun k => { k with en := false, irqEn := flag val 30, st := .drain, halt := 0 })) ∧
    (∀ (r : Fin 16) (val : Word) (s : State), s.live = true → flag val 31 = false → fld val 3 0 ≤ 10 → fld val 11 8 ≤ 10 → (s.ring r).en = false →
      exec (.ringDisable r val) s = .next (s.onRing r fun k => { k with irqEn := flag val 30, sqSize := fld val 3 0, cqSize := fld val 11 8 })) ∧
    (∀ (r : Fin 16) (val : Word) (s : State), s.live = true → fld val 15 0 < slotsOf (s.ring r).sqSize →
      exec (.sqTailDoorbell r val) s = .next (s.onRing r fun k => { k with sqTail := fld val 15 0 })) ∧
    (∀ (r : Fin 16) (val : Word) (s : State), s.live = true → (s.ring r).en = true → (s.ring r).st = .run → slotsOf (s.ring r).sqSize ≤ fld val 15 0 →
      exec (.sqTailDoorbell r val) s = .next (ringHalt r 2 (s.onRing r fun k => { k with sqTail := fld val 15 0 }))) ∧
    (∀ (r : Fin 16) (val : Word) (s : State), s.live = true → ((s.ring r).en = false ∨ (s.ring r).st ≠ .run) →
      exec (.sqTailDoorbell r val) s = .next (s.onRing r fun k => { k with sqTail := fld val 15 0 })) ∧
    (∀ (r : Fin 16) (val : Word) (s : State), s.live = true → fld val 15 0 < slotsOf (s.ring r).cqSize → (fld val 15 0 + slotsOf (s.ring r).cqSize - (s.ring r).cqHead) % slotsOf (s.ring r).cqSize ≤ (s.ring r).cqUsed →
      exec (.cqHeadDoorbell r val) s = .next (s.onRing r fun q => { q with cqHead := fld val 15 0, cqUsed := q.cqUsed - (fld val 15 0 + slotsOf (s.ring r).cqSize - (s.ring r).cqHead) % slotsOf (s.ring r).cqSize })) ∧
    (∀ (r : Fin 16) (val : Word) (s : State), s.live = true → (s.ring r).en = true → (s.ring r).st = .run → (slotsOf (s.ring r).cqSize ≤ fld val 15 0 ∨ (s.ring r).cqUsed < (fld val 15 0 + slotsOf (s.ring r).cqSize - (s.ring r).cqHead) % slotsOf (s.ring r).cqSize) →
      exec (.cqHeadDoorbell r val) s = .next (ringHalt r 2 (s.onRing r fun k => { k with cqHead := fld val 15 0 }))) ∧
    (∀ (r : Fin 16) (val : Word) (s : State), s.live = true → ((s.ring r).en = false ∨ (s.ring r).st ≠ .run) → (slotsOf (s.ring r).cqSize ≤ fld val 15 0 ∨ (s.ring r).cqUsed < (fld val 15 0 + slotsOf (s.ring r).cqSize - (s.ring r).cqHead) % slotsOf (s.ring r).cqSize) →
      exec (.cqHeadDoorbell r val) s = .next (s.onRing r fun k => { k with cqHead := fld val 15 0 })) ∧
    (∀ (r : Fin 16) (p : Packet) (s : State), s.fwRuns = true → nextRing s = some r.val → p.dmaErr = false →
        fld (wd p.hdr 1) 11 0 ≤ 4064 → fld (wd p.hdr 1) 11 0 % 4 = 0 → cmdSlots (fld (wd p.hdr 1) 11 0) < slotsOf (s.ring r).sqSize →
        cmdSlots (fld (wd p.hdr 1) 11 0) ≤ (s.ring r).sqUsed →
        exec (.cmdFetch r.castSucc p) s = .next
          (let t := State.onRing { s with cmd := { s.cmd with turn := r.val } } r fun k =>
             { k with sqHead := (k.sqHead + cmdSlots (fld (wd p.hdr 1) 11 0)) % slotsOf k.sqSize }
           let u := packetRead r.castSucc (bytesOf ((p.hdr ++ List.replicate 8 0).take 8 ++ packetWords p.hdr p.params)) t
           let q := packetOf u.2.1
           let h : CmdHdr := { ring := r.castSucc, tag := (wd q.1 0).extractLsb' 16 16, async := flag (wd q.1 1) 20 }
           if u.1 then inFlight r.castSucc p.fwRuns (fld (wd q.1 0) 15 0) h (runPacket h q.1 q.2) u.2.2
           else cpRestart (inFlight r.castSucc false (fld (wd q.1 0) 15 0) h (runPacket h q.1 q.2) u.2.2))) ∧
    (∀ (c : RemoteCmd) (cs : List RemoteCmd) (p : Packet) (s : State), s.fwRuns = true → nextRing s = some 16 → s.cmd.remote = c :: cs →
        exec (.cmdFetch 16 p) s = .next (fetched 16 p.fwRuns c.bytes runRemote { s with cmd := { s.cmd with turn := 16 } })) ∧
    (∀ (r : Fin 16) (p : Packet) (s : State), s.fwRuns = true → nextRing s = some r.val → p.dmaErr = true →
        exec (.cmdFetch r.castSucc p) s = .next (ringHalt r 3 { s with cmd := { s.cmd with turn := r.val } })) ∧
    (∀ (r : Fin 16) (p : Packet) (s : State), s.fwRuns = true → nextRing s = some r.val → p.dmaErr = false →
        (4064 < fld (wd p.hdr 1) 11 0 ∨ fld (wd p.hdr 1) 11 0 % 4 ≠ 0) →
        exec (.cmdFetch r.castSucc p) s = .next (ringHalt r 1 { s with cmd := { s.cmd with turn := r.val } })) ∧
    (∀ (r : Fin 16) (rep : Reply) (s : State), s.fwRuns = true → (s.ring r).late = 0 → (s.ring r).flight = some rep → (s.ring r).noFw = false → rep.cap = none →
        (s.ring r).room (replySlots rep) = true → exec (.fwReply r.castSucc false) s = .next (postReply r rep s)) ∧
    (∀ (r : Fin 16) (rep : Reply) (s : State), s.fwRuns = true → (s.ring r).late = 0 → (s.ring r).flight = some rep → (s.ring r).noFw = false → rep.cap = none →
        exec (.fwReply r.castSucc true) s = .next (ringHalt r 3 (s.onRing r fun k => { k with flight := none }))) ∧
    (∀ (r : Fin 17) (e : Bool) (s : State), s.fwRuns = true → 0 < (s.ring r).late →
        exec (.fwReply r e) s = .next ((s.onRing r fun k => { k with late := k.late - 1 }).count 10 0 r 1)) ∧
    (∀ (r : Fin 16) (rep : Reply) (s : State), s.live = true → (s.ring r).flight = some rep → (1250 ≤ (s.ring r).age ∨ s.tick.running = false) → (s.ring r).room 1 = true →
        exec (.cmdTimeout r.castSucc) s = .next (State.signal ((postReply r { opcode := rep.opcode, tag := rep.tag, status := .timeout, srcDev := s.cmd.id, tick := s.tick32 } s).onRing r
          fun q => { q with late := if (s.ring r).noFw then q.late else q.late + 1 }) 273)) ∧
    (∀ (r : Fin 16) (s : State), s.live = true → (s.ring r).st = .drain → (s.ring r).flight = none →
      exec (.ringDrainDone r) s = .next (s.onRing r fun k => { k with st := .off }))

/-- The boot ROM starts the better valid slot or waits for a download; a valid table is accepted and a bad one rejected with its index; an operation that has ended settles its entry; a restart stops all rings and firmware then runs again with twice the watchdog period; a log entry takes the next SEQ; the watchdog sends its message; each PCIe reset clears its side; a lost PCIe link is reported; an unmasked pending vector is sent. (R346, R359, R360, R368, R371, R372, R373, R374, R375, R376, R377, R389.) -/
def Obligations.FirmwareEventsComplete : Prop :=
    (∀ (x : BootIn) (s : State), s.live = true → s.cmd.boot = .rom → s.cmd.bootSel = true →
      exec (.firmwareStart x) s = .next (toBoot .waitPcie s)) ∧
    (∀ (x : BootIn) (s : State), s.live = true → s.cmd.boot = .rom → s.cmd.bootSel = false → imageCheck s.cmd.slotA x.sigA s.cmd = 0 → imageCheck s.cmd.slotB x.sigB s.cmd ≠ 0 →
      exec (.firmwareStart x) s = .next (startImage 0 s.cmd.slotA { s with cmd := { s.cmd with sigA := x.sigA, sigB := x.sigB } })) ∧
    (∀ (x : BootIn) (s : State), s.live = true → s.cmd.boot = .rom → s.cmd.bootSel = false → imageCheck s.cmd.slotA x.sigA s.cmd ≠ 0 → imageCheck s.cmd.slotB x.sigB s.cmd = 0 →
      exec (.firmwareStart x) s = .next (startImage 1 s.cmd.slotB { s with cmd := { s.cmd with sigA := x.sigA, sigB := x.sigB } })) ∧
    (∀ (x : BootIn) (e : Nat) (s : State), s.live = true → s.cmd.boot = .rom → s.cmd.bootSel = false → imageCheck s.cmd.slotA x.sigA s.cmd ≠ 0 → imageCheck s.cmd.slotB x.sigB s.cmd = e → e ≠ 0 →
      exec (.firmwareStart x) s = .next (toBoot .waitPcie (bootErr e { s with cmd := { s.cmd with sigA := x.sigA, sigB := x.sigB } }))) ∧
    (∀ (vout : List (Fin 8 × BitVec 8)) (s : State) (rs : List (Nat × List Word)) (gs : List Staged),
        let all := if s.cmd.fromHost then s.cmd.table else s.cmd.flashTable
        let bs := all.take (tableLen all)
        s.fwRuns = true → s.cmd.acceptDue = true → s.cmd.accepted = false → tableOutsideOk all s.cmd.fromHost = true →
        takeRecords vout (tableLen bs / 4 + 1) 0 (bs.drop (128 + 8 * tableSpareCnt bs)) s = .ok (rs, gs) →
        exec (.bootTableAccept vout) s = .next (acceptTable bs rs gs vout s)) ∧
    (∀ (vout : List (Fin 8 × BitVec 8)) (s : State) (n : Nat),
        let all := if s.cmd.fromHost then s.cmd.table else s.cmd.flashTable
        let bs := all.take (tableLen all)
        s.fwRuns = true → s.cmd.acceptDue = true → s.cmd.accepted = false → tableOutsideOk all s.cmd.fromHost = true →
        takeRecords vout (tableLen bs / 4 + 1) 0 (bs.drop (128 + 8 * tableSpareCnt bs)) s = .error n →
        exec (.bootTableAccept vout) s = .next (rejectTable 8 n s)) ∧
    (∀ (vout : List (Fin 8 × BitVec 8)) (s : State), s.fwRuns = true → s.cmd.acceptDue = true → s.cmd.accepted = false →
        tableOutsideOk (if s.cmd.fromHost then s.cmd.table else s.cmd.flashTable) s.cmd.fromHost = false →
        exec (.bootTableAccept vout) s = .next (rejectTable 7 0xFFFF s)) ∧
    (∀ (r : Fin 17) (tag : BitVec 16) (sigOk : Bool) (e : ResEnt) (s : State), s.fwRuns = true → (s.cmd.store.find? fun e => e.ring == r.val && e.tag == tag && !e.done) = some e → e.kind = .plain → e.final.cap = none →
      exec (.asyncComplete r tag sigOk) s = .next (settle r tag e.final.status [] s)) ∧
    (∀ (r : Fin 17) (tag : BitVec 16) (sigOk : Bool) (e : ResEnt) (m : Nat) (s : State), s.fwRuns = true → (s.cmd.store.find? fun e => e.ring == r.val && e.tag == tag && !e.done) = some e → e.kind = .fwActivate m →
      exec (.asyncComplete r tag sigOk) s = .next (activate r tag m sigOk s)) ∧
    (∀ (s : State), s.live = true →
      exec .cpRestart s = .next (cpRestart s)) ∧
    (∀ (s : State), s.live = true → s.cmd.boot = .restart → s.cmd.accepted = true →
      exec .cpRestartDone s = .next (let t := toBoot .run { s with cmd := { s.cmd with acceptDue := false, fromHost := false } }
        bootLog 3 { t with flt := { t.flt with wdLeft := some (2 * 125 * t.flt.wd) } })) ∧
    (∀ (e : LogEnt) (q : List LogEnt) (s : State), s.live = true → s.cmd.logQ = e :: q → s.cmd.log.length < 4096 →
      exec .logEntryWrite s = .next ((sramWrite 6 (logWord s.cmd.logSeq) 4 { s with cmd := { s.cmd with logQ := q, log := s.cmd.log ++ [{ e with seq := s.cmd.logSeq, carried := e.tick != s.tick.num }], logSeq := (s.cmd.logSeq + 1) % 2 ^ 32 } }).when
          (decide (fld s.cmd.logCfg 7 4 ≤ e.cls)) fun s => s.raiseVec false 17)) ∧
    (∀ (n : Nat) (s : State), s.live = true → s.flt.wdLeft = some n → (n = 0 ∨ s.tick.running = false) →
      exec .watchdogExpire s = .next (State.send (s.onFlt fun f => { f with wdLeft := some (125 * f.wd) }) 3 1 0 s.flt.wd)) ∧
    (∀ (s : State), s.live = true →
      exec .perst s = .next (hostSideReset { s with pci := { s.pci with mask0 := BitVec.allOnes 32, mask1 := 3, pend0 := 0, pend1 := 0, snap0 := .const none, snap1 := .const none } })) ∧
    (∀ (s : State), s.live = true →
      exec .pcieHotReset s = .next (hostSideReset { s with pci := { s.pci with mask0 := BitVec.allOnes 32, mask1 := 3, pend0 := 0, pend1 := 0, snap0 := .const none, snap1 := .const none } })) ∧
    (∀ (s : State), s.live = true →
      exec .flrPf0 s = .next (hostSideReset { s with pci := { s.pci with mask0 := BitVec.allOnes 32, pend0 := 0, snap0 := .const none } })) ∧
    (∀ (s : State), s.live = true →
      exec .flrPf1 s = .next ({ s with pci := { s.pci with mask1 := 3, pend1 := 0, snap1 := .const none } })) ∧
    (∀ (s : State), s.live = true → s.pci.link = true →
      exec .pcieLinkDown s = .next (State.send (State.emit { s with pci := { s.pci with link := false } } .linkDown) 4 1 0 0)) ∧
    (∀ (vec : Fin 32) (s : State), s.live = true → s.pci.pend0.getLsbD vec = true →
      exec (.msiXUnmask false vec) s = .next (State.emit { s with pci := { s.pci with mask0 := putBit s.pci.mask0 vec false, pend0 := putBit s.pci.pend0 vec false } } (.irq false vec))) ∧
    (∀ (vec : Fin 32) (s : State), s.live = true → s.pci.pend0.getLsbD vec = false →
      exec (.msiXUnmask false vec) s = .next ({ s with pci := { s.pci with mask0 := putBit s.pci.mask0 vec false, pend0 := putBit s.pci.pend0 vec false } }))

/-- At a boundary the two groups of steps of R28 run in order; the carry fault of a unit in a run is signalled; a raise sets its pending bit and reacts, an equal rail also raises FS288 once, and counts the reference edges it was seen at; a message is queued or lost, and raises its messenger; a window that ends takes the action; a finished dump leaves with its SEQ, and a failed one stops dumping. (R20, R28, R30, R380, R381, R383, R385, R386, R403, R405.) -/
def Obligations.FaultAndDumpEventsComplete : Prop :=
    (∀ (x : TickIn) (s : State), s.up = true → s.tick.running = true → s.tick.stopDue = false → (boundaryApply x s).inP3 = false →
      exec (.tickBoundary x) s = .next (boundaryRest (postTick (boundaryApply x s)))) ∧
    (∀ (x : TickIn) (s : State), s.up = true → s.tick.running = true → s.tick.stopDue = false → (boundaryApply x s).inP3 = true →
      exec (.tickBoundary x) s = .next (boundaryApply x s)) ∧
    (∀ (x : TickIn) (s : State), s.live = true → s.tick.stopDue = true →
      exec (.tickBoundary x) s = .next ({ s with tick := { s.tick with running := false, stopDue := false } })) ∧
    (∀ (u : Fin 6) (s : State), s.live = true → s.tick.carryDue.getLsbD u = true →
      exec (.carryFault u) s = .next (State.signal { s with tick := { s.tick with carryDue := putBit s.tick.carryDue u false } } (8 + u))) ∧
    (∀ (l : Fin 2) (f : RxFrame) (s : State), mayDecode s l = true → exec (.lineFrameDecode l f) s = .next
        (let lay := layout (rxRaw (s.ds l)) (s.fr l).rxRate
         let dec := decodeFrame l f s
         let rx := addPs f.stamp (-((s.ml l).rxPath : Int))
         let t := if dec.2.good && marRuns s then takeTT l f.hdr rx dec.1 else dec.1
         let weak := (innerDecode (s.fr l) f lay.cws).unconv != 0 || badBlocks lay f != 0
         let ns := sendTick ((rx : Int) - delayOf t l)
         (t.when (delayValid t l && ns.2) fun s => s.settFault 2).each dec.2.cells fun s c => deliverCell l ns.1 weak c.2 (capture l l dec.2.num c.1 weak c.2 s))) ∧
    (∀ (fs : Fin 512) (s : State), s.live = true → fsAssigned fs = true → fs.val ≠ 176 → fs.val ≠ 208 →
      exec (.faultRaise fs) s = .next (raiseFs fs 0 [0, 0, 0] (s.onFlt fun f => { f with raised := f.raised.erase fs.val }))) ∧
    (∀ (x : RailPair) (s : State), s.live = true → fsAssigned x.fs = true → 8 ≤ x.fs.val → s.flt.broken.getLsbD x.fs = true →
      exec (.dualRailBroken x) s = .next ((raiseFs x.fs 0 [0, 0, 0] (s.onFlt fun f => { f with broken := putBit f.broken x.fs true, rails := f.rails.erase x.fs.val })).count 0xB 0 x.fs (if s.flt.rails.contains x.fs.val then 12 else x.more))) ∧
    (∀ (x : RailPair) (s : State), s.live = true → fsAssigned x.fs = true → 8 ≤ x.fs.val → s.flt.broken.getLsbD x.fs = false →
      exec (.dualRailBroken x) s = .next ((raiseFs x.fs 0 [0, 0, 0] (raiseFs 288 0 [0, 0, 0] (s.onFlt fun f => { f with broken := putBit f.broken x.fs true, rails := f.rails.erase x.fs.val }))).count 0xB 0 x.fs (if s.flt.rails.contains x.fs.val then 12 else x.more))) ∧
    (∀ (m : Msg) (s : State), s.live = true → (s.flt.msg.get m.m).q.length < 16 →
      exec (.messengerMessage m true) s = .next (raiseFs m.m m.kind.toNat [mkWord m.addr.toNat, mkWord (m.addr.toNat / 2 ^ 32), m.data]
        (s.onFlt fun f => { f with sent := f.sent.erase m, msg := f.msg.set m.m { q := (f.msg.get m.m).q ++ [(m, (f.msg.get m.m).lost)], lost := false } }))) ∧
    (∀ (m : Msg) (s : State), s.live = true → 16 ≤ (s.flt.msg.get m.m).q.length →
      exec (.messengerMessage m true) s = .next (raiseFs m.m m.kind.toNat [mkWord m.addr.toNat, mkWord (m.addr.toNat / 2 ^ 32), m.data]
        ((s.onFlt fun f => { f with sent := f.sent.erase m, msg := f.msg.set m.m { f.msg.get m.m with lost := true } }).count 0xB 1 m.m 1))) ∧
    (∀ (fs : Fin 512) (n : Nat) (s : State), s.live = true → s.flt.win.get fs = some n → (n = 0 ∨ s.tick.running = false) → s.flt.pend.getLsbD fs = true →
      exec (.faultWindowExpire fs) s = .next (takeAction fs false (s.onFlt fun f => { f with win := f.win.set fs none }))) ∧
    (∀ (ws : List Word) (s : State), s.up = true → s.cnt.buf = some ws →
      exec .dumpWriteDone s = .next (State.emit { s with cnt := { s.cnt with buf := none, dump := .idle, seq := (s.cnt.seq + 1) % 2 ^ 32 } } (.dump s.cnt.seq s.cnt.carried ((ws.set 1 (mkWord s.cnt.seq)).set 9 (mkWord (bitAt s.cnt.carried 0)))))) ∧
    (∀ (s : State), s.up = true → s.cnt.buf.isSome = true →
      exec .dumpDmaError s = .next (State.signal { s with cnt := { s.cnt with buf := none, dump := .stopped, dumpCfg := s.cnt.dumpCfg.set 0 (wd s.cnt.dumpCfg 0 &&& 0x7FFFFFFF) } } 297))

/-- An answered poll leaves the values read and the checks on them, three silent tries raise REG_FAULT; an alert reads every status word; a stuck bus is reported; each second the hottest mean and the AVS target; each step moves the output 5 mV; a lost supervisor clears T_HOT; a step of an entry to P2 is marked for the boundary that runs it; an exit from P3 restarts the blocks in P2, and one without power good returns to P3. (R415, R417, R418, R419, R421, R422, R424, R425, R437.) -/
def Obligations.PowerEventsComplete : Prop :=
    (∀ (r : Fin 8) (p : RegPoll) (rest : List (Option RegPoll)) (s : State), s.live = true → (s.pwr.reg.get r).en = true → ((s.pwr.reg.get r).poll ≤ (s.pwr.reg.get r).age ∨ s.tick.running = false) →
      exec (.pmbusPoll r (some p :: rest)) s = .next (powerCheck (avsCheck r ((takeStatus r p.status ((s.onReg r fun g => { g with age := 0 }).onReg r fun g => { g with vout := p.vout % 2 ^ 16, iout := p.iout % 2 ^ 16, temp := p.temp })).count 12 2 r p.iout)))) ∧
    (∀ (r : Fin 8) (s : State), s.live = true → (s.pwr.reg.get r).en = true → ((s.pwr.reg.get r).poll ≤ (s.pwr.reg.get r).age ∨ s.tick.running = false) →
      exec (.pmbusPoll r [none, none, none]) s = .next ((((s.onReg r fun g => { g with age := 0 }).count 12 0 r 3).count 12 1 r 2).pwrFault0 (2 * r + 1))) ∧
    (∀ (status : List (Fin 8 × BitVec 16)) (s : State), s.live = true →
      exec (.pmbAlert status) s = .next (((s.onPwr fun p => { p with alert := true }).pwrFault1 8).each (status.filter fun x => (s.pwr.reg.get x.1).en) fun s x => takeStatus x.1 x.2 s)) ∧
    (∀ (s : State), s.live = true →
      exec .pmbusStuck s = .next ((s.pwrFault1 5).emit .pmbusClear)) ∧
    (∀ (s : State) (sum : Int) (n : Nat), s.up = true → s.pwr.avsDue = true → s.pwr.supLost = false → hottest s.pwr = some (sum, n) →
        (avsReg s).isSome = true → s.cmd.accepted = true → avsRaw s.pwr sum n ≤ 850000 →
        exec .avsUpdate s = .next { s with pwr := { s.pwr with avsDue := false, tSum := .const (0, 0), tHot := some (roundDiv (10 * sum) (4096 * n)), avs := avsTarget (avsRaw s.pwr sum n) } }) ∧
    (∀ (r : Nat) (s : State), s.live = true → avsReg s = some r → s.cmd.accepted = true → s.pwr.vcmd < s.pwr.avs → (125 ≤ s.pwr.avsTicks ∨ s.tick.running = false) →
      exec .avsStep s = .next (let v := min s.pwr.avs (s.pwr.vcmd + 5)
        ((s.onPwr fun p => { p with vcmd := v, avsTicks := 0 }).count 12 0x20 0 1).emit (.pmbus r 0x21 (linear16 v (s.pwr.reg.get r).expo)))) ∧
    (∀ (r : Nat) (s : State), s.live = true → avsReg s = some r → s.cmd.accepted = true → s.pwr.avs < s.pwr.vcmd → (125 ≤ s.pwr.avsTicks ∨ s.tick.running = false) →
      exec .avsStep s = .next (let v := max s.pwr.avs (s.pwr.vcmd - 5)
        ((s.onPwr fun p => { p with vcmd := v, avsTicks := 0 }).count 12 0x20 0 1).emit (.pmbus r 0x21 (linear16 v (s.pwr.reg.get r).expo)))) ∧
    (∀ (s : State), s.up = true → 5000 ≤ s.pwr.supAge → s.pwr.supLost = false →
      exec .supervisorLost s = .next ((s.onPwr fun p => { p with supLost := true, tHot := none }).pwrFault1 9)) ∧
    (∀ (s : State), s.up = true → s.pwr.p2Step.isSome = true →
      exec .p2EntryStep s = .next (s.onPwr fun p => { p with p2Due := true })) ∧
    (∀ (s : State), s.live = true → s.pwr.p3Exit = true →
      exec .p3ExitPowerGood s = .next (enterPwr .p2 ((p3Restart s).onPwr fun p => { p with p3Exit := false, replay := true, supAge := 0, avsDue := false }))) ∧
    (∀ (s : State), s.live = true → s.pwr.p3Exit = true →
      exec .p3ExitTimeout s = .next ((s.onPwr fun p => { p with p3Exit := false, changing := false, target := .p3 }).pwrFault1 6))

/-- A device reset puts every block in its reset state and sets the bit of its cause; power on and a lost rail clear the scratch words and set the cause 0b00001; the pin resets from 1 us and is ignored below 200 ns; at the release the straps are taken, and the ROM applies the spare records of a good table; each TAP instruction selects its data register, captures its value (IDCODE 0x5321658B) and drives or floats the balls; TRST resets the TAP alone. (R413, R414, R428, R429, R430, R431, R432.) -/
def Obligations.ResetEventsComplete : Prop :=
    (∀ (s : State), 
      exec .powerOnReset s = .next ({ resetBlocks s with cmd := { (resetBlocks s).cmd with rstCause := 1, scratch := .const 0 }, rst := { held := true } })) ∧
    (∀ (s : State), 
      exec .railPowerDown s = .next ({ resetBlocks s with cmd := { (resetBlocks s).cmd with rstCause := 1, scratch := .const 0 }, rst := { held := true, unpowered := true } })) ∧
    (∀ (ns : Nat) (s : State), s.rst.unpowered = false → 1000 ≤ ns →
      exec (.resetPin ns) s = .next ({ resetBlocks s with cmd := { (resetBlocks s).cmd with rstCause := putBit s.cmd.rstCause 1 true } })) ∧
    (∀ (ns : Nat) (s : State), ns < 200 →
      exec (.resetPin ns) s = .next (s)) ∧
    (∀ (s : State), s.live = true → s.cmd.resetDue = true →
      exec .cmdDeviceReset s = .next ({ resetBlocks s with cmd := { (resetBlocks s).cmd with rstCause := putBit s.cmd.rstCause 2 true } })) ∧
    (∀ (st : Straps) (s : State), s.rst.held = true → st.testMode = false →
      exec (.resetRelease st) s = .next (romSpares { s with cmd := { s.cmd with id := st.id.val, bootSel := st.bootSel }, rst := { s.rst with held := false, unpowered := false, testMode := false } })) ∧
    (∀ (s : State), s.rst.unpowered = false →
      exec .trst s = .next ({ s with rst := { s.rst with ir := .idcode, dr := 1, tdo := 0x5321658B, drive := false, highz := false } })) ∧
    (∀ (s : State), s.rst.unpowered = false →
      exec .jtagIdcode s = .next ({ s with rst := { s.rst with ir := .idcode, dr := 1, tdo := 0x5321658B, drive := false, highz := false } })) ∧
    (∀ (s : State), s.rst.unpowered = false →
      exec .jtagExtest s = .next ({ s with rst := { s.rst with ir := .extest, dr := 2, tdo := s.rst.bsr, drive := true, highz := false } })) ∧
    (∀ (pins : Nat) (shift : Nat) (s : State), s.rst.unpowered = false →
      exec (.jtagSamplePreload pins shift) s = .next ({ s with rst := { s.rst with ir := .sample, dr := 2, tdo := pins, drive := false, highz := false, captured := pins, bsr := shift } })) ∧
    (∀ (s : State), s.rst.unpowered = false →
      exec .jtagHighz s = .next ({ s with rst := { s.rst with ir := .highz, dr := 0, tdo := 0, drive := false, highz := true } })) ∧
    (∀ (s : State), s.rst.unpowered = false →
      exec .jtagClamp s = .next ({ s with rst := { s.rst with ir := .clamp, dr := 0, tdo := 0, drive := true, highz := false } })) ∧
    (∀ (code : BitVec 8) (s : State), s.rst.unpowered = false → 4 < code.toNat → code ≠ 0x10 →
      exec (.jtagBypass code) s = .next ({ s with rst := { s.rst with ir := .bypass, dr := 0, tdo := 0, drive := false, highz := false } })) ∧
    (∀ (s : State), s.rst.unpowered = false →
      exec .jtagDevReset s = .next (let t := resetBlocks { s with rst := { s.rst with ir := .devReset, dr := 0, tdo := 0, drive := false, highz := false } }
        { t with cmd := { t.cmd with rstCause := putBit s.cmd.rstCause 4 true } }))

/-- For every command c and state s: a step of s with c at the front of its queue is exec c on s with the rest of the queue. With an empty queue a step answers the same state, which is the model's choice (log entry 1). (R351.) -/
def Obligations.StepRunsFrontCommand : Prop :=
    (∀ (c : Instr) (q : List Instr) (s : State), s.pending = c :: q → step s = exec c { s with pending := q }) ∧
    (∀ (s : State), s.pending = [] → step s = .next s)

/-- For every ring command whose opcode is outside the 0x00xx family: while firmware runs and the boot configuration table has not been accepted (and its own records are not being taken), the command answers BUSY and changes nothing else. (R356.) -/
def Obligations.BusyUntilTableAccepted : Prop :=
    ∀ (c : Instr) (op : Nat) (h : CmdHdr) (ws : List Word) (s : State), ringOp c = some (op, h, ws) → 
      s.fwRuns = true → s.cmd.accepted = false → s.cmd.accepting = false → op / 256 ≠ 0 → exec c s = .next (withReply (mkReply s op h .busy 0 []) s)

/-- For every ring command: while firmware does not run, executing it changes nothing. The model takes a ring command as the one that firmware has fetched (log entry 1). (R351.) -/
def Obligations.NothingRunsWithoutFirmware : Prop :=
    ∀ (c : Instr) (op : Nat) (h : CmdHdr) (ws : List Word) (s : State), ringOp c = some (op, h, ws) → s.fwRuns = false → exec c s = .next s

/-- For every ring command outside the 0x00xx, 0x09xx and 0x0Bxx families: while firmware runs in P3 with the table accepted, the command answers BUSY and changes nothing else. (R424.) -/
def Obligations.PowerStateP3TurnsCommandsAway : Prop :=
    ∀ (c : Instr) (op : Nat) (h : CmdHdr) (ws : List Word) (s : State), ringOp c = some (op, h, ws) → 
      s.fwRuns = true → s.cmd.accepted = true → s.inP3 = true → op / 256 ≠ 0 → op / 256 ≠ 9 → op / 256 ≠ 0xB → exec c s = .next (withReply (mkReply s op h .busy 0 []) s)

/-- For every ring command but SYS_RESULT_GET (which answers with the status of another command): while firmware runs it leaves a reply of its own opcode and tag, and when the status of that reply is not OK the state is unchanged but for the reply. (R354.) -/
def Obligations.OtherStatusChangesNothing : Prop :=
    ∀ (c : Instr) (op : Nat) (h : CmdHdr) (ws : List Word) (s : State), ringOp c = some (op, h, ws) → 
      op ≠ 2 → s.fwRuns = true → ∃ rep t, exec c s = .next t ∧ t.cmd.last = some rep ∧ rep.opcode = op ∧ rep.tag = h.tag ∧ (rep.status ≠ .ok → t = withReply rep s)

/-- For every ring command but SYS_RESULT_GET, sent asynchronously while nothing turns it away: a status other than OK that it gets when sent synchronously it gets too; otherwise a held entry with its tag gives BAD_ARG, a full store NO_RESOURCE, and with room an entry of its ring and tag is taken and the reply is OK with ACCEPTED and no data. (R359.) -/
def Obligations.LongRunningChecksInOrder : Prop :=
    ∀ (c : Instr) (op : Nat) (h : CmdHdr) (ws : List Word) (s : State), ringOp c = some (op, h, ws) → 
      op ≠ 2 → Runs op s → h.async = true → ∀ (sy : State) (rep : Reply) (d : Instr),
        ringOp d = some (op, { h with async := false }, ws) → exec d s = .next sy → sy.cmd.last = some rep → ∃ t, exec c s = .next t ∧
        (rep.status ≠ .ok → t = withReply rep s) ∧
        (rep.status = .ok → (∃ e ∈ s.cmd.store, e.ring = h.ring.val ∧ e.tag = h.tag) → t = withReply (mkReply s op h .badArg 0 []) s) ∧
        (rep.status = .ok → (∀ e ∈ s.cmd.store, e.ring = h.ring.val → e.tag ≠ h.tag) → 64 ≤ s.cmd.store.length → t = withReply (mkReply s op h .noResource 0 []) s) ∧
        (rep.status = .ok → HasRoom h s → t.cmd.last = some { mkReply s op h .ok 0 [] with accepted := true } ∧ ∃ e ∈ t.cmd.store, e.ring = h.ring.val ∧ e.tag = h.tag ∧ e.done = false)

/-- For every ring command that only stages items (stagingOps): whatever it answers, the state after it differs from the state before it in the staged items, to which new ones are appended, in the reply, the log entries awaiting their write and the result store, and in nothing else. (R26.) -/
def Obligations.StagingChangesNothingInForce : Prop :=
    ∀ (c : Instr) (op : Nat) (h : CmdHdr) (ws : List Word) (s t : State), ringOp c = some (op, h, ws) → op ∈ stagingOps → exec c s = .next t →
      sameInForce s t ∧ ∃ new, t.tick.staged = s.tick.staged ++ new

/-- For every ring command that only reads (readingOps): whatever it answers, the state after it differs from the state before it in the reply, the log entries awaiting their write and the result store, and in nothing else; it stages nothing. (R26.) -/
def Obligations.ReadingCommandsChangeNothing : Prop :=
    ∀ (c : Instr) (op : Nat) (h : CmdHdr) (ws : List Word) (s t : State), ringOp c = some (op, h, ws) → op ∈ readingOps → exec c s = .next t →
      sameInForce s t ∧ t.tick.staged = s.tick.staged

/-- For each of these commands, with parameters that its own checks accept: when its item is already staged, it answers BUSY and changes nothing else. (R27.) -/
def Obligations.StagedItemIsBusy : Prop :=
  ∀ (h : CmdHdr) (ws : List Word) (s : State),
    (h.async = false → Runs 0x0981 s → ws.length = 1 → onlyBits (wd ws 0) 0xF3 → (s.isStaged .logCfg (0) = true) →
      exec (.logCfg h ws) s = .next (withReply (mkReply s 0x0981 h .busy 0 []) s)) ∧
    (h.async = false → Runs 0x0101 s → ws.length = 9 → onlyBits (wd ws 0) 1 → opticsValid (ws.drop 1) → (s.cv (fld (wd ws 0) 0 0)).tx = .off → (s.cv (fld (wd ws 0) 0 0)).rx = .off → (s.isStaged .convEntry (fld (wd ws 0) 0 0) = true) →
      exec (.lineConvSet h ws) s = .next (withReply (mkReply s 0x0101 h .busy 0 []) s)) ∧
    (h.async = false → Runs 0x0105 s → ws.length = 1 → onlyBits (wd ws 0) 0x17F31 → fld (wd ws 0) 14 8 ≤ 64 → flag (wd ws 0) 16 = true → (s.cv (fld (wd ws 0) 0 0)).rx = .off → (s.isStaged .slice (adcQual (fld (wd ws 0) 0 0) (fld (wd ws 0) 5 4)) = true) →
      exec (.lineConvRetire h ws) s = .next (withReply (mkReply s 0x0105 h .busy 0 []) s)) ∧
    (h.async = false → Runs 0x0110 s → ws.length = 2 → onlyBits (wd ws 0) 0xFF03F301 → fld (wd ws 0) 31 24 ≤ 17 → 11 ≤ fld (wd ws 0) 17 12 → fld (wd ws 0) 17 12 ≤ 40 → 2197 + 128 * fld (wd ws 0) 31 24 ≤ 200 * fld (wd ws 0) 17 12 → onlyBits (wd ws 1) 0xFFFF → 32 ≤ fld (wd ws 1) 15 0 → fld (wd ws 1) 15 0 ≤ 1024 → (s.cv (fld (wd ws 0) 0 0)).tx = .off → (s.cv (fld (wd ws 0) 0 0)).rx = .off → (s.isStaged .scCfg (fld (wd ws 0) 0 0) = true) →
      exec (.lineScCfg h ws) s = .next (withReply (mkReply s 0x0110 h .busy 0 []) s)) ∧
    (h.async = false → Runs 0x0113 s → ws.length = 4 → onlyBits (wd ws 0) 0xFFFF3F01 → 1 ≤ fld (wd ws 0) 31 21 → fld (wd ws 0) 31 21 ≤ 1024 → 1 ≤ fld (wd ws 0) 13 8 → -320000 ≤ sword (wd ws 1) → sword (wd ws 1) ≤ 320000 → 1000 ≤ (wd ws 2).toNat → (wd ws 2).toNat ≤ 320000 → onlyBits (wd ws 3) 0xFFFF → fld (wd ws 3) 15 8 < fld (wd ws 3) 7 0 → (s.isStaged .rxCfg (fld (wd ws 0) 0 0) = true) →
      exec (.lineRxCfg h ws) s = .next (withReply (mkReply s 0x0113 h .busy 0 []) s)) ∧
    (h.async = false → Runs 0x0114 s → ws.length = 1 → onlyBits (wd ws 0) 1 → ((s.ds (fld (wd ws 0) 0 0)).rxd = .scAcq ∨ (s.ds (fld (wd ws 0) 0 0)).rxd = .run) → (s.isStaged .rxAcq (fld (wd ws 0) 0 0) = true) →
      exec (.lineRxAcq h ws) s = .next (withReply (mkReply s 0x0114 h .busy 0 []) s)) ∧
    (h.async = false → Runs 0x0120 s → ws.length = 1 → onlyBits (wd ws 0) 0xFFFFFFF1 → 1024 ≤ fld (wd ws 0) 31 16 → fld (wd ws 0) 31 16 ≤ 11520 → 4 ≤ fld (wd ws 0) 15 8 → fld (wd ws 0) 15 8 ≤ 32 → (fld (wd ws 0) 5 4 = (s.fr (fld (wd ws 0) 0 0)).txRate ∨ (s.cv (fld (wd ws 0) 0 0)).tx = .off) → (fld (wd ws 0) 7 6 = (s.fr (fld (wd ws 0) 0 0)).rxRate ∨ (s.cv (fld (wd ws 0) 0 0)).rx = .off) → (s.isStaged .fecCfg (fld (wd ws 0) 0 0) = true) →
      exec (.lineFecCfg h ws) s = .next (withReply (mkReply s 0x0120 h .busy 0 []) s)) ∧
    (h.async = false → Runs 0x0121 s → ws.length = 17 → onlyBits (wd ws 0) 1 → (s.isStaged .hdrMsg (fld (wd ws 0) 0 0) = true) →
      exec (.lineHdrMsg h ws) s = .next (withReply (mkReply s 0x0121 h .busy 0 []) s)) ∧
    (h.async = false → Runs 0x0202 s → ws.length = 1 → onlyBits (wd ws 0) 0x7F0F0C73 → fld (wd ws 0) 11 10 ≠ 3 → fld (wd ws 0) 6 4 ≤ 4 → laneOwner s (fld (wd ws 0) 19 16) = none → laneClaimed s (fld (wd ws 0) 19 16) = false → (s.isStaged .laneRaw (fld (wd ws 0) 19 16) = true) →
      exec (.clientLaneRaw h ws) s = .next (withReply (mkReply s 0x0202 h .busy 0 []) s)) ∧
    (h.async = false → Runs 0x0212 s → ws.length = 1 → onlyBits (wd ws 0) 0x8F8F → (s.isStaged .refSel (0) = true) →
      exec (.clientRefSel h ws) s = .next (withReply (mkReply s 0x0212 h .busy 0 []) s)) ∧
    (h.async = false → Runs 0x0213 s → ws.length = 3 → onlyBits (wd ws 0) 7 → -20000 ≤ sword (wd ws 1) → sword (wd ws 1) ≤ 20000 → -20000 ≤ sword (wd ws 2) → sword (wd ws 2) ≤ 20000 → (s.isStaged .tsAdj (fld (wd ws 0) 2 0) = true) →
      exec (.clientTsAdj h ws) s = .next (withReply (mkReply s 0x0213 h .busy 0 []) s)) ∧
    (∀ k : BitVec 64, k = keyWord (fld (wd ws 0) 2 0) (fld (wd ws 0) 26 24) ((wd ws 1).toNat + 2 ^ 32 * fld (wd ws 2) 15 0) → h.async = false → Runs 0x0220 s → ws.length = 4 → onlyBits (wd ws 0) 0x87000007 → 1 ≤ fld (wd ws 0) 26 24 → fld (wd ws 0) 26 24 ≤ 5 → (wd ws 1).toNat < 2 ^ keyWidth (fld (wd ws 0) 26 24) → (wd ws 1).toNat + 2 ^ 32 * fld (wd ws 2) 15 0 < 2 ^ keyWidth (fld (wd ws 0) 26 24) → onlyBits (wd ws 2) 0xFFFF → onlyBits (wd ws 3) 0x1FFF → flag (wd ws 0) 31 = false → ((keyLookup s k).isSome = true ∨ bucketLoad s (bucketOf k) < 4) → (s.isStaged .key (k.toNat) = true) →
      exec (.classKeySet h ws) s = .next (withReply (mkReply s 0x0220 h .busy 0 []) s)) ∧
    (h.async = false → Runs 0x0311 s → ws.length = 1 → onlyBits (wd ws 0) 0x1FFF → s.nut.zeroising = none → (s.sa (fld (wd ws 0) 12 0)).txNxt.valid = true → slotNow s (fld (wd ws 0) 12 0) = false → (s.isStaged .sa (fld (wd ws 0) 12 0) = true) →
      exec (.saActivate h ws) s = .next (withReply (mkReply s 0x0311 h .busy 0 []) s)) ∧
    (h.async = false → Runs 0x0312 s → ws.length = 1 → onlyBits (wd ws 0) 0x1FFF → s.nut.zeroising = none → (s.sa (fld (wd ws 0) 12 0)).rxNxt.valid = true → (s.isStaged .sa (fld (wd ws 0) 12 0) = true) →
      exec (.saRxPromote h ws) s = .next (withReply (mkReply s 0x0312 h .busy 0 []) s)) ∧
    (h.async = false → Runs 0x0313 s → ws.length = 1 → onlyBits (wd ws 0) 0x31FFF → fld (wd ws 0) 17 16 ≠ 3 → s.nut.zeroising = none → (s.isStaged .sa (fld (wd ws 0) 12 0) = true) →
      exec (.saKeyClear h ws) s = .next (withReply (mkReply s 0x0313 h .busy 0 []) s)) ∧
    (h.async = false → Runs 0x0315 s → ws.length = 3 → onlyBits (wd ws 0) 0x1FFF → s.nut.zeroising = none → (s.sa (fld (wd ws 0) 12 0)).txCur.valid = true → (s.sa (fld (wd ws 0) 12 0)).txCur.pn < ofLohi (wd ws 1) (wd ws 2) → (s.isStaged .sa (fld (wd ws 0) 12 0) = true) →
      exec (.saPnAdvance h ws) s = .next (withReply (mkReply s 0x0315 h .busy 0 []) s)) ∧
    (∀ b, h.async = false → Runs 0x0403 s → ws.length = 3 → onlyBits (wd ws 0) 0xC0011FFF → fld (wd ws 0) 31 30 = 0 → (s.mg (fld (wd ws 0) 12 0)).ringU = 0 → onlyBits (wd ws 1) 0x3FFFFF → fld (wd ws 1) 21 0 ≠ 0 → onlyBits (wd ws 2) 0xFFFF → 3 ≤ fld (wd ws 2) 15 0 → (s.sett.st = .ready ∨ s.cmd.accepting = true) → (s.isStaged .merge (fld (wd ws 0) 12 0) = true) → firstFit s (fld (wd ws 1) 21 0) = some b →
      exec (.settMergeSet h ws) s = .next (withReply (mkReply s 0x0403 h .busy 0 []) s)) ∧
    (h.async = false → Runs 0x0406 s → ws.length = 5 → onlyBits (wd ws 0) 0x1FFF000F → fld (wd ws 0) 2 0 ≤ 5 → onlyBits (wd ws 1) 0x01FF0003 → fld (wd ws 1) 1 0 ≤ 2 → onlyBits (wd ws 4) 0x07FFFFFF → (s.sett.st = .ready ∨ s.cmd.accepting = true) → (s.sett.cap = .idle ∨ s.sett.cap = .done) → (s.isStaged .capCfg (0) = true) →
      exec (.settCapCfg h ws) s = .next (withReply (mkReply s 0x0406 h .busy 0 []) s)) ∧
    (h.async = false → Runs 0x0407 s → ws.length = 1 → onlyBits (wd ws 0) 3 → (s.sett.st = .ready ∨ s.cmd.accepting = true) → (s.isStaged .capArm (0) = true) →
      exec (.settCapArm h ws) s = .next (withReply (mkReply s 0x0407 h .busy 0 []) s)) ∧
    (h.async = false → Runs 0x0501 s → ws.length = 1 → onlyBits (wd ws 0) 0x8001FFFF → 14 ≤ fld (wd ws 0) 16 0 → fld (wd ws 0) 16 0 ≤ 86400 → (s.isStaged .scrub (0) = true) →
      exec (.eccScrubCfg h ws) s = .next (withReply (mkReply s 0x0501 h .busy 0 []) s)) ∧
    (h.async = false → Runs 0x0601 s → ws.length = 4 → onlyBits (wd ws 0) 0xF07F0007 → (refPps ws = true → fld (wd ws 0) 2 0 < 4) → bwOk (refPps ws) (refBw ws) = true → (refPrio ws = 0 → s.tim.mode = 1 ∨ s.tim.mode = 2 → fld (wd ws 0) 2 0 ≠ s.tim.selRef) → onlyBits (wd ws 1) 0x3FFFFFFF → (refPps ws = true ∨ 4 ≤ fld (wd ws 0) 2 0 ∨ 1000 ≤ refNom ws ∧ refNom ws ≤ 800000000) → -1000000 ≤ refDelay ws → refDelay ws ≤ 1000000 → onlyBits (wd ws 3) 0x3FFF → 1 ≤ fld (wd ws 3) 13 0 → fld (wd ws 3) 13 0 ≤ 10000 → (s.isStaged .ref (fld (wd ws 0) 2 0) = true) →
      exec (.timRefCfg h ws) s = .next (withReply (mkReply s 0x0601 h .busy 0 []) s)) ∧
    (∀ t : TimS, t = { s.tim with cfg := ws } → h.async = false → Runs 0x0602 s → ws.length = 4 → onlyBits (wd ws 0) 0xC70003FF → 1 ≤ t.wtr → t.wtr ≤ 600 → (t.mode = 1 ∨ t.mode = 2 → (s.ref t.selRef).prio ≠ 0) → 10 ≤ fld (wd ws 1) 31 16 → fld (wd ws 1) 31 16 ≤ 5000 → 10 ≤ fld (wd ws 1) 15 0 → fld (wd ws 1) 15 0 ≤ 10000 → 10 ≤ t.window → t.window ≤ 900 → t.guardSec ≤ 120 → onlyBits (wd ws 3) 0xFFFF01FF → 1 ≤ t.slewRate → t.slewRate ≤ 10000 → t.xoPpm ≤ 50 → (s.cmd.accepting = true ∨ t.ocxoEn = s.tim.ocxoEn) → (s.isStaged .dpll (0) = true) →
      exec (.timDpllCfg h ws) s = .next (withReply (mkReply s 0x0602 h .busy 0 []) s)) ∧
    (h.async = false → Runs 0x0603 s → ws.length = 7 → timeSetBad s ws = none → (fld (wd ws 0) 1 0 = 2 ∨ 8 ≤ s.tim.sel ∨ (s.ref s.tim.sel).pps = false ∨ (s.tim.st ≠ .acquire ∧ s.tim.st ≠ .locked ∧ s.tim.st ≠ .switch)) → (s.isStaged .timeSet (0) = true) →
      exec (.timeSet h ws) s = .next (withReply (mkReply s 0x0603 h .busy 0 []) s)) ∧
    (h.async = false → Runs 0x0604 s → ws.length = 5 → onlyBits (wd ws 0) 0xE0070007 → fld (wd ws 0) 2 0 ≤ 5 → outSquelch ws ≠ 3 → (fld (wd ws 0) 2 0 < 4 ∨ outSrc ws ≤ 4 ∧ (outSrc ws = 0 ∨ (s.ref (outSrc ws - 1)).pps = true)) → -62500000000 ≤ signed 37 (fld (wd ws 1) 31 0 + 2 ^ 32 * fld (wd ws 2) 4 0) → signed 37 (fld (wd ws 1) 31 0 + 2 ^ 32 * fld (wd ws 2) 4 0) ≤ 62500000000 → onlyBits (wd ws 2) 0xFFFFF01F → 1 ≤ fld (wd ws 2) 31 12 → fld (wd ws 2) 31 12 ≤ 500000 → onlyBits (wd ws 3) 0xFFFFFF → onlyBits (wd ws 4) 0xFFFFFF → fld (wd ws 4) 23 0 ≠ 0 → 1000 * fld (wd ws 4) 23 0 ≤ 1600000000 * fld (wd ws 3) 23 0 → 1600000000 * fld (wd ws 3) 23 0 ≤ 800000000 * fld (wd ws 4) 23 0 → (s.isStaged .out (fld (wd ws 0) 2 0) = true) →
      exec (.timOutCfg h ws) s = .next (withReply (mkReply s 0x0604 h .busy 0 []) s)) ∧
    (h.async = false → Runs 0x0C02 s → ws.length = 2 → (sword (wd ws 0)).natAbs ≤ 100000 → (sword (wd ws 1)).natAbs ≤ 100000 → (s.isStaged .chainAsym (0) = true) →
      exec (.chainAsym h ws) s = .next (withReply (mkReply s 0x0C02 h .busy 0 []) s)) ∧
    (∀ m : MartenL, m = { cfg := ws } → h.async = false → Runs 0x0701 s → ws.length = 7 → onlyBits (wd ws 0) 0x1FFFF031 → 125 ≤ m.ttAvg → m.ttAvg ≤ 125000 → m.mode ≠ 3 → (m.fTx = 0 ∨ 185000000 ≤ m.fTx ∧ m.fTx ≤ 200000000) → onlyBits (wd ws 2) 0x3FFFF → m.txPath ≤ 200000 → onlyBits (wd ws 3) 0x3FFFF → m.rxPath ≤ 200000 → m.asymCal.natAbs ≤ 100000000 → onlyBits (wd ws 5) 0xFFFF0FFF → 16 ≤ m.driftAvg → onlyBits (wd ws 6) 0xFFFF → 10 ≤ m.jumpThr → m.jumpThr ≤ 10000 → (s.isStaged .martenLine (fld (wd ws 0) 0 0) = true) →
      exec (.martenLineCfg h ws) s = .next (withReply (mkReply s 0x0701 h .busy 0 []) s)) ∧
    (h.async = false → Runs 0x0702 s → (ws.length = 2 ∨ ws.length = 4) → onlyBits (wd ws 0) 1 → (sword (wd ws 1)).natAbs ≤ 100000000 → (ws.getD 2 0x80000000 = 0x80000000 ↔ ws.getD 3 0x80000000 = 0x80000000) → ((s.ml (fld (wd ws 0) 0 0)).mode = 2 ∨ ws.getD 2 0x80000000 = 0x80000000) → (s.isStaged .martenLine (fld (wd ws 0) 0 0) = true) →
      exec (.martenAsymCal h ws) s = .next (withReply (mkReply s 0x0702 h .busy 0 []) s)) ∧
    (h.async = false → Runs 0x0703 s → ws.length = 1 → onlyBits (wd ws 0) 0x00FF0107 → steerSrc (wd ws 0) ≤ 5 → deadBand (wd ws 0) ≤ 100 → (s.isStaged .steer (0) = true) →
      exec (.martenSteer h ws) s = .next (withReply (mkReply s 0x0703 h .busy 0 []) s)) ∧
    (h.async = false → Runs 0x0704 s → ws.length = 1 → onlyBits (wd ws 0) 0xFCFF3307 → -7 ≤ sfld (wd ws 0) 31 28 → sfld (wd ws 0) 31 28 ≤ 0 → fld (wd ws 0) 27 26 ≠ 3 → fld (wd ws 0) 13 12 ≤ 1 → (s.isStaged .ptp (fld (wd ws 0) 2 0) = true) →
      exec (.martenPtpCfg h ws) s = .next (withReply (mkReply s 0x0704 h .busy 0 []) s)) ∧
    (∀ m : MartenL, m = { mc := ws } → h.async = false → Runs 0x0705 s → ws.length = 2 → onlyBits (wd ws 0) 0x00FFFF31 → 10 ≤ m.capMargin → m.capMargin ≤ 200 → (m.role = 0 ∨ (s.ds (fld (wd ws 0) 0 0)).mcEn = true ∧ (s.ml (fld (wd ws 0) 0 0)).role = 0) → 1 ≤ m.mcAvg → m.mcAvg ≤ 1024 → 8 ≤ m.period → m.period ≤ 12500 → (m.role = 3 → (s.cv (fld (wd ws 0) 0 0)).tx = .off) → (s.isStaged .mc (fld (wd ws 0) 0 0) = true) →
      exec (.mcCfg h ws) s = .next (withReply (mkReply s 0x0705 h .busy 0 []) s)) ∧
    (h.async = false → Runs 0x0801 s → ws.length = 1 → onlyBits (wd ws 0) 0x31F → (s.isStaged .chan (fld (wd ws 0) 4 0) = true) →
      exec (.cloveChanCfg h ws) s = .next (withReply (mkReply s 0x0801 h .busy 0 []) s)) ∧
    (h.async = false → Runs 0x0802 s → ws.length = 10 → seqOk ws → (s.isStaged .seq (fld (wd ws 0) 31 31) = true) →
      exec (.cloveSeqSet h ws) s = .next (withReply (mkReply s 0x0802 h .busy 0 []) s)) ∧
    (h.async = false → Runs 0x0805 s → ws.length = 3 → onlyBits (wd ws 0) 0xFFFFFF3F → fld (wd ws 0) 31 16 ≠ 0 → fld (wd ws 0) 13 8 < 48 → onlyBits (wd ws 1) 0x0FFFFFFF → onlyBits (wd ws 2) 0x00FFFFFF → (s.isStaged .det (fld (wd ws 0) 3 0) = true) →
      exec (.cloveDetCfg h ws) s = .next (withReply (mkReply s 0x0805 h .busy 0 []) s)) ∧
    (h.async = false → Runs 0x0806 s → ws.length = 1 → onlyBits (wd ws 0) 0x1FF30FFF → fld (wd ws 0) 17 16 ≠ 3 → (s.isStaged .tdac (0) = true) →
      exec (.cloveTdac h ws) s = .next (withReply (mkReply s 0x0806 h .busy 0 []) s)) ∧
    (h.async = false → Runs 0x0807 s → ws.length = 6 → biasOk ws → (s.isStaged .bias (fld (wd ws 0) 3 0) = true) →
      exec (.cloveBiasCfg h ws) s = .next (withReply (mkReply s 0x0807 h .busy 0 []) s)) ∧
    (h.async = false → Runs 0x0808 s → ws.length = 1 → onlyBits (wd ws 0) 0xFFFF000F → (s.clv.bias.get (fld (wd ws 0) 3 0)).min ≤ fld (wd ws 0) 31 16 → fld (wd ws 0) 31 16 ≤ (s.clv.bias.get (fld (wd ws 0) 3 0)).max → (s.clv.bias.get (fld (wd ws 0) 3 0)).target = 0 → (s.isStaged .bias (fld (wd ws 0) 3 0) = true) →
      exec (.cloveBiasSet h ws) s = .next (withReply (mkReply s 0x0808 h .busy 0 []) s)) ∧
    (h.async = false → Runs 0x0809 s → ws.length = 1 → onlyBits (wd ws 0) 0x800F3FFF → 125 ≤ fld (wd ws 0) 13 0 → fld (wd ws 0) 13 0 ≤ 12500 → (s.isStaged .cloveCal (0) = true) →
      exec (.cloveCalCfg h ws) s = .next (withReply (mkReply s 0x0809 h .busy 0 []) s)) ∧
    (∀ c : CntS, c = { dumpCfg := ws } → h.async = false → Runs 0x0A04 s → ws.length = 5 → onlyBits (wd ws 0) 0x80FF0000 → 2 ≤ c.nbuf → onlyBits (wd ws 1) 0x00FFFFFF → 16 ≤ c.period → onlyBits (wd ws 2) 0x1FFF0FFF → 1 ≤ c.count → c.count ≤ 4096 → c.first + c.count ≤ 4096 → fld (wd ws 3) 11 0 = 0 → (s.isStaged .dumpCfg (0) = true) →
      exec (.cntDumpCfg h ws) s = .next (withReply (mkReply s 0x0A04 h .busy 0 []) s)) ∧
    (h.async = false → Runs 0x0B01 s → ws.length = 1 → onlyBits (wd ws 0) 0x13 → s.pwr.changing = false → (pwrOf (fld (wd ws 0) 1 0) ≠ s.pwr.st ∨ pwrOf (fld (wd ws 0) 1 0) = .p1 ∧ fld (wd ws 0) 4 4 ≠ s.pwr.p1Line) → s.pwr.st ≠ .p3 → (s.isStaged .pwrState (0) = true) →
      exec (.pwrStateSet h ws) s = .next (withReply (mkReply s 0x0B01 h .busy 0 []) s)) ∧
    (h.async = false → Runs 0x0B03 s → ws.length = 1 → onlyBits (wd ws 0) 0xF → -5 ≤ sfld (wd ws 0) 3 0 → sfld (wd ws 0) 3 0 ≤ 5 → (s.isStaged .avs (0) = true) →
      exec (.pwrAvsCfg h ws) s = .next (withReply (mkReply s 0x0B03 h .busy 0 []) s)) ∧
    (h.async = false → Runs 0x0B04 s → ws.length = 2 → onlyBits (wd ws 0) 0x8000FFFF → 80 ≤ fld (wd ws 0) 7 0 → fld (wd ws 0) 7 0 ≤ 105 → 100 ≤ fld (wd ws 0) 15 8 → fld (wd ws 0) 15 8 ≤ 115 → onlyBits (wd ws 1) 0xFFFF → 100 ≤ fld (wd ws 1) 15 0 → fld (wd ws 1) 15 0 ≤ 1500 → (s.isStaged .policy (0) = true) →
      exec (.pwrPolicy h ws) s = .next (withReply (mkReply s 0x0B04 h .busy 0 []) s)) ∧
    (h.async = false → Runs 0x0B05 s → ws.length = 1 → onlyBits (wd ws 0) 0xF0F → (s.isStaged .pin (0) = true) →
      exec (.pinCfg h ws) s = .next (withReply (mkReply s 0x0B05 h .busy 0 []) s))

/-- The IDCODE has version 4 x (STEP - 1) + METAL with STEP 2 and METAL 1, the part 0x3216, the manufacturer 0x2C5 and bit 0 at 1, and reads 0x5321_658B; the JTAG instruction IDCODE selects the identification register, which then shifts that word out. (R8.) -/
def Obligations.IdcodeFields : Prop :=
    ((idcode.extractLsb' 28 4).toNat = 4 * (2 - 1) + 1) ∧
    ((idcode.extractLsb' 12 16).toNat = 0x3216) ∧
    ((idcode.extractLsb' 1 11).toNat = 0x2C5) ∧
    (idcode.getLsbD 0 = true) ∧
    (idcode = 0x5321658B) ∧
    (∀ (s : State), s.rst.unpowered = false → ∃ t, exec .jtagIdcode s = .next t ∧ t.rst.ir = .idcode ∧ t.rst.dr = 1 ∧ t.rst.tdo = 0x5321658B)

/-- While the device runs: a write by PF1 changes nothing; a read by PF1 of an address it does not reach answers 0 and changes nothing; a read of a plain register that it reaches answers that register; any read by PF1 changes nothing but the answer and its own snapshot. (R13.) -/
def Obligations.SecondFunctionChangesNothing : Prop :=
    (∀ (addr : BitVec 26) (val : Word) (s : State), s.live = true → exec (.regWrite true addr val) s = .next s) ∧
    (∀ (addr : BitVec 26) (s : State), s.live = true → pf0Only addr.toNat = true → exec (.rsLowWordRead true addr) s = .next { s with pci := { s.pci with rdata := 0 } }) ∧
    (∀ (addr : BitVec 26) (s : State), s.live = true → pf0Only addr.toNat = false → rsGroup s addr.toNat = none → exec (.rsLowWordRead true addr) s = .next { s with pci := { s.pci with rdata := regNow s addr.toNat } }) ∧
    (∀ (addr : BitVec 26) (s t : State), exec (.rsLowWordRead true addr) s = .next t → t = { s with pci := { s.pci with rdata := t.pci.rdata, snap1 := t.pci.snap1 } })

/-- For a function and a wide RS register of n words: a read of its lowest word answers that word and leaves every word of the register as it is now in the function's snapshot; a read of a higher word answers the word in the snapshot and changes nothing else; neither touches the snapshot of the other function. (R12.) -/
def Obligations.SnapshotHoldsTheWideRegister : Prop :=
    (∀ (pf1 : Bool) (addr : BitVec 26) (n : Nat) (s : State), s.live = true → (pf1 && pf0Only addr.toNat) = false → rsGroup s addr.toNat = some (addr.toNat % 0x100000, n) → 0 < n → ∃ t,
        exec (.rsLowWordRead pf1 addr) s = .next t ∧ t.pci.rdata = regNow s addr.toNat ∧
        (∀ k < n, (snapOf t pf1).get (addr.toNat + 4 * k) = some (regNow s (addr.toNat + 4 * k))) ∧ snapOf t (!pf1) = snapOf s (!pf1)) ∧
    (∀ (pf1 : Bool) (addr : BitVec 26) (lo n : Nat) (s : State), s.live = true → (pf1 && pf0Only addr.toNat) = false → rsGroup s addr.toNat = some (lo, n) → addr.toNat % 0x100000 ≠ lo →
        exec (.rsLowWordRead pf1 addr) s = .next { s with pci := { s.pci with rdata := ((snapOf s pf1).get addr.toNat).getD 0 } })

/-- A write of a staging word sets its bit of WR_MASK, leaves the other bits and starts the time over; each boundary counts a tick while a bit is set; after a GO, whatever its result, after 125 ticks, and at every reset every staging word and WR_MASK are 0. (R182.) -/
def Obligations.KeyStagingIsZeroised : Prop :=
    (∀ (x : Fin 9) (val : Word) (s t : State), s.up = true → exec (.nutKeyStageWrite x val) s = .next t →
        t.nut.wrMask.getLsbD x = true ∧ (∀ y : Fin 9, y ≠ x → t.nut.wrMask.getLsbD y = s.nut.wrMask.getLsbD y) ∧ t.nut.stageTicks = 0) ∧
    (∀ (val : Word) (s t : State), s.up = true → flag val 31 = true → exec (.nutKeyGo val) s = .next t → (∀ w ∈ t.nut.stage, w = 0) ∧ t.nut.wrMask = 0) ∧
    (∀ (s : State), s.nut.wrMask ≠ 0 → s.nut.stageTicks < 125 → (nutTick s).nut.stageTicks = s.nut.stageTicks + 1) ∧
    (∀ (s t : State), s.up = true → 125 ≤ s.nut.stageTicks → exec .keyStagingTimeout s = .next t → s.nut.wrMask ≠ 0 → (∀ w ∈ t.nut.stage, w = 0) ∧ t.nut.wrMask = 0) ∧
    (∀ (c : Instr) (s t : State), (c = .powerOnReset ∨ c = .railPowerDown ∨ c = .jtagDevReset ∧ s.rst.unpowered = false ∨ c = .cmdDeviceReset ∧ s.live = true ∧ s.cmd.resetDue = true ∨ (∃ ns, c = .resetPin ns ∧ 1000 ≤ ns ∧ s.rst.unpowered = false)) → exec c s = .next t → (∀ w ∈ t.nut.stage, w = 0) ∧ t.nut.wrMask = 0) ∧
    (∀ (s : State), nutReg s 0x1028 % 2 ^ 9 = s.nut.wrMask.toNat)

/-- At a boundary whose number is a multiple of PERIOD, with dumping on: a dump starts when SEQ - CNT_DUMP_HEAD is below NBUF and none is being written; otherwise it is skipped, takes no SEQ, counts DUMP_SKIP and raises FS296. The host's write of CNT_DUMP_HEAD frees the buffers before it. A dump still being written at a boundary is carried. (R404.) -/
def Obligations.DumpsNeedAFreeBuffer : Prop :=
    (∀ (s : State), s.cnt.dumpEn = true → (s.cnt.dump = .idle ∨ s.cnt.dump = .writing) → s.tick.num % max s.cnt.period 1 = 0 →
        s.cnt.buf = none → (s.cnt.seq + 2 ^ 32 - s.cnt.head) % 2 ^ 32 < s.cnt.nbuf →
        (dumpTick s).cnt.buf = some (dumpWords s.cnt) ∧ (dumpTick s).cnt.seq = s.cnt.seq) ∧
    (∀ (s : State), s.cnt.dumpEn = true → (s.cnt.dump = .idle ∨ s.cnt.dump = .writing) → s.tick.num % max s.cnt.period 1 = 0 →
        (s.cnt.buf.isSome = true ∨ s.cnt.nbuf ≤ (s.cnt.seq + 2 ^ 32 - s.cnt.head) % 2 ^ 32) →
        dumpTick s = State.signal (State.count { s with cnt := { s.cnt with skipped := s.cnt.skipped + 1 } } 13 0 0 1) 296 ∧
        (dumpTick s).cnt.buf = s.cnt.buf ∧ (dumpTick s).cnt.seq = s.cnt.seq) ∧
    (∀ (s : State), (s.cnt.dumpEn = false ∨ s.cnt.dump = .off ∨ s.cnt.dump = .stopped ∨ s.tick.num % max s.cnt.period 1 ≠ 0) → dumpTick s = s) ∧
    (∀ (val : Word) (s : State), s.up = true → exec (.cntDumpHeadWrite val) s = .next { s with cnt := { s.cnt with head := val.toNat } }) ∧
    (∀ (s : State), s.cnt.buf.isSome = true → 0 ∈ carriedUnits s)

/-- A raise of a source whose pending bit is 1 is counted and causes no further reaction. A raise of a FAULT source whose bit is 0 sets the bit, starts its window at its length, and is latched as the first source with the tick number when none is latched; otherwise the latch keeps its source and OVF is set. (R381, R385, R387.) -/
def Obligations.RaisesOfAPendingSource : Prop :=
    (∀ (fs : Fin 512) (s : State), s.live = true → fsRaises fs = true → s.flt.pend.getLsbD fs = true →
        exec (.faultRaise fs) s = .next (State.count { s with flt := { s.flt with raised := s.flt.raised.erase fs.val, pend := putBit s.flt.pend fs true } } 0xB 0 fs 1)) ∧
    (∀ (fs : Fin 512) (s : State), s.live = true → fsRaises fs = true → s.flt.pend.getLsbD fs = false → fld (s.flt.word fs) 1 0 = 2 → ∃ t,
        exec (.faultRaise fs) s = .next t ∧ t.flt.pend.getLsbD fs = true ∧ t.flt.win.get fs = some (s.flt.winUnits fs) ∧ t.flt.esc = s.flt.esc ∧ t.flt.first = true ∧
        (s.flt.first = false → t.flt.firstFs = fs.val ∧ t.flt.firstTick = s.tick.num ∧ t.flt.firstCls = 2 ∧ t.flt.ovf = s.flt.ovf) ∧
        (s.flt.first = true → t.flt.firstFs = s.flt.firstFs ∧ t.flt.firstTick = s.flt.firstTick ∧ t.flt.ovf = true))

/-- A vector that is masked sets its pending bit and sends nothing; an unmasked one is sent; unmasking a pending vector sends it and clears its bit. (R346.) -/
def Obligations.MaskedVectorWaits : Prop :=
    (∀ (v : Fin 32) (s : State), s.pci.mask0.getLsbD v = true → s.raiseVec false v = { s with pci := { s.pci with pend0 := putBit s.pci.pend0 v true } }) ∧
    (∀ (v : Fin 32) (s : State), s.pci.mask0.getLsbD v = false → s.raiseVec false v = s.emit (.irq false v)) ∧
    (∀ (v : Fin 32) (s t : State), s.live = true → s.pci.pend0.getLsbD v = true → exec (.msiXUnmask false v) s = .next t → t.out = .irq false v :: s.out ∧ t.pci.pend0.getLsbD v = false ∧ t.pci.mask0.getLsbD v = false)

/-- After a reset by the pin, by SYS_RESET or by the JTAG instruction the whole state is the reset state with the internal reset held, but for the fuses and the identity, flash contents, the straps, scratch words and reset causes, of which the bit of the source is set, and the fuse-map spares (the TAP has its own state). The queue, the record of what left the device and the counter of free values are the model's own and are kept (log entries 1 and 5). (R428, R430.) -/
def Obligations.DeviceResetRestoresReset : Prop :=
    (∀ (ns : Nat) (b : Nat) (s : State), b = 1 → 1000 ≤ ns → s.rst.unpowered = false → exec (.resetPin ns) s = .next { State.reset with
          pending := s.pending, out := s.out, free := s.free
          cmd := { State.reset.cmd with uid := s.cmd.uid, fusedSvn := s.cmd.fusedSvn, revoked := s.cmd.revoked, rstCause := putBit s.cmd.rstCause b true, scratch := s.cmd.scratch,
                                        slotA := s.cmd.slotA, slotB := s.cmd.slotB, flashTable := s.cmd.flashTable, sigA := s.cmd.sigA, sigB := s.cmd.sigB, id := s.cmd.id, bootSel := s.cmd.bootSel }
          ecc := { State.reset.ecc with tgt := fusedTargets s.ecc.tgt }
          pwr := { State.reset.pwr with vFuse := s.pwr.vFuse, kT := s.pwr.kT }
          tim := { State.reset.tim with xoActive := s.tim.xoActive }
          rst := { s.rst with held := true } }) ∧
    (∀ (b : Nat) (s : State), b = 2 → s.live = true → s.cmd.resetDue = true → exec .cmdDeviceReset s = .next { State.reset with
          pending := s.pending, out := s.out, free := s.free
          cmd := { State.reset.cmd with uid := s.cmd.uid, fusedSvn := s.cmd.fusedSvn, revoked := s.cmd.revoked, rstCause := putBit s.cmd.rstCause b true, scratch := s.cmd.scratch,
                                        slotA := s.cmd.slotA, slotB := s.cmd.slotB, flashTable := s.cmd.flashTable, sigA := s.cmd.sigA, sigB := s.cmd.sigB, id := s.cmd.id, bootSel := s.cmd.bootSel }
          ecc := { State.reset.ecc with tgt := fusedTargets s.ecc.tgt }
          pwr := { State.reset.pwr with vFuse := s.pwr.vFuse, kT := s.pwr.kT }
          tim := { State.reset.tim with xoActive := s.tim.xoActive }
          rst := { s.rst with held := true } }) ∧
    (∀ (b : Nat) (s : State), b = 4 → s.rst.unpowered = false → exec .jtagDevReset s = .next { State.reset with
          pending := s.pending, out := s.out, free := s.free
          cmd := { State.reset.cmd with uid := s.cmd.uid, fusedSvn := s.cmd.fusedSvn, revoked := s.cmd.revoked, rstCause := putBit s.cmd.rstCause b true, scratch := s.cmd.scratch,
                                        slotA := s.cmd.slotA, slotB := s.cmd.slotB, flashTable := s.cmd.flashTable, sigA := s.cmd.sigA, sigB := s.cmd.sigB, id := s.cmd.id, bootSel := s.cmd.bootSel }
          ecc := { State.reset.ecc with tgt := fusedTargets s.ecc.tgt }
          pwr := { State.reset.pwr with vFuse := s.pwr.vFuse, kT := s.pwr.kT }
          tim := { State.reset.tim with xoActive := s.tim.xoActive }
          rst := { s.rst with held := true, ir := .devReset, dr := 0, tdo := 0, drive := false, highz := false } })

/-- In the reset state the tick number, the time of day and ALIGNED are 0; no command waits and nothing is staged; both lines' converters and receivers are off; every ring is off and the boot state is ROM; no fault is pending; the power state is P0 with no change under way, MARGIN 0, no regulator enabled; the Sett is in TRAIN; the two stored memories are in canonical form, the event log is within its 4,096 entries and no boot table is half taken. (R19, R430.) -/
def Obligations.ResetStateOfTheDevice : Prop :=
    (State.reset.tick.num = 0 ∧ State.reset.tick.tod = 0 ∧ State.reset.tick.aligned = false ∧ State.reset.tick.staged = []) ∧
    (State.reset.pending = []) ∧
    (∀ l < 2, (State.reset.cv l).tx = .off ∧ (State.reset.cv l).rx = .off ∧ (State.reset.ds l).rxd = .off) ∧
    (∀ r < 16, (State.reset.ring r).en = false ∧ (State.reset.ring r).st = .off) ∧
    (State.reset.cmd.boot = .rom ∧ State.reset.cmd.accepted = false ∧ State.reset.cmd.store = []) ∧
    (State.reset.flt.pend = 0 ∧ State.reset.flt.first = false ∧ State.reset.flt.esc = 0) ∧
    (State.reset.pwr.st = .p0 ∧ State.reset.pwr.changing = false ∧ State.reset.pwr.margin = 0 ∧ regsOn State.reset = []) ∧
    (State.reset.sett.st = .train) ∧
    (State.reset.Inv)

/-- After a power-on reset and the release of reset the tick number and the time of day are 0 and ALIGNED is 0. A boundary that ends a tick that is not stretched adds one to the number, modulo 2^64, and one tick to the time of day, and leaves ALIGNED alone. (R18, R19.) -/
def Obligations.ReleaseOfResetBeginsTickZero : Prop :=
    (∀ (st : Straps) (s t u : State), exec .powerOnReset s = .next t → exec (.resetRelease st) t = .next u → u.tick.num = 0 ∧ u.tick.tod = 0 ∧ u.tick.aligned = false ∧ u.rst.held = false ∧ u.cmd.id = st.id.val) ∧
    (∀ (s : State), s.tick.stretched = false → (nextTick s).tick.num = (s.tick.num + 1) % 2 ^ 64 ∧ (nextTick s).tick.tod = s.tick.tod + tickUnits ∧ (nextTick s).tick.aligned = s.tick.aligned)

/-- While neither line sends, a change of the time of day by d at a boundary sets the time of day to the new value. When that is a whole number of ticks the tick has that number; otherwise the tick is stretched, and the boundary that ends it falls on a tick position, whose number is the time of day divided by the tick. (R20.) -/
def Obligations.StretchedTickEndsOnATick : Prop :=
    ∀ (d : Int) (s : State), anySends s = false → 0 ≤ (s.tick.tod : Int) + d → ((changeTime d s).tick.tod : Int) = s.tick.tod + d ∧
        ((changeTime d s).tick.tod % tickUnits = 0 → (changeTime d s).tick.num * tickUnits = (changeTime d s).tick.tod ∧ (changeTime d s).tick.stretched = false) ∧
        ((changeTime d s).tick.tod % tickUnits ≠ 0 → (changeTime d s).tick.stretched = true ∧
          ((changeTime d s).tick.num + 1 < 2 ^ 64 → (nextTick (changeTime d s)).tick.tod = (nextTick (changeTime d s)).tick.num * tickUnits ∧
            (changeTime d s).tick.tod + tickUnits ≤ (nextTick (changeTime d s)).tick.tod))

/-- For every data word with its own check field: unchanged it is delivered; with any one of its 64 data bits or 16 check bits inverted it is still delivered; with any two different bits of the 80 inverted it is delivered as poison. The check field XOR 0xFFFF, which marks a poisoned word, is delivered as poison. (R238, R239.) -/
def Obligations.CodeCorrectsOneBitDetectsTwo : Prop :=
    (∀ (d : BitVec 64), delivered d (checkOf d) = some d ∧ delivered d (checkOf d ^^^ 0xFFFF) = none) ∧
    (∀ (d : BitVec 64) (x : Fin 64), delivered (d ^^^ BitVec.ofNat 64 (2 ^ x.val)) (checkOf d) = some d) ∧
    (∀ (d : BitVec 64) (x : Fin 16), delivered d (checkOf d ^^^ BitVec.ofNat 16 (2 ^ x.val)) = some d) ∧
    (∀ (d : BitVec 64) (x y : Fin 64), x ≠ y → delivered (d ^^^ BitVec.ofNat 64 (2 ^ x.val) ^^^ BitVec.ofNat 64 (2 ^ y.val)) (checkOf d) = none) ∧
    (∀ (d : BitVec 64) (x y : Fin 16), x ≠ y → delivered d (checkOf d ^^^ BitVec.ofNat 16 (2 ^ x.val) ^^^ BitVec.ofNat 16 (2 ^ y.val)) = none) ∧
    (∀ (d : BitVec 64) (x : Fin 64) (y : Fin 16), delivered (d ^^^ BitVec.ofNat 64 (2 ^ x.val)) (checkOf d ^^^ BitVec.ofNat 16 (2 ^ y.val)) = none)

/-- An ECC_TEST_ACCESS that writes, with the flip mask not armed: the granule at its address holds the eight given words, each with its check field, and every other granule of the Sett holds what it held. (R208, R252.) -/
def Obligations.TestAccessWritesOneGranule : Prop :=
    ∀ (h : CmdHdr) (ws : List Word) (s t : State) (a : Nat), h.async = false → Runs 0x0504 s → ws.length = 19 → wd ws 0 = 1 → a = ofLohi (wd ws 1) (wd ws 2) → a % 64 = 0 →
        regionBase s 3 ≤ a → a < regionBase s 3 + regionSize s 3 → s.sett.st = .ready → s.sett.cap = .idle → flag s.ecc.flipCtl 31 = false → exec (.eccTestAccess h ws) s = .next t →
        granuleOf t (a / 64) = (granuleWords (ws.drop 3)).map (fun d => (d, checkOf d)) ∧ ∀ g, g ≠ a / 64 → granuleOf t g = granuleOf s g

/-- For every ring command other than ECC_TEST_ACCESS, which may write, and SETT_CAP_READ, whose reads poison words found uncorrectable: every granule of the Sett's memory holds after it what it held before. (R208, R252.) -/
def Obligations.RingCommandsKeepTheMemory : Prop :=
    ∀ (c : Instr) (op : Nat) (h : CmdHdr) (ws : List Word) (s t : State), ringOp c = some (op, h, ws) → op ≠ 0x0504 → op ≠ 0x0408 → exec c s = .next t →
      ∀ g, granuleOf t g = granuleOf s g

/-- For every key, initialisation vector and byte string: the counter mode of the cipher applied to its own output gives the string back, and it keeps the length. The algorithm is taken from the standard that the manual names (log entry 9). (R179.) -/
def Obligations.CounterModeUndoesItself : Prop :=
    (∀ (key iv : Nat) (bs : List Byte), gcmCrypt key iv (gcmCrypt key iv bs) = bs) ∧
    (∀ (key iv : Nat) (bs : List Byte), (gcmCrypt key iv bs).length = bs.length)

/-- For every command of the table and every state, exec answers a next state, never a fault or a refusal, and that state has the queue of the state before. (R354.) -/
def Obligations.EveryCommandCompletes : Prop :=
    ∀ (c : Instr) (s : State), ∃ t, exec c s = .next t ∧ t.pending = s.pending

/-- For every state and the next state of a step: the die identifier and the power fuses are the same, the fused security version is at least what it was, and every key that was revoked still is. (R6, R369.) -/
def Obligations.StepNeverGoesBackOnFuses : Prop :=
    ∀ (s t : State), step s = .next t → SameFuses s t

/-- For every state in which the Sett's memory and the error masks of the protected SRAM are in canonical form (keys strictly rising, no entry equal to what an unlisted place reads as), the event log holds at most 4,096 entries and no boot table is half taken: the same holds of the next state of a step. (R208, R240, R376.) -/
def Obligations.StepKeepsCanonicalForm : Prop :=
    ∀ (s t : State), s.Inv → step s = .next t → t.Inv
end

