-- ==== Sys2Proof/Laws/Commands.lean ====
section
/-! SUPPORT. What running a ring command comes to: one lemma for each outcome of its own rules, and lemmas that pass its checks. -/

namespace Sys2Proof.Machine

/-- No gate stands in the way of a command that runs (R356, R424). -/
theorem gate_of_runs {op : Nat} {s : State} (h : Runs op s) : gate s op = none := by
  obtain ⟨-, h1, h2⟩ := h
  have e : ∀ f : Nat, inFamily op f = decide (op / 256 = f) := fun _ => rfl
  unfold gate
  rw [if_neg, if_neg]
  · simp only [e, Bool.and_eq_true, Bool.not_eq_true', Bool.or_eq_false_iff, decide_eq_false_iff_not, not_and, not_not]
    rcases h2 with h2 | h2 | h2 | h2 <;> simp_all
  · simp only [e, Bool.and_eq_true, Bool.not_eq_true', decide_eq_false_iff_not, not_and, not_not]
    rcases h1 with h1 | h1 | h1 <;> simp_all

/-- A synchronous command whose rules are met commits. -/
theorem runCmd_done {op : Nat} {f : CmdHdr → List Word → State → CmdRes} {h : CmdHdr} {ws : List Word} {s t : State} {d : List Word}
    (hr : Runs op s) (ha : h.async = false) (hf : f h ws s = .done t d) : runCmd op f h ws s = committed op h s t d := by
  simp [runCmd, command, gate_of_runs hr, hr.1, hf, finish, ha, committed, withReply]

/-- A tag that is free and a store with room pass the checks of R359. -/
theorem asyncCheck_of_room {s : State} {h : CmdHdr} (hs : HasRoom h s) : asyncCheck s h = none := by
  unfold asyncCheck
  rw [if_neg, if_neg]
  · have := hs.2
    omega
  · simp only [List.any_eq_true, Bool.and_eq_true, beq_iff_eq, not_exists, not_and]
    exact fun e he hg ht => hs.1 e he hg ht

/-- A long-running command whose rules are met is accepted. -/
theorem runCmd_accept {op : Nat} {f : CmdHdr → List Word → State → CmdRes} {h : CmdHdr} {ws : List Word} {s t : State} {k : AsyncKind}
    (hr : Runs op s) (hs : HasRoom h s) (hf : f h ws s = .accept t k) : runCmd op f h ws s = longRunning op h s t k := by
  simp [runCmd, command, gate_of_runs hr, hr.1, hf, finish, asyncCheck_of_room hs, longRunning, withReply]

/-- A command whose own rules answer with a status changes nothing but the reply. -/
theorem runCmd_fail {op : Nat} {f : CmdHdr → List Word → State → CmdRes} {h : CmdHdr} {ws : List Word} {s : State} {st : Status} {a : Nat}
    (hr : Runs op s) (hf : f h ws s = .fail st a) : runCmd op f h ws s = withReply (mkReply s op h st a []) s := by
  simp [runCmd, command, gate_of_runs hr, hr.1, hf, finish, withReply]

/-- A command that a gate turns away changes nothing but the reply (R356, R424). -/
theorem runCmd_gated {op : Nat} {f : CmdHdr → List Word → State → CmdRes} {h : CmdHdr} {ws : List Word} {s : State} {st : Status}
    (hw : s.fwRuns = true) (hg : gate s op = some st) : runCmd op f h ws s = withReply (mkReply s op h st 0 []) s := by
  simp [runCmd, command, hg, hw, withReply]

/-- While firmware does not run a ring command changes nothing (R351). -/
theorem runCmd_stopped {op : Nat} {f : CmdHdr → List Word → State → CmdRes} {h : CmdHdr} {ws : List Word} {s : State}
    (hw : s.fwRuns = false) : runCmd op f h ws s = s := by
  simp [runCmd, hw]

/-- A check that holds is passed. -/
theorem need_true {b : Bool} {st : Status} {n : Nat} {k : CmdRes} (h : b = true) : need b st n k = k := by
  simp [need, h]

/-- The right count of words passes. -/
theorem needLen_eq {ws : List Word} {n : Nat} {k : CmdRes} (h : ws.length = n) : needLen ws n k = k := by
  simp [needLen, need, h]

/-- An item that is not staged yet is staged. -/
theorem stageOne_free {s : State} {it : ItemKind} {n op : Nat} {ws : List Word} (h : s.isStaged it n = false) :
    stageOne s it n op ws = .done (s.stage it n op ws) [] := by
  simp [stageOne, needFree, need, h]

/-- An item staged already is answered BUSY (R27). -/
theorem stageOne_staged {s : State} {it : ItemKind} {n op : Nat} {ws : List Word} (h : s.isStaged it n = true) :
    stageOne s it n op ws = .fail .busy 0 := by
  simp [stageOne, needFree, need, h]

/-- A ring command of the table runs the rules of its opcode. -/
theorem exec_ringOp {c : Instr} {op : Nat} {h : CmdHdr} {ws : List Word} (e : ringOp c = some (op, h, ws)) :
    ∃ f, cmdOf op = some f ∧ ∀ s, exec c s = .next (runCmd op f h ws s) := by
  cases c <;> first
    | (cases e; exact ⟨_, rfl, fun _ => rfl⟩)
    | cases e

end Sys2Proof.Machine
end

