-- ==== Sys2Proof/Laws/Table.lean ====
section
/-! SUPPORT. The laws of tables: reading after writing, and the canonical form, which every operation keeps. -/

namespace Sys2Proof

theorem lookupEnt_filter_same {α : Type} (d : α) (k : Nat) (es : List (Nat × α)) :
    lookupEnt d k (es.filter fun e => e.1 != k) = d := by
  induction es with
  | nil => rfl
  | cons e es ih => rcases e with ⟨j, v⟩; by_cases h : j = k <;> simp [lookupEnt, h, ih]

theorem lookupEnt_filter_other {α : Type} (d : α) {j k : Nat} (h : j ≠ k) (es : List (Nat × α)) :
    lookupEnt d j (es.filter fun e => e.1 != k) = lookupEnt d j es := by
  induction es with
  | nil => rfl
  | cons e es ih =>
    rcases e with ⟨i, v⟩
    by_cases h1 : i = k
    · have : i ≠ j := fun e => h (e ▸ h1)
      simp [lookupEnt, h1, ih, h.symm]
    · simp [lookupEnt, h1, ih]

theorem lookupEnt_putEnt_same {α : Type} (d : α) (k : Nat) (v : α) (es : List (Nat × α)) : lookupEnt d k (putEnt k v es) = v := by
  induction es with
  | nil => simp [putEnt, lookupEnt]
  | cons e es ih =>
    rcases e with ⟨j, w⟩
    unfold putEnt
    split
    · simp [lookupEnt]
    · split
      · simp [lookupEnt]
      · rename_i h1 h2
        simp [lookupEnt, Ne.symm h2, ih]

theorem lookupEnt_putEnt_other {α : Type} (d : α) {j k : Nat} (h : j ≠ k) (v : α) (es : List (Nat × α)) :
    lookupEnt d j (putEnt k v es) = lookupEnt d j es := by
  induction es with
  | nil => simp [putEnt, lookupEnt, h.symm]
  | cons e es ih =>
    rcases e with ⟨i, w⟩
    unfold putEnt
    split
    · simp [lookupEnt, h.symm]
    · split
      · rename_i h2
        subst h2
        simp [lookupEnt, h.symm]
      · simp [lookupEnt, ih]

namespace Table

variable {α : Type}

/-- A constant table reads as its value everywhere. -/
@[simp] theorem get_const (v : α) (k : Nat) : (const v).get k = v := rfl

/-- A constant table is canonical. -/
@[simp] theorem wf_const [DecidableEq α] (v : α) : (const v).wf = true := rfl

/-- What is written is read back. -/
@[simp] theorem get_set_same [DecidableEq α] (t : Table α) (k : Nat) (v : α) : (t.set k v).get k = v := by
  unfold get set
  by_cases h : v = t.dflt
  · simp [h, lookupEnt_filter_same]
  · simp [h, lookupEnt_putEnt_same]

/-- A write leaves every other key alone. -/
theorem get_set_other [DecidableEq α] (t : Table α) {j k : Nat} (h : j ≠ k) (v : α) : (t.set k v).get j = t.get j := by
  unfold get set
  by_cases e : v = t.dflt
  · simp [e, lookupEnt_filter_other _ h]
  · simp [e, lookupEnt_putEnt_other _ h]

/-- Reading any key after a write. -/
theorem get_set [DecidableEq α] (t : Table α) (j k : Nat) (v : α) : (t.set k v).get j = if j = k then v else t.get j := by
  by_cases h : j = k
  · simp [h]
  · simp [h, get_set_other]

/-- A rewritten key. -/
@[simp] theorem get_upd_same [DecidableEq α] (t : Table α) (k : Nat) (f : α → α) : (t.upd k f).get k = f (t.get k) := get_set_same ..

/-- A rewriting leaves every other key alone. -/
theorem get_upd_other [DecidableEq α] (t : Table α) {j k : Nat} (h : j ≠ k) (f : α → α) : (t.upd k f).get j = t.get j := get_set_other t h _

/-- Rewriting depends only on the value at the key. -/
theorem upd_congr [DecidableEq α] {t : Table α} {k : Nat} {f g : α → α} (h : f (t.get k) = g (t.get k)) : t.upd k f = t.upd k g := by
  unfold upd; rw [h]

/-- The canonical form, stated of the list of entries. -/
theorem wf_iff [DecidableEq α] (t : Table α) :
    t.wf = true ↔ (t.ents.map Prod.fst).Pairwise (· < ·) ∧ ∀ e ∈ t.ents, e.2 ≠ t.dflt := by
  unfold wf
  generalize t.ents = es
  induction es with
  | nil => simp [wf.rising]
  | cons e es ih =>
    cases es with
    | nil => rcases e with ⟨j, v⟩; simp [wf.rising]
    | cons e' es' =>
      rcases e with ⟨j, v⟩
      rcases e' with ⟨k, w⟩
      simp only [wf.rising, Bool.and_eq_true, decide_eq_true_eq, Bool.not_eq_true', decide_eq_false_iff_not, ih]
      simp only [List.map_cons, List.pairwise_cons, List.mem_cons, List.mem_map, forall_eq_or_imp]
      constructor
      · rintro ⟨⟨h1, h2⟩, ⟨⟨h3, h4⟩, h5, h6⟩⟩
        exact ⟨⟨⟨h1, fun a ha => h1.trans (h3 a ha)⟩, h3, h4⟩, h2, h5, h6⟩
      · rintro ⟨⟨⟨h1, -⟩, h3, h4⟩, h2, h5, h6⟩
        exact ⟨⟨h1, h2⟩, ⟨⟨h3, h4⟩, h5, h6⟩⟩

theorem mem_putEnt {k : Nat} {v : α} {es : List (Nat × α)} {e : Nat × α} (h : e ∈ putEnt k v es) : e = (k, v) ∨ e ∈ es := by
  induction es with
  | nil => simpa [putEnt] using h
  | cons x es ih =>
    rcases x with ⟨j, w⟩
    unfold putEnt at h
    split at h
    · simpa using h
    · split at h
      · rcases List.mem_cons.mp h with h | h
        · exact .inl h
        · exact .inr (List.mem_cons_of_mem _ h)
      · rcases List.mem_cons.mp h with h | h
        · exact .inr (h ▸ List.mem_cons_self)
        · rcases ih h with h | h
          · exact .inl h
          · exact .inr (List.mem_cons_of_mem _ h)

theorem rising_putEnt {k : Nat} {v : α} {es : List (Nat × α)} (h : (es.map Prod.fst).Pairwise (· < ·)) :
    ((putEnt k v es).map Prod.fst).Pairwise (· < ·) := by
  induction es with
  | nil => simp [putEnt]
  | cons x es ih =>
    rcases x with ⟨j, w⟩
    obtain ⟨h1, h2⟩ := List.pairwise_cons.mp h
    unfold putEnt
    split
    · rename_i hk
      refine List.pairwise_cons.mpr ⟨fun a ha => ?_, h⟩
      rcases List.mem_cons.mp ha with ha | ha
      · exact ha ▸ hk
      · exact hk.trans (h1 a ha)
    · split
      · rename_i hk
        subst hk
        exact List.pairwise_cons.mpr ⟨h1, h2⟩
      · rename_i h3 h4
        refine List.pairwise_cons.mpr ⟨fun a ha => ?_, ih h2⟩
        obtain ⟨e, he, rfl⟩ := List.mem_map.mp ha
        rcases mem_putEnt he with rfl | he
        · exact Nat.lt_of_le_of_ne (Nat.le_of_not_lt h3) (Ne.symm h4)
        · exact h1 _ (List.mem_map_of_mem he)

/-- A write keeps the canonical form. -/
theorem wf_set [DecidableEq α] {t : Table α} (h : t.wf = true) (k : Nat) (v : α) : (t.set k v).wf = true := by
  rw [wf_iff] at h ⊢
  unfold set
  by_cases e : v = t.dflt
  · simp only [e, if_true]
    exact ⟨h.1.sublist (List.Sublist.map _ List.filter_sublist), fun x hx => h.2 x (List.mem_of_mem_filter hx)⟩
  · simp only [e, if_false]
    refine ⟨rising_putEnt h.1, fun x hx => ?_⟩
    rcases mem_putEnt hx with rfl | hx
    · exact e
    · exact h.2 x hx

/-- A rewriting keeps the canonical form. -/
theorem wf_upd [DecidableEq α] {t : Table α} (h : t.wf = true) (k : Nat) (f : α → α) : (t.upd k f).wf = true := wf_set h ..

/-- A run of writes keeps the canonical form. -/
theorem wf_setRun [DecidableEq α] {t : Table α} (h : t.wf = true) (k : Nat) (vs : List α) : (t.setRun k vs).wf = true := by
  induction vs generalizing t k with
  | nil => exact h
  | cons v vs ih => exact ih (wf_set h k v) (k + 1)

end Table
end Sys2Proof
end

