-- ==== Sys2Proof/Laws/Kept.lean ====
section
/-! SUPPORT. What every operation of the model keeps (Keeps), and how it passes through the loops that operations are made of. -/

namespace Sys2Proof.Machine

/-- What no command may change but by the rules of Keeps: the queue, the identity, the power fuses, the fused SVN, the revoked keys, the
two stored memories, the event log, and whether a boot table is half taken. -/
structure Kept where
  core : List Instr × BitVec 64 × Nat × Nat
  svn : Nat
  keys : BitVec 4
  mem : Table Granule
  sram : Table (BitVec 64 × BitVec 16)
  log : List LogEnt
  acc : Bool

/-- That part of a state. -/
def State.kept (s : State) : Kept :=
  ⟨(s.pending, s.cmd.uid, s.pwr.vFuse, s.pwr.kT), s.cmd.fusedSvn, s.cmd.revoked, s.sett.mem, s.ecc.sram, s.cmd.log, s.cmd.accepting⟩

/-- The part that State.Inv speaks of. -/
def Kept.Good (a : Kept) : Prop := a.mem.wf = true ∧ a.sram.wf = true ∧ a.log.length ≤ 4096

/-- The queue and the fuses are the same, the SVN does not fall, no key comes back, and what was in canonical form stays so. -/
def Keeps (a b : Kept) : Prop :=
  b.core = a.core ∧ a.svn ≤ b.svn ∧ (∀ k, a.keys.getLsbD k = true → b.keys.getLsbD k = true) ∧ (a.Good → b.Good) ∧ (b.acc = a.acc ∨ b.acc = false)

theorem Keeps.rfl {a : Kept} : Keeps a a := ⟨(Eq.refl _), Nat.le_refl _, fun _ h => h, id, .inl (Eq.refl _)⟩

@[simp] theorem keeps_ite {a x y : Kept} {c : Prop} [Decidable c] : Keeps a (if c then x else y) ↔ (c → Keeps a x) ∧ (¬c → Keeps a y) := by
  split <;> simp_all

@[simp] theorem kept_mk {s : State} {tick conv dsp frm cl nut sett ecc tim mar clv cmd pci flt cnt pwr rst out free}
    (h1 : sett.mem = s.sett.mem) (h2 : ecc.sram = s.ecc.sram) (h3 : cmd.uid = s.cmd.uid) (h4 : cmd.fusedSvn = s.cmd.fusedSvn)
    (h5 : cmd.revoked = s.cmd.revoked) (h6 : cmd.accepting = s.cmd.accepting) (h7 : cmd.log = s.cmd.log) (h8 : pwr.vFuse = s.pwr.vFuse) (h9 : pwr.kT = s.pwr.kT) :
    (State.mk s.pending tick conv dsp frm cl nut sett ecc tim mar clv cmd pci flt cnt pwr rst out free).kept = s.kept := by
  simp [State.kept, h1, h2, h3, h4, h5, h6, h7, h8, h9]

@[simp] theorem kept_ite {c : Prop} [Decidable c] {a b : State} : (if c then a else b).kept = if c then a.kept else b.kept := by split <;> rfl

@[simp] theorem State.each_kept {α} {s : State} {xs : List α} {f : State → α → State} (h : ∀ s x, (f s x).kept = s.kept) : (s.each xs f).kept = s.kept := by
  unfold State.each
  induction xs generalizing s with
  | nil => rfl
  | cons x xs ih => simp only [List.foldl_cons]; rw [ih, h]

@[simp] theorem State.when_kept {s : State} {c} {f : State → State} (h : ∀ s, (f s).kept = s.kept) : (s.when c f).kept = s.kept := by
  unfold State.when; split <;> simp [h]

theorem each_keeps {α} {a} {s : State} {xs : List α} {f : State → α → State} (h : Keeps a s.kept) (hf : ∀ s x, Keeps a s.kept → Keeps a (f s x).kept) : Keeps a (s.each xs f).kept := by
  unfold State.each
  induction xs generalizing s with
  | nil => exact h
  | cons x xs ih => exact ih (hf s x h)

theorem when_keeps {a} {s : State} {c} {f : State → State} (h : Keeps a s.kept) (hf : ∀ s, Keeps a s.kept → Keeps a (f s).kept) : Keeps a (s.when c f).kept := by
  unfold State.when; split
  · exact hf s h
  · exact h

theorem foldl_keeps {α β} {a} (p : β → State) {xs : List α} {f : β → α → β} {b : β} (h : Keeps a (p b).kept) (hf : ∀ b x, Keeps a (p b).kept → Keeps a (p (f b x)).kept) :
    Keeps a (p (xs.foldl f b)).kept := by
  induction xs generalizing b with
  | nil => exact h
  | cons x xs ih => exact ih (hf b x h)

theorem foldl_keeps_fst {α β} {a} {xs : List α} {f : State × β → α → State × β} {b : State × β} (h : Keeps a b.1.kept) (hf : ∀ b x, Keeps a b.1.kept → Keeps a (f b x).1.kept) :
    Keeps a (xs.foldl f b).1.kept := foldl_keeps Prod.fst h hf

theorem foldl_keeps_snd {α β} {a} {xs : List α} {f : β × State → α → β × State} {b : β × State} (h : Keeps a b.2.kept) (hf : ∀ b x, Keeps a b.2.kept → Keeps a (f b x).2.kept) :
    Keeps a (xs.foldl f b).2.kept := foldl_keeps Prod.snd h hf

@[simp] theorem foldl_kept_fst {α β} {xs : List α} {f : State × β → α → State × β} {b : State × β} (hf : ∀ b x, (f b x).1.kept = b.1.kept) :
    (xs.foldl f b).1.kept = b.1.kept := by
  induction xs generalizing b with
  | nil => rfl
  | cons x xs ih => rw [List.foldl_cons, ih, hf]

@[simp] theorem foldl_kept_state {α} {xs : List α} {f : State → α → State} {s : State} (hf : ∀ s x, (f s x).kept = s.kept) : (xs.foldl f s).kept = s.kept := by
  induction xs generalizing s with
  | nil => rfl
  | cons x xs ih => rw [List.foldl_cons, ih, hf]

theorem Keeps.trans {a b c : Kept} (h : Keeps a b) (k : Keeps b c) : Keeps a c :=
  ⟨k.1.trans h.1, h.2.1.trans k.2.1, fun i hi => k.2.2.1 i (h.2.2.1 i hi), fun g => k.2.2.2.1 (h.2.2.2.1 g), by
    rcases k.2.2.2.2 with e | e
    · rcases h.2.2.2.2 with f | f
      · exact .inl (e.trans f)
      · exact .inr (e.trans f)
    · exact .inr e⟩

/-- A loop over tables in canonical form ends in one. -/
theorem foldl_wf {α β : Type} [DecidableEq α] {xs : List β} {f : Table α → β → Table α} {t : Table α} (h : t.wf = true)
    (hf : ∀ t x, t.wf = true → (f t x).wf = true) : (xs.foldl f t).wf = true := by
  induction xs generalizing t with
  | nil => exact h
  | cons x xs ih => exact ih (hf t x h)

end Sys2Proof.Machine
end

