-- ==== Sys2Proof/Laws/KeptBlocks.lean ====
section
/-! SUPPORT. What the operations of each block keep: f_kept where none of it is touched, f_keeps where it is touched within the rules of Keeps. -/

namespace Sys2Proof.Machine

@[simp] theorem State.onPwr_kept {s : State} {f} (h1 : (f s.pwr).vFuse = s.pwr.vFuse) (h2 : (f s.pwr).kT = s.pwr.kT) : (s.onPwr f).kept = s.kept := by
  simp [State.onPwr, h1, h2]
@[simp] theorem State.onFlt_kept {s : State} {f} : (s.onFlt f).kept = s.kept := by simp [State.onFlt]
@[simp] theorem State.onClv_kept {s : State} {f} : (s.onClv f).kept = s.kept := by simp [State.onClv]
@[simp] theorem tap_kept {s : State} {f} : (tap f s).kept = s.kept := by unfold tap; split <;> simp
@[simp] theorem State.onConv_kept (s x1 x2) : (State.onConv s x1 x2).kept = s.kept := by simp [State.onConv]
@[simp] theorem State.onDsp_kept (s x1 x2) : (State.onDsp s x1 x2).kept = s.kept := by simp [State.onDsp]
@[simp] theorem State.onFrm_kept (s x1 x2) : (State.onFrm s x1 x2).kept = s.kept := by simp [State.onFrm]
@[simp] theorem State.onMar_kept (s x1 x2) : (State.onMar s x1 x2).kept = s.kept := by simp [State.onMar]
@[simp] theorem State.onAdc_kept (s x1 x2 x3) : (State.onAdc s x1 x2 x3).kept = s.kept := by simp [State.onAdc]
@[simp] theorem State.onSc_kept (s x1 x2 x3) : (State.onSc s x1 x2 x3).kept = s.kept := by simp [State.onSc]
@[simp] theorem State.onLane_kept (s x1 x2) : (State.onLane s x1 x2).kept = s.kept := by simp [State.onLane]
@[simp] theorem State.onPort_kept (s x1 x2) : (State.onPort s x1 x2).kept = s.kept := by simp [State.onPort]
@[simp] theorem State.onFlow_kept (s x1 x2) : (State.onFlow s x1 x2).kept = s.kept := by simp [State.onFlow]
@[simp] theorem State.onSa_kept (s x1 x2) : (State.onSa s x1 x2).kept = s.kept := by simp [State.onSa]
@[simp] theorem State.onMg_kept (s x1 x2) : (State.onMg s x1 x2).kept = s.kept := by simp [State.onMg]
@[simp] theorem State.onTgt_kept (s x1 x2) : (State.onTgt s x1 x2).kept = s.kept := by simp [State.onTgt]
@[simp] theorem State.onRef_kept (s x1 x2) : (State.onRef s x1 x2).kept = s.kept := by simp [State.onRef]
@[simp] theorem State.onOut_kept (s x1 x2) : (State.onOut s x1 x2).kept = s.kept := by simp [State.onOut]
@[simp] theorem State.onLink_kept (s x1 x2) : (State.onLink s x1 x2).kept = s.kept := by simp [State.onLink]
@[simp] theorem State.onDet_kept (s x1 x2) : (State.onDet s x1 x2).kept = s.kept := by simp [State.onDet]
@[simp] theorem State.onBias_kept (s x1 x2) : (State.onBias s x1 x2).kept = s.kept := by simp [State.onBias]
@[simp] theorem State.onRing_kept (s x1 x2) : (State.onRing s x1 x2).kept = s.kept := by simp [State.onRing]
@[simp] theorem State.onReg_kept (s x1 x2) : (State.onReg s x1 x2).kept = s.kept := by simp [State.onReg]
@[simp] theorem State.atSub_kept (s x1) : (State.atSub s x1).kept = s.kept := by simp [State.atSub]
@[simp] theorem State.emit_kept (s x1) : (State.emit s x1).kept = s.kept := by simp [State.emit]
@[simp] theorem State.raiseVec_kept (s x1 x2) : (State.raiseVec s x1 x2).kept = s.kept := by simp [State.raiseVec]
@[simp] theorem State.count_kept (s x1 x2 x3 x4) : (State.count s x1 x2 x3 x4).kept = s.kept := by simp [State.count]
@[simp] theorem State.log_kept (s x1) : (State.log s x1).kept = s.kept := by simp [State.log]
@[simp] theorem State.signal_kept (s x1) : (State.signal s x1).kept = s.kept := by simp [State.signal]
@[simp] theorem State.send_kept (s x1 x2 x3 x4) : (State.send s x1 x2 x3 x4).kept = s.kept := by simp [State.send]
@[simp] theorem State.stage_kept (s x1 x2 x3 x4) : (State.stage s x1 x2 x3 x4).kept = s.kept := by simp [State.stage]
@[simp] theorem State.hold_kept (s x1 x2 x3 x4) : (State.hold s x1 x2 x3 x4).kept = s.kept := by simp [State.hold]
@[simp] theorem State.audit_kept (s x1 x2 x3) : (State.audit s x1 x2 x3).kept = s.kept := by simp [State.audit]
@[simp] theorem State.convFault_kept (s x1 x2) : (State.convFault s x1 x2).kept = s.kept := by simp [State.convFault]
@[simp] theorem State.dspFault_kept (s x1 x2) : (State.dspFault s x1 x2).kept = s.kept := by simp [State.dspFault]
@[simp] theorem State.frFault_kept (s x1 x2) : (State.frFault s x1 x2).kept = s.kept := by simp [State.frFault]
@[simp] theorem State.laneLosFault_kept (s x1) : (State.laneLosFault s x1).kept = s.kept := by simp [State.laneLosFault]
@[simp] theorem State.laneAdaptFault_kept (s x1) : (State.laneAdaptFault s x1).kept = s.kept := by simp [State.laneAdaptFault]
@[simp] theorem State.portFault_kept (s x1) : (State.portFault s x1).kept = s.kept := by simp [State.portFault]
@[simp] theorem State.nutFault_kept (s x1) : (State.nutFault s x1).kept = s.kept := by simp [State.nutFault]
@[simp] theorem State.settFault_kept (s x1) : (State.settFault s x1).kept = s.kept := by simp [State.settFault]
@[simp] theorem State.eccFault_kept (s x1) : (State.eccFault s x1).kept = s.kept := by simp [State.eccFault]
@[simp] theorem State.timFault_kept (s x1) : (State.timFault s x1).kept = s.kept := by simp [State.timFault]
@[simp] theorem State.marFault_kept (s x1) : (State.marFault s x1).kept = s.kept := by simp [State.marFault]
@[simp] theorem State.clvFault_kept (s x1) : (State.clvFault s x1).kept = s.kept := by simp [State.clvFault]
@[simp] theorem State.trigger_kept (s x1) : (State.trigger s x1).kept = s.kept := by simp [State.trigger]
@[simp] theorem State.pwrFault0_kept (s x1) : (State.pwrFault0 s x1).kept = s.kept := by simp [State.pwrFault0]
@[simp] theorem State.pwrFault1_kept (s x1) : (State.pwrFault1 s x1).kept = s.kept := by simp [State.pwrFault1]
@[simp] theorem State.carry_kept (s x1) : (State.carry s x1).kept = s.kept := by simp [State.carry]
@[simp] theorem failAdc_kept (x1 x2 s) : (failAdc x1 x2 s).kept = s.kept := by simp [failAdc]
@[simp] theorem retireSlice_kept (x1 x2 x3 s) : (retireSlice x1 x2 x3 s).kept = s.kept := by simp [retireSlice]
@[simp] theorem substitute_kept (x1 x2 x3 s) : (substitute x1 x2 x3 s).kept = s.kept := by simp [substitute]
@[simp] theorem rotate_kept (x1 x2 s) : (rotate x1 x2 s).kept = s.kept := by simp [rotate]
@[simp] theorem adcAct_kept (x1 x2 s) : (adcAct x1 x2 s).kept = s.kept := by
  unfold adcAct
  repeat' first | split | simp
@[simp] theorem beginCal_kept (x1 s) : (beginCal x1 s).kept = s.kept := by simp [beginCal]
@[simp] theorem lineOff_kept (x1 s) : (lineOff x1 s).kept = s.kept := by simp [lineOff]
@[simp] theorem calSettle_kept (x1 s) : (calSettle x1 s).kept = s.kept := by simp [calSettle]
@[simp] theorem setDacs_kept (x1 x2 x3 s) : (setDacs x1 x2 x3 s).kept = s.kept := by simp [setDacs]
@[simp] theorem lightAll_kept (x1 s) : (lightAll x1 s).kept = s.kept := by simp [lightAll]
@[simp] theorem darkAll_kept (x1 s) : (darkAll x1 s).kept = s.kept := by simp [darkAll]
@[simp] theorem pllLost_kept (x1 s) : (pllLost x1 s).kept = s.kept := by simp [pllLost]
@[simp] theorem muteLine_kept (x1 s) : (muteLine x1 s).kept = s.kept := by simp [muteLine]
@[simp] theorem dacTrack_kept (x1 x2 s) : (dacTrack x1 x2 s).kept = s.kept := by simp [dacTrack]
@[simp] theorem adcTick_kept (x1 x2 x3 s) : (adcTick x1 x2 x3 s).kept = s.kept := by simp [adcTick]
@[simp] theorem pllTick_kept (x1 s) : (pllTick x1 s).kept = s.kept := by simp [pllTick]
@[simp] theorem convTick_kept (x1 x2 s) : (convTick x1 x2 s).kept = s.kept := by simp [convTick]
@[simp] theorem applyConv_kept (x1 s) : (applyConv x1 s).kept = s.kept := by
  unfold applyConv
  repeat' first | split | simp
@[simp] theorem startSwap_kept (x1 x2 s) : (startSwap x1 x2 s).kept = s.kept := by simp [startSwap]
@[simp] theorem endSwap_kept (x1 x2 s) : (endSwap x1 x2 s).kept = s.kept := by simp [endSwap]
@[simp] theorem scOff_kept (x1 x2 s) : (scOff x1 x2 s).kept = s.kept := by simp [scOff]
@[simp] theorem scAcq_kept (x1 x2 s) : (scAcq x1 x2 s).kept = s.kept := by simp [scAcq]
@[simp] theorem dropSubcarriers_kept (x1 s) : (dropSubcarriers x1 s).kept = s.kept := by simp [dropSubcarriers]
@[simp] theorem loseFrame_kept (x1 s) : (loseFrame x1 s).kept = s.kept := by simp [loseFrame]
@[simp] theorem toRxd_kept (x1 x2 s) : (toRxd x1 x2 s).kept = s.kept := by simp [toRxd]
@[simp] theorem enterSearch_kept (x1 x2 s) : (enterSearch x1 x2 s).kept = s.kept := by simp [enterSearch]
@[simp] theorem leaveRx_kept (x1 x2 s) : (leaveRx x1 x2 s).kept = s.kept := by simp [leaveRx]
@[simp] theorem fadeTick_kept (x1 x2 s) : (fadeTick x1 x2 s).kept = s.kept := by simp [fadeTick]
@[simp] theorem swapTurn_kept (x1 s) : (swapTurn x1 s).kept = s.kept := by simp [swapTurn]
@[simp] theorem scTick_kept (x1 x2 x3 x4 s) : (scTick x1 x2 x3 x4 s).kept = s.kept := by simp [scTick]
@[simp] theorem sopTick_kept (x1 x2 s) : (sopTick x1 x2 s).kept = s.kept := by simp [sopTick]
@[simp] theorem windowEnd_kept (x1 x2 s) : (windowEnd x1 x2 s).kept = s.kept := by simp [windowEnd]
@[simp] theorem windowBegin_kept (x1 s) : (windowBegin x1 s).kept = s.kept := by simp [windowBegin]
@[simp] theorem dspTick_kept (x1 x2 s) : (dspTick x1 x2 s).kept = s.kept := by
  unfold dspTick
  repeat' first | split | simp
@[simp] theorem applyLoad_kept (x1 x2 x3 s) : (applyLoad x1 x2 x3 s).kept = s.kept := by simp [applyLoad]
@[simp] theorem applyDsp_kept (x1 s) : (applyDsp x1 s).kept = s.kept := by
  unfold applyDsp
  (repeat' split) <;> simp
@[simp] theorem lastErr_kept (x1 x2 x3 x4 s) : (lastErr x1 x2 x3 x4 s).kept = s.kept := by simp [lastErr]
@[simp] theorem remap_kept (x1 x2 s) : (remap x1 x2 s).kept = s.kept := by
  unfold remap
  repeat' first | split | simp
@[simp] theorem track_kept (x1 x2 x3 x4 s) : (track x1 x2 x3 x4 s).kept = s.kept := by
  unfold track
  repeat' first | split | simp
@[simp] theorem corrected_kept (x1 x2 x3 x4 x5 x6 s) : (corrected x1 x2 x3 x4 x5 x6 s).kept = s.kept := by simp [corrected]
@[simp] theorem scheduleWb_kept (x1 x2 s) : (scheduleWb x1 x2 s).kept = s.kept := by simp [scheduleWb]
@[simp] theorem cancelWb_kept (x1 x2 x3 s) : (cancelWb x1 x2 x3 s).kept = s.kept := by simp [cancelWb]
@[simp] theorem uncorrected_kept (x1 x2 x3 x4 s) : (uncorrected x1 x2 x3 x4 s).kept = s.kept := by simp [uncorrected]
theorem putGranule_keeps {a} (x1 x2 s) (h : Keeps a s.kept) : Keeps a (putGranule x1 x2 s).kept :=
  h.trans ⟨rfl, Nat.le_refl _, fun _ h => h, fun g => ⟨Table.wf_set g.1 _ _, g.2⟩, .inl rfl⟩
@[simp] theorem flipDone_kept (x1 s) : (flipDone x1 s).kept = s.kept := by simp [flipDone]
theorem settWrite_keeps {a} (x1 x2 s) (h : Keeps a s.kept) : Keeps a (settWrite x1 x2 s).kept := by
  unfold settWrite
  repeat' first | assumption | intro _ | with_reducible apply putGranule_keeps | with_reducible apply And.intro | simp
@[simp] theorem readWord_kept (g i scrub w) (a : State × List (BitVec 64 × BitVec 16) × Bool) : (readWord g i scrub w a).1.kept = a.1.kept := by
  unfold readWord
  dsimp only
  split <;> simp
theorem settRead_keeps {a} (x1 x2 s) (h : Keeps a s.kept) : Keeps a (settRead x1 x2 s).1.kept := by
  have e : (((granuleOf s x1).zipIdx).foldl (fun a p => readWord x1 p.2 x2 p.1 a) (s, [], false)).1.kept = s.kept := foldl_kept_fst (by simp)
  unfold settRead
  dsimp only
  generalize List.foldl _ _ _ = r at e ⊢
  have k : Keeps a r.1.kept := e ▸ h
  repeat' first | assumption | intro _ | with_reducible apply And.intro | with_reducible apply putGranule_keeps | simp
theorem putMask_keeps {a} (x1 x2 x3 s) (h : Keeps a s.kept) : Keeps a (putMask x1 x2 x3 s).kept :=
  h.trans ⟨rfl, Nat.le_refl _, fun _ h => h, fun g => ⟨g.1, Table.wf_set g.2.1 _ _, g.2.2⟩, .inl rfl⟩
@[simp] theorem flipQueue_kept (x1 x2 x3 s) : (flipQueue x1 x2 x3 s).kept = s.kept := by simp [flipQueue]
@[simp] theorem flipKey_kept (x1 x2 s) : (flipKey x1 x2 s).kept = s.kept := by simp [flipKey]
theorem flipLog_keeps {a} (x1 x2 s) (h : Keeps a s.kept) : Keeps a (flipLog x1 x2 s).kept := by
  exact h.trans ⟨rfl, Nat.le_refl _, fun _ h => h, fun g => ⟨g.1, g.2.1, by simpa [flipLog, State.kept] using g.2.2⟩, .inl rfl⟩
@[simp] theorem flipRecord_kept (x1 x2 s) : (flipRecord x1 x2 s).kept = s.kept := by simp [flipRecord]
theorem flipStored_keeps {a} (x1 x2 x3 s) (h : Keeps a s.kept) : Keeps a (flipStored x1 x2 x3 s).kept := by
  unfold flipStored
  repeat' first | assumption | with_reducible apply flipLog_keeps | simp | split
theorem misread_keeps {a} (x1 x2 x3 s) (h : Keeps a s.kept) : Keeps a (misread x1 x2 x3 s).kept := by
  unfold misread
  repeat' first | assumption | intro _ | with_reducible apply flipStored_keeps | with_reducible apply putMask_keeps | with_reducible apply And.intro | split
theorem sramRead_keeps {a} (x1 x2 x3 s) (h : Keeps a s.kept) : Keeps a (sramRead x1 x2 x3 s).2.kept := by
  unfold sramRead
  repeat' first | assumption | with_reducible apply misread_keeps | with_reducible apply putMask_keeps | simp | split
@[simp] theorem parityTurn_kept (x1 s) : (parityTurn x1 s).2.kept = s.kept := by
  unfold parityTurn
  (repeat' split) <;> simp
theorem sramUse_keeps {a} (x1 x2 x3 s) (h : Keeps a s.kept) : Keeps a (sramUse x1 x2 x3 s).2.kept := by
  unfold sramUse
  repeat' first | assumption | intro _ | with_reducible apply foldl_keeps_snd | with_reducible apply sramRead_keeps | simp
theorem sramWrite_keeps {a} (x1 x2 x3 s) (h : Keeps a s.kept) : Keeps a (sramWrite x1 x2 x3 s).kept := by
  unfold sramWrite
  repeat' first | assumption | intro _ | with_reducible apply each_keeps | with_reducible apply putMask_keeps | simp | split
theorem metaRepair_keeps {a} (x1 s) (h : Keeps a s.kept) : Keeps a (metaRepair x1 s).kept := by
  unfold metaRepair
  repeat' first | assumption | intro _ | with_reducible apply putMask_keeps | with_reducible apply And.intro | simp
theorem metaUse_keeps {a} (x1 s) (h : Keeps a s.kept) : Keeps a (metaUse x1 s).kept := by
  unfold metaUse
  repeat' first | assumption | intro _ | with_reducible apply metaRepair_keeps | with_reducible apply sramRead_keeps | with_reducible apply And.intro | simp
theorem metaWrite_keeps {a} (x1 x2 s) (h : Keeps a s.kept) : Keeps a (metaWrite x1 x2 s).kept := by
  unfold metaWrite
  repeat' first | assumption | intro _ | with_reducible apply each_keeps | with_reducible apply metaUse_keeps | with_reducible apply sramWrite_keeps
theorem performWb_keeps {a} (x1 s) (h : Keeps a s.kept) : Keeps a (performWb x1 s).kept := by
  unfold performWb
  repeat' first | assumption | intro _ | with_reducible apply each_keeps | with_reducible apply putGranule_keeps | with_reducible apply putMask_keeps | with_reducible apply And.intro | split
@[simp] theorem useEcc_kept (x1 x2 s) : (useEcc x1 x2 s).kept = s.kept := by simp [useEcc]
theorem takeWb_keeps {a} (x1 x2 s) (h : Keeps a s.kept) : Keeps a (takeWb x1 x2 s).kept := by
  unfold takeWb
  repeat' first | assumption | with_reducible apply performWb_keeps
@[simp] theorem giveEntries_kept (s) : (giveEntries s).kept = s.kept := by simp [giveEntries]
theorem sramFlush_keeps {a} (s) (h : Keeps a s.kept) : Keeps a (sramFlush s).kept := by
  exact each_keeps h fun s t hs => each_keeps hs fun s w hs => takeWb_keeps _ _ _ hs
theorem applyUpset_keeps {a} (x1 s) (h : Keeps a s.kept) : Keeps a (applyUpset x1 s).kept := by
  unfold applyUpset
  repeat' first | assumption | intro _ | with_reducible apply putGranule_keeps | with_reducible apply putMask_keeps | with_reducible apply And.intro | split
@[simp] theorem endPass_kept (x1 s) : (endPass x1 s).kept = s.kept := by simp [endPass]
@[simp] theorem scrubTake_kept (x1 x2 x3 s) : (scrubTake x1 x2 x3 s).kept = s.kept := by simp [scrubTake]
theorem scrubMeta_keeps {a} (x1 s) (h : Keeps a s.kept) : Keeps a (scrubMeta x1 s).kept := by
  unfold scrubMeta
  repeat' first | assumption | intro _ | with_reducible apply metaRepair_keeps | with_reducible apply sramRead_keeps | with_reducible apply And.intro | split
@[simp] theorem nextCopy_kept (x1 x2 s) : (nextCopy x1 x2 s).kept = s.kept := by
  induction x2 generalizing s with
  | zero => rfl
  | succ n ih =>
    unfold nextCopy
    split
    · rfl
    · split
      · rw [ih]; simp
      · rfl
@[simp] theorem finishCopy_kept (x1 s) : (finishCopy x1 s).kept = s.kept := by simp [finishCopy]
theorem copyWord_keeps {a} (x1 x2 s) (h : Keeps a s.kept) : Keeps a (copyWord x1 x2 s).kept := by
  unfold copyWord
  repeat' first | assumption | with_reducible apply misread_keeps | with_reducible apply putMask_keeps | simp | split
@[simp] theorem loadNext_kept (s) : (loadNext s).kept = s.kept := by
  unfold loadNext
  repeat' first | split | simp
@[simp] theorem spareNow_kept (x1 s) : (spareNow x1 s).kept = s.kept := by
  unfold spareNow
  (repeat' split) <;> simp
@[simp] theorem loadTurn_kept (s) : (loadTurn s).kept = s.kept := by simp [loadTurn]
@[simp] theorem eccTick_kept (s) : (eccTick s).kept = s.kept := by simp [eccTick]
theorem eccBegin_keeps {a} (s) (h : Keeps a s.kept) : Keeps a (eccBegin s).kept := by
  have k := sramFlush_keeps s h
  rw [← giveEntries_kept] at k
  unfold eccBegin
  dsimp only
  generalize giveEntries (sramFlush s) = t at k ⊢
  exact k
@[simp] theorem onArb_kept (x1 x2 x3 s) : (onArb x1 x2 x3 s).kept = s.kept := by simp [onArb]
@[simp] theorem startOp_kept (x1 s) : (startOp x1 s).kept = s.kept := by simp [startOp]
@[simp] theorem request_kept (x1 x2 s) : (request x1 x2 s).kept = s.kept := by simp [request]
@[simp] theorem allocate_kept (x1 s) : (allocate x1 s).kept = s.kept := by
  induction x1 generalizing s with
  | zero => rfl
  | succ n ih =>
    unfold allocate
    split
    · split
      · rw [ih, startOp_kept]; rfl
      · rfl
    · rfl
@[simp] theorem flipCtlWrite_kept (x1 s) : (flipCtlWrite x1 s).kept = s.kept := by simp [flipCtlWrite]
@[simp] theorem applyEcc_kept (x1 s) : (applyEcc x1 s).kept = s.kept := by
  unfold applyEcc
  (repeat' split) <;> simp
theorem takeCell_keeps {b} (l c) (a : State × List (Nat × Cell)) (h : Keeps b a.1.kept) : Keeps b (takeCell l c a).1.kept := by
  unfold takeCell
  dsimp only
  split
  · split
    · rw [State.onFrm_kept]; exact sramUse_keeps _ _ _ _ h
    · rw [State.count_kept, State.onFrm_kept]; exact sramUse_keeps _ _ _ _ h
  · exact h
theorem fillFrame_keeps {a} (x1 x2 s) (h : Keeps a s.kept) : Keeps a (fillFrame x1 x2 s).1.kept := by
  refine foldl_keeps_fst h fun b c hb => foldl_keeps_fst hb fun b _ hb => ?_
  split
  · exact takeCell_keeps _ _ _ hb
  · exact hb
theorem sendFrame_keeps {a} (x1 x2 s) (h : Keeps a s.kept) : Keeps a (sendFrame x1 x2 s).1.kept := by
  unfold sendFrame
  repeat' first | assumption | with_reducible apply fillFrame_keeps | simp | split
@[simp] theorem takeAnn_kept (x1 x2 x3 s) : (takeAnn x1 x2 x3 s).kept = s.kept := by simp [takeAnn]
@[simp] theorem takeHdr_kept (x1 x2 s) : (takeHdr x1 x2 s).kept = s.kept := by simp [takeHdr]
@[simp] theorem nextFr_kept (x1 x2 s) : (nextFr x1 x2 s).kept = s.kept := by
  unfold nextFr
  repeat' first | split | simp
@[simp] theorem countDrop_kept (x1 x2 x3 x4 s) : (countDrop x1 x2 x3 x4 s).kept = s.kept := by simp [countDrop]
@[simp] theorem frameStats_kept (x1 x2 x3 x4 x5 s) : (frameStats x1 x2 x3 x4 x5 s).kept = s.kept := by simp [frameStats]
theorem decodeFrame_keeps {a} (x1 x2 s) (h : Keeps a s.kept) : Keeps a (decodeFrame x1 x2 s).1.kept := by
  unfold decodeFrame
  repeat' first | assumption | with_reducible apply sramUse_keeps | with_reducible apply sramWrite_keeps | simp
@[simp] theorem frameTick_kept (x1 s) : (frameTick x1 s).kept = s.kept := by
  unfold frameTick
  repeat' first | split | simp
@[simp] theorem applyFrame_kept (x1 s) : (applyFrame x1 s).kept = s.kept := by
  unfold applyFrame
  (repeat' split) <;> simp
@[simp] theorem toLane_kept (x1 x2 s) : (toLane x1 x2 s).kept = s.kept := by simp [toLane]
@[simp] theorem laneDue_kept (x1 x2 s) : (laneDue x1 x2 s).kept = s.kept := by simp [laneDue]
@[simp] theorem portDue_kept (x1 s) : (portDue x1 s).kept = s.kept := by simp [portDue]
@[simp] theorem sigTurn_kept (x1 s) : (sigTurn x1 s).kept = s.kept := by simp [sigTurn]
@[simp] theorem takePfc_kept (x1 x2 x3 s) : (takePfc x1 x2 x3 s).kept = s.kept := by simp [takePfc]
@[simp] theorem sendPfc_kept (x1 x2 s) : (sendPfc x1 x2 s).kept = s.kept := by simp [sendPfc]
@[simp] theorem pfcTick_kept (x1 s) : (pfcTick x1 s).kept = s.kept := by simp [pfcTick]
@[simp] theorem toElastic_kept (x1 s) : (toElastic x1 s).kept = s.kept := by simp [toElastic]
theorem pushQueue_keeps {a} (x1 x2 x3 s) (h : Keeps a s.kept) : Keeps a (pushQueue x1 x2 x3 s).kept := by
  unfold pushQueue
  repeat' first | assumption | with_reducible apply sramWrite_keeps
@[simp] theorem cellDrop_kept (x1 x2 s) : (cellDrop x1 x2 s).kept = s.kept := by simp [cellDrop]
theorem enqueueCell_keeps {a} (x1 s) (h : Keeps a s.kept) : Keeps a (enqueueCell x1 s).kept := by
  unfold enqueueCell
  repeat' first | assumption | intro _ | with_reducible apply each_keeps | with_reducible apply pushQueue_keeps | simp
theorem closeCell_keeps {a} (x1 s) (h : Keeps a s.kept) : Keeps a (closeCell x1 s).kept := by
  unfold closeCell
  repeat' first | assumption | intro _ | with_reducible apply enqueueCell_keeps | with_reducible apply And.intro | simp
theorem pushBytes_keeps {a} (x1 x2 x3 s) (h : Keeps a s.kept) : Keeps a (pushBytes x1 x2 x3 s).kept := by
  induction x1 generalizing x3 s with
  | zero => exact h
  | succ n ih =>
    unfold pushBytes
    dsimp only
    split
    · exact ih _ _ (closeCell_keeps _ _ (by simpa using h))
    · simpa using h
theorem buildCells_keeps {a} (x1 x2 s) (h : Keeps a s.kept) : Keeps a (buildCells x1 x2 s).kept := by
  unfold buildCells
  repeat' first | assumption | with_reducible apply pushBytes_keeps
@[simp] theorem reassemble_kept (x1 s) : (reassemble x1 s).kept = s.kept := by simp [reassemble]
@[simp] theorem rxCell_kept (x1 s) : (rxCell x1 s).kept = s.kept := by simp [rxCell]
theorem keyRead_keeps {a} (s x1) (h : Keeps a s.kept) : Keeps a (keyRead s x1).2.kept := by
  unfold keyRead
  repeat' first | assumption | with_reducible apply sramUse_keeps | simp | split
theorem classify_keeps {a} (s x1 x2) (h : Keeps a s.kept) : Keeps a (classify s x1 x2).2.kept := by
  unfold classify
  repeat' first | assumption | with_reducible apply keyRead_keeps | simp | split
@[simp] theorem admitFlow_kept (x1 x2 s) : (admitFlow x1 x2 s).kept = s.kept := by simp [admitFlow]
theorem acceptFrame_keeps {a} (x1 x2 s) (h : Keeps a s.kept) : Keeps a (acceptFrame x1 x2 s).kept := by
  unfold acceptFrame
  repeat' first | assumption | with_reducible apply classify_keeps | simp | split
@[simp] theorem controlFrame_kept (x1 x2 s) : (controlFrame x1 x2 s).kept = s.kept := by simp [controlFrame]
@[simp] theorem toEgress_kept (x1 x2 s) : (toEgress x1 x2 s).kept = s.kept := by simp [toEgress]
@[simp] theorem queueStamp_kept (x1 x2 x3 s) : (queueStamp x1 x2 x3 s).kept = s.kept := by simp [queueStamp]
@[simp] theorem sendClient_kept (x1 x2 x3 s) : (sendClient x1 x2 x3 s).kept = s.kept := by simp [sendClient]
@[simp] theorem laneEnter_kept (x1 x2 s) : (laneEnter x1 x2 s).kept = s.kept := by
  unfold laneEnter
  (repeat' split) <;> simp
@[simp] theorem laneTick_kept (x1 x2 s) : (laneTick x1 x2 s).kept = s.kept := by
  unfold laneTick
  repeat' first | split | simp
@[simp] theorem laneTurn_kept (x1 s) : (laneTurn x1 s).kept = s.kept := by simp [laneTurn]
@[simp] theorem portTick_kept (x1 x2 s) : (portTick x1 x2 s).kept = s.kept := by simp [portTick]
theorem ageTick_keeps {a} (s) (h : Keeps a s.kept) : Keeps a (ageTick s).kept := by
  unfold ageTick
  repeat' first | assumption | intro _ | with_reducible apply each_keeps | with_reducible apply closeCell_keeps
@[simp] theorem capTurn_kept (s) : (capTurn s).kept = s.kept := by simp [capTurn]
@[simp] theorem mergeSync_kept (x1 x2 s) : (mergeSync x1 x2 s).kept = s.kept := by simp [mergeSync]
@[simp] theorem applyRaw_kept (x1 x2 s) : (applyRaw x1 x2 s).kept = s.kept := by simp [applyRaw]
@[simp] theorem portRestart_kept (x1 x2 s) : (portRestart x1 x2 s).kept = s.kept := by simp [portRestart]
@[simp] theorem applyPort_kept (x1 x2 s) : (applyPort x1 x2 s).kept = s.kept := by simp [applyPort]
@[simp] theorem applyFlow_kept (x1 x2 s) : (applyFlow x1 x2 s).kept = s.kept := by simp [applyFlow]
theorem putKey_keeps {a} (x1 x2 s) (h : Keeps a s.kept) : Keeps a (putKey x1 x2 s).kept := by
  unfold putKey
  repeat' first | assumption | with_reducible apply sramWrite_keeps | simp | split
theorem applyClient_keeps {a} (x1 s) (h : Keeps a s.kept) : Keeps a (applyClient x1 s).kept := by
  unfold applyClient
  repeat' first | assumption | intro _ | with_reducible apply putKey_keeps | with_reducible apply And.intro | simp | split
theorem storeBytes_keeps {a} (x1 x2 x3 s) (h : Keeps a s.kept) : Keeps a (storeBytes x1 x2 x3 s).kept := by
  induction x1 generalizing x2 x3 s with
  | zero => exact h
  | succ n ih => exact ih _ _ _ (settWrite_keeps _ _ _ h)
theorem loadBytes_keeps {a} (x1 x2 s) (h : Keeps a s.kept) : Keeps a (loadBytes x1 x2 s).2.kept := by
  induction x1 generalizing x2 s with
  | zero => exact h
  | succ n ih => exact ih _ _ (settRead_keeps _ _ _ h)
theorem storeCell_keeps {a} (x1 x2 s) (h : Keeps a s.kept) : Keeps a (storeCell x1 x2 s).kept := by
  exact storeBytes_keeps _ _ _ _ h
theorem loadCell_keeps {a} (x1 s) (h : Keeps a s.kept) : Keeps a (loadCell x1 s).2.kept := by
  have k := loadBytes_keeps 4 (x1 / 64) s h
  unfold loadCell
  generalize loadBytes _ _ _ = r at k ⊢
  exact k
theorem capture_keeps {a} (x1 x2 x3 x4 x5 x6 s) (h : Keeps a s.kept) : Keeps a (capture x1 x2 x3 x4 x5 x6 s).kept := by
  unfold capture
  repeat' first | assumption | intro _ | with_reducible apply storeBytes_keeps | with_reducible apply And.intro | simp
@[simp] theorem capTrigger_kept (s) : (capTrigger s).kept = s.kept := by simp [capTrigger]
@[simp] theorem toSett_kept (x1 s) : (toSett x1 s).kept = s.kept := by simp [toSett]
@[simp] theorem leaveReady_kept (s) : (leaveReady s).kept = s.kept := by simp [leaveReady]
@[simp] theorem settFail_kept (x1 x2 s) : (settFail x1 x2 s).kept = s.kept := by simp [settFail]
@[simp] theorem failStacks_kept (x1 x2 s) : (failStacks x1 x2 s).kept = s.kept := by simp [failStacks]
theorem clearDone_keeps {a} (s) (h : Keeps a s.kept) : Keeps a (clearDone s).kept := by
  unfold clearDone
  dsimp only
  rw [toSett_kept]
  have k : Keeps a (s.each [16, 17, 18, 19] fun s t => s.onTgt t fun x => { x with pos := 0, wb := [] }).kept := by simpa using h
  generalize State.each s _ _ = t at k ⊢
  exact k.trans ⟨rfl, Nat.le_refl _, fun _ h => h, fun g => ⟨rfl, foldl_wf g.2.1 fun t x ht => by split <;> first | exact Table.wf_set ht _ _ | exact ht, g.2.2⟩, .inl rfl⟩
theorem settTurn_keeps {a} (s) (h : Keeps a s.kept) : Keeps a (settTurn s).kept := by
  unfold settTurn
  dsimp only
  generalize ht : ({ s with sett := { s.sett with due := none, failDue := none } } : State) = t
  have k : Keeps a t.kept := by rw [← ht]; exact h
  generalize s.sett.failDue = p
  generalize s.sett.due = q
  split
  · split
    · exact k
    · rw [settFail_kept]; exact k
  · split
    · rw [toSett_kept]; exact k
    · exact k
  · split
    · exact clearDone_keeps _ k
    · exact k
  · exact k
@[simp] theorem directCopy_kept (x1 s) : (directCopy x1 s).kept = s.kept := by simp [directCopy]
theorem storeCopy_keeps {a} (x1 x2 s) (h : Keeps a s.kept) : Keeps a (storeCopy x1 x2 s).kept := by
  unfold storeCopy
  repeat' first | assumption | with_reducible apply sramWrite_keeps | with_reducible apply storeCell_keeps | simp
@[simp] theorem setStale_kept (x1 x2 x3 s) : (setStale x1 x2 x3 s).kept = s.kept := by simp [setStale]
theorem restartFlow_keeps {a} (x1 s) (h : Keeps a s.kept) : Keeps a (restartFlow x1 s).kept := by
  unfold restartFlow
  repeat' first | assumption | with_reducible apply storeCopy_keeps | simp
theorem staleCopy_keeps {a} (x1 s) (h : Keeps a s.kept) : Keeps a (staleCopy x1 s).kept := by
  unfold staleCopy
  dsimp only
  generalize (if x1.line = 0 then (s.mg x1.cell.flow).stale0 else (s.mg x1.cell.flow).stale1) + 1 = k
  split
  · exact restartFlow_keeps _ _ (by simpa using h)
  · simpa using h
theorem checkSlot_keeps {a} (x1 x2 x3 s) (h : Keeps a s.kept) : Keeps a (checkSlot x1 x2 x3 s).kept := by
  unfold checkSlot
  repeat' first | assumption | intro _ | with_reducible apply sramUse_keeps | with_reducible apply And.intro | simp
theorem runCopy_keeps {a} (x1 s) (h : Keeps a s.kept) : Keeps a (runCopy x1 s).kept := by
  unfold runCopy
  dsimp only
  split
  · exact staleCopy_keeps _ _ h
  have k : Keeps a (setStale x1.cell.flow x1.line 0 s).kept := by simpa using h
  generalize setStale x1.cell.flow x1.line 0 s = t at k ⊢
  split
  · simpa using k
  split
  · simpa using k
  have q := checkSlot_keeps x1.cell.flow x1.line (((s.mg x1.cell.flow).headIdx + seqDiff x1.cell.seq (s.mg x1.cell.flow).head) % (s.mg x1.cell.flow).ring) t k
  generalize checkSlot _ _ _ t = u at q ⊢
  split
  · exact storeCopy_keeps _ _ _ (by simpa using q)
  split
  · exact storeCopy_keeps _ _ _ (by simpa using q)
  · simpa using q
theorem mergeCopy_keeps {a} (x1 s) (h : Keeps a s.kept) : Keeps a (mergeCopy x1 s).kept := by
  unfold mergeCopy
  dsimp only
  split
  · exact runCopy_keeps _ _ h
  · exact storeCopy_keeps _ _ _ (by simpa using h)
@[simp] theorem releaseRun_kept (f t es p) (a : State × List RelS) : (releaseRun f t es p a).1.kept = a.1.kept := by
  induction es generalizing p a with
  | nil => rfl
  | cons e es ih =>
    unfold releaseRun
    dsimp only
    split
    · split
      · rw [ih]; simp
      · simp
    · rfl
@[simp] theorem releasePlan_kept (s) : (releasePlan s).1.kept = s.kept := by
  unfold releasePlan
  exact foldl_kept_fst fun b x => releaseRun_kept _ _ _ _ _
theorem releaseSlot_keeps {a} (s x) (h : Keeps a s.kept) : Keeps a (releaseSlot s x).kept := by
  have k := loadCell_keeps (slotAddr (s.mg x.1.flow) x.1.slot) _ (sramUse_keeps 10 (slotWord (s.mg x.1.flow) x.1.slot) 2 _ h)
  unfold releaseSlot
  dsimp only
  generalize loadCell _ _ = r at k ⊢
  split
  · split
    · rw [rxCell_kept]
      exact capture_keeps _ _ _ _ _ _ _ (by simpa using k)
    · simpa using k
  · simpa using h
@[simp] theorem shiftReleases_kept (x1 s) : (shiftReleases x1 s).kept = s.kept := by simp [shiftReleases]
theorem drainLine_keeps {b} (share ok x l) (a : State × List Nat) (h : Keeps b a.1.kept) : Keeps b (drainLine share ok x l a).1.kept := by
  have k := loadCell_keeps x.addr _ h
  unfold drainLine
  dsimp only
  generalize loadCell _ _ = r at k ⊢
  split
  · split
    · exact pushQueue_keeps _ _ _ _ k
    · simpa using k
  · exact h
theorem drainCell_keeps {b} (share ok) (a : State × List ElCell) (x) (h : Keeps b a.1.kept) : Keeps b (drainCell share ok a x).1.kept := by
  have k := loadCell_keeps x.addr _ h
  unfold drainCell
  dsimp only
  generalize loadCell _ _ = r at k ⊢
  split
  · split
    · exact h
    · split
      · simpa using k
      · simpa using k
  · have q : Keeps b (((x.lines.filter fun l => !(x.lines.filter fun l => a.2.any fun y => !y.rx && y.cls == x.cls && y.lines.contains l).contains l).foldl
        (fun b l => drainLine share ok x l b) (a.1, x.lines.filter fun l => a.2.any fun y => !y.rx && y.cls == x.cls && y.lines.contains l)).1).kept :=
      foldl_keeps_fst h fun b l hb => drainLine_keeps _ _ _ _ _ hb
    split
    · exact q
    · exact q
theorem drainRun_keeps {a} (x1 s) (h : Keeps a s.kept) : Keeps a (drainRun x1 s).kept := by
  have q : Keeps a ((s.sett.el.foldl (drainCell (frameShare s) x1) (s, [])).1).kept := foldl_keeps_fst h fun b x hb => drainCell_keeps _ _ _ _ hb
  unfold drainRun
  exact each_keeps q fun s x hs => metaWrite_keeps _ _ _ hs
@[simp] theorem postTick_kept (s) : (postTick s).kept = s.kept := by simp [postTick]
@[simp] theorem losers_kept (x1 x2 x3 s) : (losers x1 x2 x3 s).kept = s.kept := by simp [losers]
@[simp] theorem grant_kept (x1 x2 x3 s) : (grant x1 x2 x3 s).kept = s.kept := by simp [grant]
theorem eccCycle_keeps {a} (x1 s) (h : Keeps a s.kept) : Keeps a (eccCycle x1 s).kept := by
  unfold eccCycle
  repeat' first | assumption | with_reducible apply takeWb_keeps | split
theorem arbCycle_keeps {a} (x1 x2 s) (h : Keeps a s.kept) : Keeps a (arbCycle x1 x2 s).kept := by
  unfold arbCycle
  repeat' first | assumption | intro _ | with_reducible apply eccCycle_keeps | with_reducible apply And.intro | simp | split
theorem arbRun_keeps {a} (x1 x2 s) (h : Keeps a s.kept) : Keeps a (arbRun x1 x2 s).kept := by
  induction x1 generalizing x2 s with
  | zero => exact h
  | succ n ih =>
    unfold arbRun
    dsimp only
    split
    · simpa using h
    · exact ih _ _ (each_keeps (by simpa using h) fun s pc hs => arbCycle_keeps _ _ _ hs)
theorem wbRest_keeps {a} (s) (h : Keeps a s.kept) : Keeps a (wbRest s).kept := by
  refine each_keeps h fun s t hs => each_keeps hs fun s w hs => ?_
  split
  · exact takeWb_keeps _ _ _ (by simpa using hs)
  · exact hs
@[simp] theorem dropReads_kept (x1 s) : (dropReads x1 s).kept = s.kept := by simp [dropReads]
theorem settTick_keeps {a} (s) (h : Keeps a s.kept) : Keeps a (settTick s).kept := by
  unfold settTick
  repeat' first | assumption | with_reducible apply settTurn_keeps | simp
theorem settBegin_keeps {a} (s) (h : Keeps a s.kept) : Keeps a (settBegin s).kept := by
  unfold settBegin
  dsimp only
  split
  swap
  · exact h
  have k : Keeps a (releasePlan s).1.kept := by simpa using h
  generalize releasePlan s = p at k ⊢
  generalize hu : wbRest _ = u
  have e : Keeps a u.kept := by
    rw [← hu]
    apply wbRest_keeps
    apply arbRun_keeps
    rw [State.each_kept (by intro s x; simp), State.each_kept (by intro s x; simp)]
    exact k
  generalize hd : drainRun _ _ = v
  have g : Keeps a v.kept := by
    rw [← hd]
    apply drainRun_keeps
    apply each_keeps
    · rw [foldl_kept_state (by intro s x; simp)]
      exact e
    · exact fun s x hs => releaseSlot_keeps _ _ hs
  exact g
theorem readRecord_keeps {b} (g) (a : State × List Word) (h : Keeps b a.1.kept) : Keeps b (readRecord g a).1.kept := by
  have k := loadBytes_keeps 5 g _ h
  unfold readRecord
  generalize loadBytes _ _ _ = r at k ⊢
  exact k
theorem mapRun_keeps {a} (x1 x2 s) (h : Keeps a s.kept) : Keeps a (mapRun x1 x2 s).kept := by
  unfold mapRun
  repeat' first | assumption | with_reducible apply metaWrite_keeps
theorem applyMerge_keeps {a} (x1 x2 x3 s) (h : Keeps a s.kept) : Keeps a (applyMerge x1 x2 x3 s).kept := by
  unfold applyMerge
  repeat' first | assumption | with_reducible apply mapRun_keeps | simp | split
@[simp] theorem applyCapArm_kept (x1 s) : (applyCapArm x1 s).kept = s.kept := by simp [applyCapArm]
theorem applySett_keeps {a} (x1 s) (h : Keeps a s.kept) : Keeps a (applySett x1 s).kept := by
  unfold applySett
  repeat' first | assumption | with_reducible apply applyMerge_keeps | simp | split
@[simp] theorem toDpll_kept (x1 s) : (toDpll x1 s).kept = s.kept := by simp [toDpll]
@[simp] theorem enterFreerun_kept (s) : (enterFreerun s).kept = s.kept := by simp [enterFreerun]
@[simp] theorem enterHoldover_kept (s) : (enterHoldover s).kept = s.kept := by simp [enterHoldover]
@[simp] theorem enterAcquire_kept (x1 x2 s) : (enterAcquire x1 x2 s).kept = s.kept := by simp [enterAcquire]
@[simp] theorem enterSwitch_kept (x1 s) : (enterSwitch x1 s).kept = s.kept := by simp [enterSwitch]
@[simp] theorem selectRef_kept (x1 s) : (selectRef x1 s).kept = s.kept := by
  unfold selectRef
  (repeat' split) <;> simp
@[simp] theorem refLost_kept (x1 s) : (refLost x1 s).kept = s.kept := by simp [refLost]
@[simp] theorem refTick_kept (x1 s x2) : (refTick x1 s x2).kept = s.kept := by simp [refTick]
@[simp] theorem inWindow_kept (x1 x2 s) : (inWindow x1 x2 s).kept = s.kept := by simp [inWindow]
@[simp] theorem dpllTurn_kept (s) : (dpllTurn s).kept = s.kept := by
  unfold dpllTurn
  repeat' first | split | simp
@[simp] theorem addSlew_kept (x1 s) : (addSlew x1 s).kept = s.kept := by simp [addSlew]
@[simp] theorem shiftExpected_kept (x1 s) : (shiftExpected x1 s).kept = s.kept := by simp [shiftExpected]
@[simp] theorem renumbered_kept (x1 s) : (renumbered x1 s).kept = s.kept := by simp [renumbered]
@[simp] theorem changeTime_kept (x1 s) : (changeTime x1 s).kept = s.kept := by simp [changeTime]
@[simp] theorem applyTime_kept (x1 s) : (applyTime x1 s).kept = s.kept := by
  unfold applyTime
  (repeat' split) <;> simp
@[simp] theorem slewTick_kept (s) : (slewTick s).kept = s.kept := by simp [slewTick]
@[simp] theorem outTick_kept (s x1) : (outTick s x1).kept = s.kept := by simp [outTick]
@[simp] theorem linkPut_kept (x1 x2 s) : (linkPut x1 x2 s).kept = s.kept := by simp [linkPut]
@[simp] theorem linkDrain_kept (x1 s) : (linkDrain x1 s).kept = s.kept := by simp [linkDrain]
@[simp] theorem linkQueue_kept (x1 x2 s) : (linkQueue x1 x2 s).kept = s.kept := by simp [linkQueue]
@[simp] theorem linkFill_kept (x1 s) : (linkFill x1 s).kept = s.kept := by simp [linkFill]
@[simp] theorem sendTime_kept (x1 s) : (sendTime x1 s).kept = s.kept := by simp [sendTime]
@[simp] theorem linkLost_kept (x1 x2 s) : (linkLost x1 x2 s).kept = s.kept := by simp [linkLost]
@[simp] theorem enterChain_kept (x1 s) : (enterChain x1 s).kept = s.kept := by simp [enterChain]
@[simp] theorem dropChain_kept (s) : (dropChain s).kept = s.kept := by simp [dropChain]
@[simp] theorem leaveChain_kept (s) : (leaveChain s).kept = s.kept := by
  unfold leaveChain
  repeat' first | split | simp
@[simp] theorem setMaster_kept (x1 s) : (setMaster x1 s).kept = s.kept := by
  unfold setMaster
  dsimp only
  split
  · rfl
  · generalize ht : List.foldl _ _ _ = t
    have k : t.kept = s.kept := by rw [← ht, foldl_kept_state (by intro s b; simp)]; rfl
    rw [← k]
    repeat' first | simp
@[simp] theorem masterTurn_kept (s) : (masterTurn s).kept = s.kept := by
  unfold masterTurn
  (repeat' split) <;> simp
@[simp] theorem chainReform_kept (s) : (chainReform s).kept = s.kept := by
  unfold chainReform
  repeat' first | split | simp
@[simp] theorem followNumber_kept (x1 s) : (followNumber x1 s).kept = s.kept := by
  unfold followNumber
  repeat' first | split | simp
@[simp] theorem linkTick_kept (s x1) : (linkTick s x1).kept = s.kept := by
  unfold linkTick
  repeat' first | split | simp
@[simp] theorem chainTick_kept (s) : (chainTick s).kept = s.kept := by
  unfold chainTick
  repeat' first | split | simp
@[simp] theorem baseTurn_kept (s) : (baseTurn s).kept = s.kept := by simp [baseTurn]
@[simp] theorem timBegin_kept (s) : (timBegin s).kept = s.kept := by simp [timBegin]
@[simp] theorem fcwTick_kept (x1 s) : (fcwTick x1 s).kept = s.kept := by simp [fcwTick]
@[simp] theorem timTick_kept (x1 s) : (timTick x1 s).kept = s.kept := by simp [timTick]
@[simp] theorem historyTick_kept (s) : (historyTick s).kept = s.kept := by simp [historyTick]
@[simp] theorem restartRef_kept (x1 s) : (restartRef x1 s).kept = s.kept := by simp [restartRef]
@[simp] theorem applyRef_kept (x1 x2 s) : (applyRef x1 x2 s).kept = s.kept := by simp [applyRef]
@[simp] theorem applyOut_kept (x1 x2 s) : (applyOut x1 x2 s).kept = s.kept := by simp [applyOut]
@[simp] theorem applyTim_kept (x1 s) : (applyTim x1 s).kept = s.kept := by
  unfold applyTim
  (repeat' split) <;> simp
@[simp] theorem toFallback_kept (s) : (toFallback s).kept = s.kept := by simp [toFallback]
@[simp] theorem toCloveFailed_kept (s) : (toCloveFailed s).kept = s.kept := by simp [toCloveFailed]
@[simp] theorem retireClv_kept (x1 s) : (retireClv x1 s).kept = s.kept := by simp [retireClv]
@[simp] theorem handleSuspect_kept (s x1) : (handleSuspect s x1).kept = s.kept := by simp [handleSuspect]
@[simp] theorem injTrigger_kept (x1 x2 x3 s) : (injTrigger x1 x2 x3 s).kept = s.kept := by simp [injTrigger]
@[simp] theorem syncNow_kept (x1 s) : (syncNow x1 s).kept = s.kept := by simp [syncNow]
@[simp] theorem syncArrives_kept (x1 s) : (syncArrives x1 s).kept = s.kept := by simp [syncArrives]
@[simp] theorem formRes_kept (x1 x2 x3 x4 s) : (formRes x1 x2 x3 x4 s).2.kept = s.kept := by simp [formRes]
@[simp] theorem takeRegular_kept (x1 x2 x3 x4 s) : (takeRegular x1 x2 x3 x4 s).kept = s.kept := by simp [takeRegular]
@[simp] theorem biasLimit_kept (x1 s) : (biasLimit x1 s).kept = s.kept := by simp [biasLimit]
@[simp] theorem biasUpdate_kept (x1 s) : (biasUpdate x1 s).kept = s.kept := by simp [biasUpdate]
@[simp] theorem biasTick_kept (s x1) : (biasTick s x1).kept = s.kept := by simp [biasTick]
@[simp] theorem cloveLeaveCal_kept (x1 x2 s) : (cloveLeaveCal x1 x2 s).kept = s.kept := by simp [cloveLeaveCal]
@[simp] theorem dwellTurn_kept (s) : (dwellTurn s).kept = s.kept := by
  unfold dwellTurn
  (repeat' split) <;> simp
@[simp] theorem cloveTick_kept (s) : (cloveTick s).kept = s.kept := by
  unfold cloveTick
  (repeat' split) <;> simp
@[simp] theorem cloveAfterApply_kept (s) : (cloveAfterApply s).kept = s.kept := by simp [cloveAfterApply]
@[simp] theorem detPost_kept (s x1) : (detPost s x1).kept = s.kept := by simp [detPost]
@[simp] theorem clovePost_kept (s) : (clovePost s).kept = s.kept := by simp [clovePost]
@[simp] theorem injStepEnd_kept (x1 x2 s) : (injStepEnd x1 x2 s).kept = s.kept := by simp [injStepEnd]
@[simp] theorem regStepEnd_kept (x1 x2 s) : (regStepEnd x1 x2 s).kept = s.kept := by simp [regStepEnd]
@[simp] theorem applyClv_kept (x1 s) : (applyClv x1 s).kept = s.kept := by
  unfold applyClv
  (repeat' split) <;> simp
@[simp] theorem cntSnapshot_kept (s) : (cntSnapshot s).kept = s.kept := by simp [cntSnapshot]
@[simp] theorem dumpTick_kept (s) : (dumpTick s).kept = s.kept := by simp [dumpTick]
@[simp] theorem dumpStop_kept (s) : (dumpStop s).kept = s.kept := by simp [dumpStop]
@[simp] theorem applyUwin_kept (x1 s) : (applyUwin x1 s).kept = s.kept := by simp [applyUwin]
@[simp] theorem applyCnt_kept (x1 s) : (applyCnt x1 s).kept = s.kept := by
  unfold applyCnt
  (repeat' split) <;> simp
@[simp] theorem toBoot_kept (x1 s) : (toBoot x1 s).kept = s.kept := by simp [toBoot]
@[simp] theorem bootErr_kept (x1 s) : (bootErr x1 s).kept = s.kept := by simp [bootErr]
@[simp] theorem bootLog_kept (x1 s) : (bootLog x1 s).kept = s.kept := by simp [bootLog]
@[simp] theorem ringHalt_kept (x1 x2 s) : (ringHalt x1 x2 s).kept = s.kept := by simp [ringHalt]
@[simp] theorem postReply_kept (x1 x2 s) : (postReply x1 x2 s).kept = s.kept := by simp [postReply]
@[simp] theorem ringCtl_kept (x1 x2 s) : (ringCtl x1 x2 s).kept = s.kept := by simp [ringCtl]
@[simp] theorem sendMsg_kept (x1 x2 x3 x4 s) : (sendMsg x1 x2 x3 x4 s).kept = s.kept := by simp [sendMsg]
@[simp] theorem sendReply_kept (x1 x2 x3 s) : (sendReply x1 x2 x3 s).kept = s.kept := by simp [sendReply]
@[simp] theorem finishEnt_kept (x1 x2 s) : (finishEnt x1 x2 s).kept = s.kept := by simp [finishEnt]
@[simp] theorem takeMsg_kept (x1 s) : (takeMsg x1 s).kept = s.kept := by simp [takeMsg]
@[simp] theorem takeFrag_kept (x1 x2 x3 x4 x5 x6 x7 s) : (takeFrag x1 x2 x3 x4 x5 x6 x7 s).kept = s.kept := by
  unfold takeFrag
  repeat' first | split | simp
@[simp] theorem answerFaulted_kept (x1 s) : (answerFaulted x1 s).kept = s.kept := by
  unfold answerFaulted
  (repeat' split) <;> simp
@[simp] theorem restartRing_kept (x1 s) : (restartRing x1 s).kept = s.kept := by simp [restartRing]
@[simp] theorem cpRestart_kept (s) : (cpRestart s).kept = s.kept := by simp [cpRestart]
@[simp] theorem hostSideReset_kept (s) : (hostSideReset s).kept = s.kept := by simp [hostSideReset]
@[simp] theorem endpointReset_kept (s) : (endpointReset s).kept = s.kept := by simp [endpointReset]
theorem logTake_keeps {b} (n es) (a : State × List LogEnt × Nat) (h : Keeps b a.1.kept) : Keeps b (logTake n es a).1.kept := by
  induction es generalizing a with
  | nil => exact h
  | cons e es ih =>
    rcases a with ⟨s, got, bad⟩
    unfold logTake
    split
    · exact h
    · exact ih _ (sramUse_keeps _ _ _ _ h)
@[simp] theorem cmdTick_kept (s) : (cmdTick s).kept = s.kept := by simp [cmdTick]
@[simp] theorem takeStatus_kept (x1 x2 s) : (takeStatus x1 x2 s).kept = s.kept := by simp [takeStatus]
@[simp] theorem powerCheck_kept (s) : (powerCheck s).kept = s.kept := by simp [powerCheck]
@[simp] theorem avsCheck_kept (x1 s) : (avsCheck x1 s).kept = s.kept := by simp [avsCheck]
@[simp] theorem tempCheck_kept (x1 s) : (tempCheck x1 s).kept = s.kept := by
  unfold tempCheck
  (repeat' split) <;> simp
@[simp] theorem railCheck_kept (x1 s) : (railCheck x1 s).kept = s.kept := by
  unfold railCheck
  (repeat' split) <;> simp
@[simp] theorem supUse_kept (x1 s) : (supUse x1 s).kept = s.kept := by simp [supUse]
@[simp] theorem enterPwr_kept (x1 s) : (enterPwr x1 s).kept = s.kept := by simp [enterPwr]
@[simp] theorem startLine_kept (x1 s) : (startLine x1 s).kept = s.kept := by simp [startLine]
@[simp] theorem lineSilent_kept (x1 s) : (lineSilent x1 s).kept = s.kept := by simp [lineSilent]
@[simp] theorem p2Run_kept (x1 s) : (p2Run x1 s).kept = s.kept := by
  unfold p2Run
  (repeat' split) <;> simp
@[simp] theorem p2Turn_kept (s) : (p2Turn s).kept = s.kept := by
  unfold p2Turn
  (repeat' split) <;> simp
@[simp] theorem safeAction_kept (s) : (safeAction s).kept = s.kept := by
  unfold safeAction
  (repeat' split) <;> simp
@[simp] theorem operationP3_kept (x1 s) : (operationP3 x1 s).kept = s.kept := by simp [operationP3]
theorem enterP3_keeps {a} (s) (h : Keeps a s.kept) : Keeps a (enterP3 s).kept := by
  unfold enterP3
  dsimp only
  rw [operationP3_kept, enterPwr_kept, State.onPwr_kept rfl rfl, State.each_kept (by intro s x; simp)]
  have k : Keeps a (dumpStop (toSett .off (leaveReady { s with ecc := { s.ecc with saved := sparesToSave s } }))).kept := by simpa using h
  generalize dumpStop _ = t at k ⊢
  exact k.trans ⟨rfl, Nat.le_refl _, fun _ h => h, fun g => ⟨rfl, g.2⟩, .inl rfl⟩
@[simp] theorem leaveP2_kept (x1 x2 s) : (leaveP2 x1 x2 s).kept = s.kept := by simp [leaveP2]
@[simp] theorem p2Left_kept (s) : (p2Left s).kept = s.kept := by simp [p2Left]
@[simp] theorem changeLines_kept (x1 x2 s) : (changeLines x1 x2 s).kept = s.kept := by simp [changeLines]
theorem applyPwrState_keeps {a} (x1 x2 s) (h : Keeps a s.kept) : Keeps a (applyPwrState x1 x2 s).kept := by
  unfold applyPwrState
  dsimp only
  split
  · exact h
  · split
    · exact enterP3_keeps _ (by simpa using h)
    · simpa using h
    · simpa using h
  · split <;> simpa using h
  · split <;> simpa using h
theorem changeTurn_keeps {a} (s) (h : Keeps a s.kept) : Keeps a (changeTurn s).kept := by
  unfold changeTurn
  repeat' first | assumption | with_reducible apply applyPwrState_keeps | split
theorem pwrTick_keeps {a} (s) (h : Keeps a s.kept) : Keeps a (pwrTick s).kept := by
  unfold pwrTick
  repeat' first | assumption | intro _ | with_reducible apply changeTurn_keeps | with_reducible apply And.intro | simp
theorem applyPwr_keeps {a} (x1 s) (h : Keeps a s.kept) : Keeps a (applyPwr x1 s).kept := by
  unfold applyPwr
  repeat' first | assumption | with_reducible apply applyPwrState_keeps | simp | split
theorem resetBlocks_keeps {a} (s) (h : Keeps a s.kept) : Keeps a (resetBlocks s).kept :=
  h.trans ⟨rfl, Nat.le_refl _, fun _ h => h, fun _ => ⟨rfl, rfl, Nat.zero_le _⟩, .inr rfl⟩
theorem deviceReset_keeps {a} (x1 s) (h : Keeps a s.kept) : Keeps a (deviceReset x1 s).kept := by
  unfold deviceReset
  repeat' first | assumption | with_reducible apply resetBlocks_keeps | simp
@[simp] theorem romSpares_kept (s) : (romSpares s).kept = s.kept := by simp [romSpares]
theorem p3Restart_keeps {a} (s) (h : Keeps a s.kept) : Keeps a (p3Restart s).kept := by
  unfold p3Restart
  dsimp only
  rw [State.each_kept (by intro s x; simp)]
  have w : (eccRestart s.ecc).sram.wf = true :=
    foldl_wf rfl fun t x ht => by split <;> first | exact Table.wf_set ht _ _ | exact ht
  exact h.trans ⟨rfl, Nat.le_refl _, fun _ h => h, fun g => ⟨rfl, w, g.2.2⟩, .inl rfl⟩
@[simp] theorem firstLatch_kept (x1 x2 s) : (firstLatch x1 x2 s).kept = s.kept := by simp [firstLatch]
@[simp] theorem broadcast_kept (x1 x2 s) : (broadcast x1 x2 s).kept = s.kept := by simp [broadcast]
theorem actionEffect_keeps {a} (x1 s) (h : Keeps a s.kept) : Keeps a (actionEffect x1 s).kept := by
  unfold actionEffect
  repeat' first | assumption | with_reducible apply deviceReset_keeps | simp | split
theorem takeAction_keeps {a} (x1 x2 s) (h : Keeps a s.kept) : Keeps a (takeAction x1 x2 s).kept := by
  unfold takeAction
  repeat' first | assumption | with_reducible apply actionEffect_keeps | simp
theorem react_keeps {a} (x1 x2 x3 s) (h : Keeps a s.kept) : Keeps a (react x1 x2 x3 s).kept := by
  unfold react
  repeat' first | assumption | with_reducible apply takeAction_keeps | simp | split
theorem raiseFs_keeps {a} (x1 x2 x3 s) (h : Keeps a s.kept) : Keeps a (raiseFs x1 x2 x3 s).kept := by
  unfold raiseFs
  repeat' first | assumption | intro _ | with_reducible apply react_keeps | with_reducible apply And.intro | simp
@[simp] theorem applyFlt_kept (x1 s) : (applyFlt x1 s).kept = s.kept := by
  unfold applyFlt
  (repeat' split) <;> simp
@[simp] theorem fltTick_kept (s) : (fltTick s).kept = s.kept := by simp [fltTick]
@[simp] theorem formDelta_kept (x1 s) : (formDelta x1 s).kept = s.kept := by simp [formDelta]
@[simp] theorem stageDelta_kept (x1 s) : (stageDelta x1 s).kept = s.kept := by simp [stageDelta]
@[simp] theorem addSample_kept (x1 x2 x3 s) : (addSample x1 x2 x3 s).kept = s.kept := by simp [addSample]
@[simp] theorem takeTT_kept (x1 x2 x3 s) : (takeTT x1 x2 x3 s).kept = s.kept := by simp [takeTT]
@[simp] theorem steerBy_kept (x1 x2 x3 x4 s) : (steerBy x1 x2 x3 x4 s).kept = s.kept := by simp [steerBy]
@[simp] theorem chooseLine_kept (x1 x2 s) : (chooseLine x1 x2 s).kept = s.kept := by simp [chooseLine]
@[simp] theorem deliverCell_kept (x1 x2 x3 x4 s) : (deliverCell x1 x2 x3 x4 s).kept = s.kept := by simp [deliverCell]
@[simp] theorem sendBurst_kept (x1 x2 x3 x4 x5 x6 x7 x8 s) : (sendBurst x1 x2 x3 x4 x5 x6 x7 x8 s).kept = s.kept := by simp [sendBurst]
@[simp] theorem mcSample_kept (x1 x2 x3 s) : (mcSample x1 x2 x3 s).kept = s.kept := by simp [mcSample]
@[simp] theorem mailPayload_kept (x1 x2 x3 s) : (mailPayload x1 x2 x3 s).kept = s.kept := by simp [mailPayload]
@[simp] theorem leafTakes_kept (x1 x2 x3 s) : (leafTakes x1 x2 x3 s).kept = s.kept := by simp [leafTakes]
@[simp] theorem hubTakesLeaf_kept (x1 x2 x3 x4 x5 s) : (hubTakesLeaf x1 x2 x3 x4 x5 s).kept = s.kept := by simp [hubTakesLeaf]
@[simp] theorem takeBurst_kept (x1 x2 x3 s) : (takeBurst x1 x2 x3 s).kept = s.kept := by simp [takeBurst]
@[simp] theorem marSeen_kept (s) : (marSeen s).kept = s.kept := by simp [marSeen]
theorem marLineTick_keeps {a} (x1 s x2) (h : Keeps a s.kept) : Keeps a (marLineTick x1 s x2).kept := by
  unfold marLineTick
  repeat' first | assumption
theorem marTick_keeps {a} (x1 s) (h : Keeps a s.kept) : Keeps a (marTick x1 s).kept := by
  unfold marTick
  repeat' first | assumption | intro _ | with_reducible apply And.intro | simp
theorem applyAsymCal_keeps {a} (x1 x2 s) (h : Keeps a s.kept) : Keeps a (applyAsymCal x1 x2 s).kept := by
  unfold applyAsymCal
  repeat' first | assumption | simp
@[simp] theorem applyMc_kept (x1 x2 s) : (applyMc x1 x2 s).kept = s.kept := by simp [applyMc]
theorem applyMar_keeps {a} (x1 s) (h : Keeps a s.kept) : Keeps a (applyMar x1 s).kept := by
  unfold applyMar
  repeat' first | assumption | intro _ | with_reducible apply applyAsymCal_keeps | with_reducible apply And.intro | simp | split
@[simp] theorem setDstate_kept (x1 x2 s) : (setDstate x1 x2 s).kept = s.kept := by simp [setDstate]
@[simp] theorem updateDstate_kept (x1 s) : (updateDstate x1 s).kept = s.kept := by simp [updateDstate]
@[simp] theorem clearStage_kept (s) : (clearStage s).kept = s.kept := by simp [clearStage]
theorem setMark_keeps {a} (x1 x2 s) (h : Keeps a s.kept) : Keeps a (setMark x1 x2 s).kept := by
  unfold setMark
  repeat' first | assumption | intro _ | with_reducible apply closeCell_keeps | with_reducible apply And.intro | simp
theorem keyUncorrectable_keeps {a} (x1 x2 s) (h : Keeps a s.kept) : Keeps a (keyUncorrectable x1 x2 s).kept := by
  unfold keyUncorrectable
  repeat' first | assumption | intro _ | with_reducible apply each_keeps | with_reducible apply sramWrite_keeps | simp
theorem writeHalf_keeps {a} (x1 x2 s) (h : Keeps a s.kept) : Keeps a (writeHalf x1 x2 s).kept := by
  unfold writeHalf
  repeat' first | assumption | intro _ | with_reducible apply keyUncorrectable_keeps | with_reducible apply sramUse_keeps | with_reducible apply sramWrite_keeps | with_reducible apply And.intro | split
theorem writePair_keeps {a} (x1 x2 s) (h : Keeps a s.kept) : Keeps a (writePair x1 x2 s).kept := by
  unfold writePair
  repeat' first | assumption | with_reducible apply sramWrite_keeps
theorem readHalf_keeps {a} (x1 x2 s) (h : Keeps a s.kept) : Keeps a (readHalf x1 x2 s).kept := by
  unfold readHalf
  repeat' first | assumption | intro _ | with_reducible apply keyUncorrectable_keeps | with_reducible apply sramUse_keeps | with_reducible apply And.intro | simp
theorem clearSa_keeps {a} (x1 s) (h : Keeps a s.kept) : Keeps a (clearSa x1 s).kept := by
  unfold clearSa
  repeat' first | assumption | with_reducible apply setMark_keeps | with_reducible apply sramWrite_keeps | simp
theorem applySa_keeps {a} (x1 s) (h : Keeps a s.kept) : Keeps a (applySa x1 s).kept := by
  unfold applySa
  repeat' first | assumption | intro _ | with_reducible apply clearSa_keeps | with_reducible apply readHalf_keeps | with_reducible apply setMark_keeps | with_reducible apply writeHalf_keeps | with_reducible apply writePair_keeps | with_reducible apply And.intro | simp | split
@[simp] theorem strike_kept (x1 s) : (strike x1 s).kept = s.kept := by simp [strike]
@[simp] theorem mismatched_kept (x1 x2 x3 s) : (mismatched x1 x2 x3 s).kept = s.kept := by simp [mismatched]
@[simp] theorem fencePipe_kept (x1 s) : (fencePipe x1 s).kept = s.kept := by simp [fencePipe]
@[simp] theorem issuePn_kept (x1 s) : (issuePn x1 s).kept = s.kept := by simp [issuePn]
@[simp] theorem resumeLane_kept (x1 x2 x3 s) : (resumeLane x1 x2 x3 s).kept = s.kept := by simp [resumeLane]
@[simp] theorem takeFrame_kept (x1 x2 x3 s) : (takeFrame x1 x2 x3 s).kept = s.kept := by simp [takeFrame]
theorem encryptFrame_keeps {a} (x1 x2 s) (h : Keeps a s.kept) : Keeps a (encryptFrame x1 x2 s).kept := by
  unfold encryptFrame
  dsimp only
  split
  · simpa using h
  split
  · simpa using h
  split
  · simpa using h
  split
  · exact buildCells_keeps _ _ _ (by simpa using h)
  split
  · simpa using h
  have k := readHalf_keeps x2.flow 0 s h
  generalize readHalf x2.flow 0 s = t at k ⊢
  split
  · simpa using k
  split
  · simpa using k
  · exact buildCells_keeps _ _ _ (by simpa using k)
@[simp] theorem keyMove_kept (x1 x2 x3 s) : (keyMove x1 x2 x3 s).kept = s.kept := by simp [keyMove]
@[simp] theorem acceptRx_kept (x1 x2 x3 s) : (acceptRx x1 x2 x3 s).kept = s.kept := by simp [acceptRx]
@[simp] theorem authFail_kept (x1 s) : (authFail x1 s).kept = s.kept := by simp [authFail]
theorem receiveFrame_keeps {a} (x1 x2 s) (h : Keeps a s.kept) : Keeps a (receiveFrame x1 x2 s).kept := by
  unfold receiveFrame
  repeat' first | assumption | intro _ | with_reducible apply readHalf_keeps | with_reducible apply And.intro | simp
theorem zeroiseAll_keeps {a} (s) (h : Keeps a s.kept) : Keeps a (zeroiseAll s).kept := by
  unfold zeroiseAll
  repeat' first | assumption | intro _ | with_reducible apply each_keeps | with_reducible apply clearSa_keeps | simp
theorem markTick_keeps {a} (x1 s) (h : Keeps a s.kept) : Keeps a (markTick x1 s).kept := by
  unfold markTick
  repeat' first | assumption | intro _ | with_reducible apply setMark_keeps | with_reducible apply And.intro | simp
theorem nutTick_keeps {a} (s) (h : Keeps a s.kept) : Keeps a (nutTick s).kept := by
  unfold nutTick
  repeat' first | assumption | intro _ | with_reducible apply each_keeps | with_reducible apply when_keeps | with_reducible apply markTick_keeps | with_reducible apply zeroiseAll_keeps | simp
theorem applyItem_keeps {a} (x1 s) (h : Keeps a s.kept) : Keeps a (applyItem x1 s).kept := by
  unfold applyItem
  repeat' first | assumption | with_reducible apply applyClient_keeps | with_reducible apply applyMar_keeps | with_reducible apply applyPwr_keeps | with_reducible apply applySa_keeps | with_reducible apply applySett_keeps | simp | split
@[simp] theorem startImage_kept (x1 x2 s) : (startImage x1 x2 s).kept = s.kept := by simp [startImage]
@[simp] theorem rejectTable_kept (x1 x2 s) : (rejectTable x1 x2 s).kept = s.kept := by simp [rejectTable]
@[simp] theorem setExpo_kept (x1 s) : (setExpo x1 s).kept = s.kept := by simp [setExpo]
@[simp] theorem settle_kept (x1 x2 x3 x4 s) : (settle x1 x2 x3 x4 s).kept = s.kept := by simp [settle]
@[simp] theorem regRead_kept (x1 x2 s) : (regRead x1 x2 s).kept = s.kept := by
  unfold regRead
  (repeat' split) <;> simp
@[simp] theorem lineWrite_kept (x1 x2 x3 s) : (lineWrite x1 x2 x3 s).kept = s.kept := by
  unfold lineWrite
  (repeat' split) <;> simp
@[simp] theorem blockWrite_kept (x1 x2 x3 s) : (blockWrite x1 x2 x3 s).kept = s.kept := by
  unfold blockWrite
  (repeat' split) <;> simp
@[simp] theorem faultWrite_kept (x1 x2 s) : (faultWrite x1 x2 s).kept = s.kept := by simp [faultWrite]
@[simp] theorem cmdWrite_kept (x1 x2 s) : (cmdWrite x1 x2 s).kept = s.kept := by
  unfold cmdWrite
  (repeat' split) <;> simp
@[simp] theorem globalWrite_kept (x1 x2 s) : (globalWrite x1 x2 s).kept = s.kept := by simp [globalWrite]
@[simp] theorem regWrite_kept (x1 x2 s) : (regWrite x1 x2 s).kept = s.kept := by
  unfold regWrite
  (repeat' split) <;> simp

end Sys2Proof.Machine
end

