-- ==== Sys2Proof/Laws/KeptCommands.lean ====
section
/-! SUPPORT. What the rules of each ring command do: cmd_stages where it only stages items, cmd_reads where it changes nothing, cmd_keeps for the rest. -/

namespace Sys2Proof.Machine

/-- What the outcomes of a command's own rules may leave. -/
def CmdRes.Yields (P : State → Prop) : CmdRes → Prop
  | .fail .. => True
  | .done t _ => P t
  | .accept t _ => P t
  | .full .. => False
  | .capture t _ => P t

theorem yields_need {P b st n k} (h : b = true → CmdRes.Yields P k) : CmdRes.Yields P (need b st n k) := by
  unfold need; split
  · exact h ‹_›
  · trivial
theorem yields_needLen {P ws n k} (h : CmdRes.Yields P k) : CmdRes.Yields P (needLen ws n k) := yields_need fun _ => h
theorem yields_needFree {P s it n k} (h : CmdRes.Yields P k) : CmdRes.Yields P (needFree s it n k) := yields_need fun _ => h
theorem yields_needIdle {P s k} (h : CmdRes.Yields P k) : CmdRes.Yields P (needIdle s k) := yields_need fun _ => h
theorem yields_needReady {P s k} (h : CmdRes.Yields P k) : CmdRes.Yields P (needReady s k) := yields_need fun _ => h
theorem yields_stageOne {P : State → Prop} {s it n op ws} (h : P (s.stage it n op ws)) : CmdRes.Yields P (stageOne s it n op ws) := yields_needFree h
theorem yields_done {P : State → Prop} {t d} (h : P t) : CmdRes.Yields P (.done t d) := h
theorem yields_accept {P : State → Prop} {t d} (h : P t) : CmdRes.Yields P (.accept t d) := h
theorem yields_capture {P : State → Prop} {t d} (h : P t) : CmdRes.Yields P (.capture t d) := h
theorem yields_fail {P : State → Prop} {st a} : CmdRes.Yields P (.fail st a) := trivial

/-- New items are staged and nothing else changes. -/
def Stages (s t : State) : Prop := ∃ new, t = { s with tick := { s.tick with staged := s.tick.staged ++ new } }
theorem stages_rfl (s) : Stages s s := ⟨[], by simp⟩
theorem stages_stage {r s it n op ws} (h : Stages r s) : Stages r (s.stage it n op ws) := by
  obtain ⟨new, rfl⟩ := h
  exact ⟨new ++ [{ item := it, idx := n, op := op, ws := ws }], by simp [State.stage]⟩
theorem stages_each {α r s} {xs : List α} {f : State → α → State} (h : Stages r s) (hf : ∀ s x, Stages r s → Stages r (f s x)) : Stages r (s.each xs f) := by
  unfold State.each
  induction xs generalizing s with
  | nil => exact h
  | cons x xs ih => exact ih (hf s x h)

theorem putBit_true_mono {n : Nat} (b : BitVec n) (i k : Nat) (h : b.getLsbD k = true) : (putBit b i true).getLsbD k = true := by
  simp [putBit, h]
theorem cmdSysNop_reads (h ws s) : (cmdSysNop h ws s).Yields ((· = s)) := by
  unfold cmdSysNop
  repeat' first | with_reducible apply yields_done | dsimp only
theorem cmdSysIdentify_reads (h ws s) : (cmdSysIdentify h ws s).Yields ((· = s)) := by
  unfold cmdSysIdentify
  repeat' first | with_reducible apply yields_needLen | with_reducible apply yields_done | dsimp only
theorem cmdSysResultRelease_keeps (h ws s) : (cmdSysResultRelease h ws s).Yields (fun t => Keeps s.kept t.kept) := by
  unfold cmdSysResultRelease
  repeat' first | intro _ | with_reducible exact Keeps.rfl | simp | exact yields_fail | with_reducible apply yields_needLen | with_reducible apply yields_need | with_reducible apply yields_done | split
theorem cmdSysBootCfg_keeps (h ws s) : (cmdSysBootCfg h ws s).Yields (fun t => Keeps s.kept t.kept) := by
  unfold cmdSysBootCfg
  repeat' first | intro _ | with_reducible exact Keeps.rfl | simp | with_reducible apply yields_need | with_reducible apply yields_done | with_reducible apply yields_accept | split
theorem cmdSysReset_keeps (h ws s) : (cmdSysReset h ws s).Yields (fun t => Keeps s.kept t.kept) := by
  unfold cmdSysReset
  repeat' first | intro _ | with_reducible exact Keeps.rfl | simp | with_reducible apply yields_needLen | with_reducible apply yields_need | with_reducible apply yields_done
theorem cmdFwStage_keeps (h ws s) : (cmdFwStage h ws s).Yields (fun t => Keeps s.kept t.kept) := by
  unfold cmdFwStage
  repeat' first | intro _ | with_reducible exact Keeps.rfl | simp | with_reducible apply yields_need | with_reducible apply yields_done | split
theorem cmdFwActivate_keeps (h ws s) : (cmdFwActivate h ws s).Yields (fun t => Keeps s.kept t.kept) := by
  unfold cmdFwActivate
  repeat' first | intro _ | with_reducible exact Keeps.rfl | with_reducible apply yields_needLen | with_reducible apply yields_need | with_reducible apply yields_accept
theorem cmdFwFuse_keeps (h ws s) : (cmdFwFuse h ws s).Yields (fun t => Keeps s.kept t.kept) := by
  unfold cmdFwFuse
  dsimp only
  apply yields_needLen
  split
  · refine yields_need fun _ => yields_done ⟨rfl, Nat.le_refl _, fun k hk => ?_, id, .inl rfl⟩
    exact putBit_true_mono _ _ _ hk
  · refine yields_need fun g => yields_done ⟨rfl, ?_, fun _ hk => hk, id, .inl rfl⟩
    simp only [Bool.and_eq_true, decide_eq_true_eq] at g
    exact Nat.le_of_lt g.1.2
theorem cmdFwInfo_reads (h ws s) : (cmdFwInfo h ws s).Yields ((· = s)) := by
  unfold cmdFwInfo
  repeat' first | with_reducible apply yields_needLen | with_reducible apply yields_done | dsimp only
theorem cmdLineConvSet_stages (h ws s) : (cmdLineConvSet h ws s).Yields (Stages s) := by
  unfold cmdLineConvSet
  repeat' first | intro _ | with_reducible exact stages_rfl _ | with_reducible apply stages_stage | with_reducible apply yields_needLen | with_reducible apply yields_stageOne | with_reducible apply yields_need
theorem cmdLineConvCal_stages (h ws s) : (cmdLineConvCal h ws s).Yields (Stages s) := by
  unfold cmdLineConvCal
  repeat' first | intro _ | with_reducible exact stages_rfl _ | with_reducible apply stages_stage | with_reducible apply yields_needLen | with_reducible apply yields_needFree | with_reducible apply yields_need | with_reducible apply yields_accept
theorem cmdLineConvBgcal_stages (h ws s) : (cmdLineConvBgcal h ws s).Yields (Stages s) := by
  unfold cmdLineConvBgcal
  repeat' first | intro _ | assumption | with_reducible exact stages_rfl _ | with_reducible apply stages_stage | with_reducible apply stages_each | with_reducible apply yields_needLen | with_reducible apply yields_need | with_reducible apply yields_done
theorem cmdLineConvStatus_reads (h ws s) : (cmdLineConvStatus h ws s).Yields ((· = s)) := by
  unfold cmdLineConvStatus
  repeat' first | intro _ | with_reducible apply yields_needLen | with_reducible apply yields_need | with_reducible apply yields_done | dsimp only
theorem cmdLineConvRetire_stages (h ws s) : (cmdLineConvRetire h ws s).Yields (Stages s) := by
  unfold cmdLineConvRetire
  repeat' first | intro _ | with_reducible exact stages_rfl _ | with_reducible apply stages_stage | with_reducible apply yields_needLen | with_reducible apply yields_stageOne | with_reducible apply yields_need | split
theorem cmdLineScCfg_stages (h ws s) : (cmdLineScCfg h ws s).Yields (Stages s) := by
  unfold cmdLineScCfg
  repeat' first | intro _ | with_reducible exact stages_rfl _ | with_reducible apply stages_stage | with_reducible apply yields_needLen | with_reducible apply yields_stageOne | with_reducible apply yields_need
theorem cmdLineLoadSet_stages (h ws s) : (cmdLineLoadSet h ws s).Yields (Stages s) := by
  unfold cmdLineLoadSet
  repeat' first | intro _ | assumption | with_reducible exact stages_rfl _ | with_reducible apply stages_stage | with_reducible apply stages_each | with_reducible apply yields_needLen | with_reducible apply yields_need | with_reducible apply yields_done
theorem cmdLineEqLoad_keeps (h ws s) : (cmdLineEqLoad h ws s).Yields (fun t => Keeps s.kept t.kept) := by
  unfold cmdLineEqLoad
  repeat' first | intro _ | with_reducible exact Keeps.rfl | simp | with_reducible apply yields_needLen | with_reducible apply yields_need | with_reducible apply yields_done
theorem cmdLineRxCfg_stages (h ws s) : (cmdLineRxCfg h ws s).Yields (Stages s) := by
  unfold cmdLineRxCfg
  repeat' first | intro _ | with_reducible exact stages_rfl _ | with_reducible apply stages_stage | with_reducible apply yields_needLen | with_reducible apply yields_stageOne | with_reducible apply yields_need
theorem cmdLineRxAcq_stages (h ws s) : (cmdLineRxAcq h ws s).Yields (Stages s) := by
  unfold cmdLineRxAcq
  repeat' first | intro _ | with_reducible exact stages_rfl _ | with_reducible apply stages_stage | with_reducible apply yields_needLen | with_reducible apply yields_stageOne | with_reducible apply yields_need
theorem cmdLineEqRead_reads (h ws s) : (cmdLineEqRead h ws s).Yields ((· = s)) := by
  unfold cmdLineEqRead
  repeat' first | intro _ | exact yields_fail | with_reducible apply yields_needLen | with_reducible apply yields_need | with_reducible apply yields_done | split | dsimp only
theorem cmdLineFecCfg_stages (h ws s) : (cmdLineFecCfg h ws s).Yields (Stages s) := by
  unfold cmdLineFecCfg
  repeat' first | intro _ | with_reducible exact stages_rfl _ | with_reducible apply stages_stage | with_reducible apply yields_needLen | with_reducible apply yields_stageOne | with_reducible apply yields_need
theorem cmdLineHdrMsg_stages (h ws s) : (cmdLineHdrMsg h ws s).Yields (Stages s) := by
  unfold cmdLineHdrMsg
  repeat' first | intro _ | with_reducible exact stages_rfl _ | with_reducible apply stages_stage | with_reducible apply yields_needLen | with_reducible apply yields_stageOne | with_reducible apply yields_need
theorem cmdClientLaneCfg_stages (h ws s) : (cmdClientLaneCfg h ws s).Yields (Stages s) := by
  unfold cmdClientLaneCfg
  repeat' first | intro _ | assumption | with_reducible exact stages_rfl _ | with_reducible apply stages_stage | with_reducible apply stages_each | with_reducible apply yields_needLen | with_reducible apply yields_need | with_reducible apply yields_done
theorem cmdClientLaneRaw_stages (h ws s) : (cmdClientLaneRaw h ws s).Yields (Stages s) := by
  unfold cmdClientLaneRaw
  repeat' first | intro _ | with_reducible exact stages_rfl _ | with_reducible apply stages_stage | with_reducible apply yields_needLen | with_reducible apply yields_stageOne | with_reducible apply yields_need
theorem cmdClientLaneRead_reads (h ws s) : (cmdClientLaneRead h ws s).Yields ((· = s)) := by
  unfold cmdClientLaneRead
  repeat' first | intro _ | with_reducible apply yields_needLen | with_reducible apply yields_need | with_reducible apply yields_done | with_reducible apply yields_capture | split | dsimp only
theorem cmdClientPortCfg_stages (h ws s) : (cmdClientPortCfg h ws s).Yields (Stages s) := by
  unfold cmdClientPortCfg
  repeat' first | intro _ | with_reducible exact stages_rfl _ | with_reducible apply stages_stage | with_reducible apply yields_needLen | with_reducible apply yields_stageOne | with_reducible apply yields_need
theorem cmdClientPfcCfg_stages (h ws s) : (cmdClientPfcCfg h ws s).Yields (Stages s) := by
  unfold cmdClientPfcCfg
  repeat' first | intro _ | with_reducible exact stages_rfl _ | with_reducible apply stages_stage | with_reducible apply yields_needLen | with_reducible apply yields_stageOne | with_reducible apply yields_need
theorem cmdClientRefSel_stages (h ws s) : (cmdClientRefSel h ws s).Yields (Stages s) := by
  unfold cmdClientRefSel
  repeat' first | intro _ | with_reducible exact stages_rfl _ | with_reducible apply stages_stage | with_reducible apply yields_needLen | with_reducible apply yields_stageOne | with_reducible apply yields_need
theorem cmdClientTsAdj_stages (h ws s) : (cmdClientTsAdj h ws s).Yields (Stages s) := by
  unfold cmdClientTsAdj
  repeat' first | intro _ | with_reducible exact stages_rfl _ | with_reducible apply stages_stage | with_reducible apply yields_needLen | with_reducible apply yields_stageOne | with_reducible apply yields_need
theorem cmdClassKeySet_stages (h ws s) : (cmdClassKeySet h ws s).Yields (Stages s) := by
  unfold cmdClassKeySet
  repeat' first | intro _ | with_reducible exact stages_rfl _ | with_reducible apply stages_stage | with_reducible apply yields_needLen | with_reducible apply yields_needFree | with_reducible apply yields_need | with_reducible apply yields_done
theorem cmdFlowSet_stages (h ws s) : (cmdFlowSet h ws s).Yields (Stages s) := by
  unfold cmdFlowSet
  repeat' first | intro _ | assumption | with_reducible exact stages_rfl _ | with_reducible apply stages_stage | with_reducible apply stages_each | with_reducible apply yields_needLen | with_reducible apply yields_need | with_reducible apply yields_done
theorem cmdFlowRead_reads (h ws s) : (cmdFlowRead h ws s).Yields ((· = s)) := by
  unfold cmdFlowRead
  repeat' first | intro _ | with_reducible apply yields_needLen | with_reducible apply yields_need | with_reducible apply yields_done | dsimp only
theorem cmdSaCfg_stages (h ws s) : (cmdSaCfg h ws s).Yields (Stages s) := by
  unfold cmdSaCfg
  repeat' first | intro _ | assumption | with_reducible exact stages_rfl _ | with_reducible apply stages_stage | with_reducible apply stages_each | with_reducible apply yields_needLen | with_reducible apply yields_needIdle | with_reducible apply yields_need | with_reducible apply yields_done
theorem cmdSaActivate_stages (h ws s) : (cmdSaActivate h ws s).Yields (Stages s) := by
  unfold cmdSaActivate
  repeat' first | intro _ | with_reducible exact stages_rfl _ | with_reducible apply stages_stage | with_reducible apply yields_needLen | with_reducible apply yields_needIdle | with_reducible apply yields_stageOne | with_reducible apply yields_need
theorem cmdSaRxPromote_stages (h ws s) : (cmdSaRxPromote h ws s).Yields (Stages s) := by
  unfold cmdSaRxPromote
  repeat' first | intro _ | with_reducible exact stages_rfl _ | with_reducible apply stages_stage | with_reducible apply yields_needLen | with_reducible apply yields_needIdle | with_reducible apply yields_stageOne | with_reducible apply yields_need
theorem cmdSaKeyClear_stages (h ws s) : (cmdSaKeyClear h ws s).Yields (Stages s) := by
  unfold cmdSaKeyClear
  repeat' first | intro _ | with_reducible exact stages_rfl _ | with_reducible apply stages_stage | with_reducible apply yields_needLen | with_reducible apply yields_needIdle | with_reducible apply yields_stageOne | with_reducible apply yields_need
theorem cmdSaStatus_reads (h ws s) : (cmdSaStatus h ws s).Yields ((· = s)) := by
  unfold cmdSaStatus
  repeat' first | intro _ | with_reducible apply yields_needLen | with_reducible apply yields_needIdle | with_reducible apply yields_need | with_reducible apply yields_done | dsimp only
theorem cmdSaPnAdvance_stages (h ws s) : (cmdSaPnAdvance h ws s).Yields (Stages s) := by
  unfold cmdSaPnAdvance
  repeat' first | intro _ | with_reducible exact stages_rfl _ | with_reducible apply stages_stage | with_reducible apply yields_needLen | with_reducible apply yields_needIdle | with_reducible apply yields_stageOne | with_reducible apply yields_need
theorem cmdNutInject_keeps (h ws s) : (cmdNutInject h ws s).Yields (fun t => Keeps s.kept t.kept) := by
  unfold cmdNutInject
  repeat' first | intro _ | with_reducible exact Keeps.rfl | with_reducible apply yields_needLen | with_reducible apply yields_needIdle | with_reducible apply yields_need | with_reducible apply yields_done
theorem cmdNutZeroise_keeps (h ws s) : (cmdNutZeroise h ws s).Yields (fun t => Keeps s.kept t.kept) := by
  unfold cmdNutZeroise
  repeat' first | with_reducible exact Keeps.rfl | simp | with_reducible apply yields_needLen | with_reducible apply yields_needIdle | with_reducible apply yields_accept
theorem cmdSettRegionCfg_stages (h ws s) : (cmdSettRegionCfg h ws s).Yields (Stages s) := by
  unfold cmdSettRegionCfg
  repeat' first | intro _ | with_reducible exact stages_rfl _ | with_reducible apply stages_stage | with_reducible apply yields_needLen | with_reducible apply yields_needReady | with_reducible apply yields_stageOne | with_reducible apply yields_need
theorem cmdSettClassSet_stages (h ws s) : (cmdSettClassSet h ws s).Yields (Stages s) := by
  unfold cmdSettClassSet
  repeat' first | intro _ | with_reducible exact stages_rfl _ | with_reducible apply stages_stage | with_reducible apply yields_needLen | with_reducible apply yields_needReady | with_reducible apply yields_stageOne | with_reducible apply yields_need
theorem cmdSettMergeSet_stages (h ws s) : (cmdSettMergeSet h ws s).Yields (Stages s) := by
  unfold cmdSettMergeSet
  repeat' first | intro _ | with_reducible exact stages_rfl _ | with_reducible apply stages_stage | exact yields_fail | with_reducible apply yields_needLen | with_reducible apply yields_needFree | with_reducible apply yields_needReady | with_reducible apply yields_need | with_reducible apply yields_done | split
theorem cmdSettMergeStatus_reads (h ws s) : (cmdSettMergeStatus h ws s).Yields ((· = s)) := by
  unfold cmdSettMergeStatus
  repeat' first | intro _ | with_reducible apply yields_needLen | with_reducible apply yields_need | with_reducible apply yields_done | dsimp only
theorem cmdSettArbSet_keeps (h ws s) : (cmdSettArbSet h ws s).Yields (fun t => Keeps s.kept t.kept) := by
  unfold cmdSettArbSet
  repeat' first | intro _ | with_reducible exact Keeps.rfl | simp | with_reducible apply yields_needLen | with_reducible apply yields_needReady | with_reducible apply yields_need | with_reducible apply yields_done
theorem cmdSettCapCfg_stages (h ws s) : (cmdSettCapCfg h ws s).Yields (Stages s) := by
  unfold cmdSettCapCfg
  repeat' first | intro _ | with_reducible exact stages_rfl _ | with_reducible apply stages_stage | with_reducible apply yields_needLen | with_reducible apply yields_needReady | with_reducible apply yields_stageOne | with_reducible apply yields_need
theorem cmdSettCapArm_stages (h ws s) : (cmdSettCapArm h ws s).Yields (Stages s) := by
  unfold cmdSettCapArm
  repeat' first | intro _ | with_reducible exact stages_rfl _ | with_reducible apply stages_stage | with_reducible apply yields_needLen | with_reducible apply yields_needReady | with_reducible apply yields_stageOne | with_reducible apply yields_need
theorem cmdSettCapRead_keeps (h ws s) : (cmdSettCapRead h ws s).Yields (fun t => Keeps s.kept t.kept) := by
  unfold cmdSettCapRead
  dsimp only
  refine yields_needLen (yields_need fun _ => yields_need fun _ => yields_needReady (yields_need fun _ => yields_done ?_))
  exact foldl_keeps_fst (by rw [State.each_kept (by intro s i; simp)]; exact Keeps.rfl) fun b x hb => readRecord_keeps _ _ hb
theorem cmdEccScrubCfg_stages (h ws s) : (cmdEccScrubCfg h ws s).Yields (Stages s) := by
  unfold cmdEccScrubCfg
  repeat' first | intro _ | with_reducible exact stages_rfl _ | with_reducible apply stages_stage | with_reducible apply yields_needLen | with_reducible apply yields_stageOne | with_reducible apply yields_need
theorem cmdEccSpareRead_reads (h ws s) : (cmdEccSpareRead h ws s).Yields ((· = s)) := by
  unfold cmdEccSpareRead
  repeat' first | intro _ | with_reducible apply yields_needLen | with_reducible apply yields_need | with_reducible apply yields_done | dsimp only
theorem cmdEccSpareLoad_keeps (h ws s) : (cmdEccSpareLoad h ws s).Yields (fun t => Keeps s.kept t.kept) := by
  unfold cmdEccSpareLoad
  repeat' first | intro _ | with_reducible exact Keeps.rfl | simp | with_reducible apply yields_needLen | with_reducible apply yields_need | with_reducible apply yields_accept
theorem cmdEccTestAccess_keeps (h ws s) : (cmdEccTestAccess h ws s).Yields (fun t => Keeps s.kept t.kept) := by
  unfold cmdEccTestAccess
  repeat' first | intro _ | with_reducible exact Keeps.rfl | with_reducible apply settRead_keeps | with_reducible apply settWrite_keeps | simp | with_reducible apply yields_needLen | with_reducible apply yields_need | with_reducible apply yields_done | split
theorem cmdTimRefCfg_stages (h ws s) : (cmdTimRefCfg h ws s).Yields (Stages s) := by
  unfold cmdTimRefCfg
  repeat' first | intro _ | with_reducible exact stages_rfl _ | with_reducible apply stages_stage | with_reducible apply yields_needLen | with_reducible apply yields_stageOne | with_reducible apply yields_need
theorem cmdTimDpllCfg_stages (h ws s) : (cmdTimDpllCfg h ws s).Yields (Stages s) := by
  unfold cmdTimDpllCfg
  repeat' first | intro _ | with_reducible exact stages_rfl _ | with_reducible apply stages_stage | with_reducible apply yields_needLen | with_reducible apply yields_stageOne | with_reducible apply yields_need
theorem cmdTimeSet_stages (h ws s) : (cmdTimeSet h ws s).Yields (Stages s) := by
  unfold cmdTimeSet
  repeat' first | intro _ | with_reducible exact stages_rfl _ | with_reducible apply stages_stage | with_reducible apply yields_needLen | with_reducible apply yields_stageOne | with_reducible apply yields_need
theorem cmdTimOutCfg_stages (h ws s) : (cmdTimOutCfg h ws s).Yields (Stages s) := by
  unfold cmdTimOutCfg
  repeat' first | intro _ | with_reducible exact stages_rfl _ | with_reducible apply stages_stage | with_reducible apply yields_needLen | with_reducible apply yields_stageOne | with_reducible apply yields_need
theorem cmdMartenLineCfg_stages (h ws s) : (cmdMartenLineCfg h ws s).Yields (Stages s) := by
  unfold cmdMartenLineCfg
  repeat' first | intro _ | with_reducible exact stages_rfl _ | with_reducible apply stages_stage | with_reducible apply yields_needLen | with_reducible apply yields_stageOne | with_reducible apply yields_need
theorem cmdMartenAsymCal_stages (h ws s) : (cmdMartenAsymCal h ws s).Yields (Stages s) := by
  unfold cmdMartenAsymCal
  repeat' first | intro _ | with_reducible exact stages_rfl _ | with_reducible apply stages_stage | with_reducible apply yields_stageOne | with_reducible apply yields_need
theorem cmdMartenSteer_stages (h ws s) : (cmdMartenSteer h ws s).Yields (Stages s) := by
  unfold cmdMartenSteer
  repeat' first | intro _ | with_reducible exact stages_rfl _ | with_reducible apply stages_stage | with_reducible apply yields_needLen | with_reducible apply yields_stageOne | with_reducible apply yields_need
theorem cmdMartenPtpCfg_stages (h ws s) : (cmdMartenPtpCfg h ws s).Yields (Stages s) := by
  unfold cmdMartenPtpCfg
  repeat' first | intro _ | with_reducible exact stages_rfl _ | with_reducible apply stages_stage | with_reducible apply yields_needLen | with_reducible apply yields_stageOne | with_reducible apply yields_need
theorem cmdMcCfg_stages (h ws s) : (cmdMcCfg h ws s).Yields (Stages s) := by
  unfold cmdMcCfg
  repeat' first | intro _ | with_reducible exact stages_rfl _ | with_reducible apply stages_stage | with_reducible apply yields_needLen | with_reducible apply yields_stageOne | with_reducible apply yields_need
theorem cmdMcSend_keeps (h ws s) : (cmdMcSend h ws s).Yields (fun t => Keeps s.kept t.kept) := by
  unfold cmdMcSend
  repeat' first | intro _ | with_reducible exact Keeps.rfl | simp | with_reducible apply yields_needLen | with_reducible apply yields_need | with_reducible apply yields_done
theorem cmdMcRead_keeps (h ws s) : (cmdMcRead h ws s).Yields (fun t => Keeps s.kept t.kept) := by
  unfold cmdMcRead
  repeat' first | intro _ | with_reducible exact Keeps.rfl | simp | exact yields_fail | with_reducible apply yields_needLen | with_reducible apply yields_need | with_reducible apply yields_done | split
theorem cmdCloveChanCfg_stages (h ws s) : (cmdCloveChanCfg h ws s).Yields (Stages s) := by
  unfold cmdCloveChanCfg
  repeat' first | intro _ | with_reducible exact stages_rfl _ | with_reducible apply stages_stage | with_reducible apply yields_needLen | with_reducible apply yields_stageOne | with_reducible apply yields_need
theorem cmdCloveSeqSet_stages (h ws s) : (cmdCloveSeqSet h ws s).Yields (Stages s) := by
  unfold cmdCloveSeqSet
  repeat' first | intro _ | with_reducible exact stages_rfl _ | with_reducible apply stages_stage | with_reducible apply yields_needLen | with_reducible apply yields_stageOne | with_reducible apply yields_need
theorem cmdCloveSync_stages (h ws s) : (cmdCloveSync h ws s).Yields (Stages s) := by
  unfold cmdCloveSync
  repeat' first | with_reducible exact stages_rfl _ | with_reducible apply stages_stage | with_reducible apply yields_needLen | with_reducible apply yields_done
theorem cmdCloveInjFire_stages (h ws s) : (cmdCloveInjFire h ws s).Yields (Stages s) := by
  unfold cmdCloveInjFire
  repeat' first | intro _ | with_reducible exact stages_rfl _ | with_reducible apply stages_stage | with_reducible apply yields_needLen | with_reducible apply yields_need | with_reducible apply yields_done
theorem cmdCloveDetCfg_stages (h ws s) : (cmdCloveDetCfg h ws s).Yields (Stages s) := by
  unfold cmdCloveDetCfg
  repeat' first | intro _ | with_reducible exact stages_rfl _ | with_reducible apply stages_stage | with_reducible apply yields_needLen | with_reducible apply yields_stageOne | with_reducible apply yields_need
theorem cmdCloveTdac_stages (h ws s) : (cmdCloveTdac h ws s).Yields (Stages s) := by
  unfold cmdCloveTdac
  repeat' first | intro _ | with_reducible exact stages_rfl _ | with_reducible apply stages_stage | with_reducible apply yields_needLen | with_reducible apply yields_stageOne | with_reducible apply yields_need
theorem cmdCloveBiasCfg_stages (h ws s) : (cmdCloveBiasCfg h ws s).Yields (Stages s) := by
  unfold cmdCloveBiasCfg
  repeat' first | intro _ | with_reducible exact stages_rfl _ | with_reducible apply stages_stage | with_reducible apply yields_needLen | with_reducible apply yields_stageOne | with_reducible apply yields_need
theorem cmdCloveBiasSet_stages (h ws s) : (cmdCloveBiasSet h ws s).Yields (Stages s) := by
  unfold cmdCloveBiasSet
  repeat' first | intro _ | with_reducible exact stages_rfl _ | with_reducible apply stages_stage | with_reducible apply yields_needLen | with_reducible apply yields_stageOne | with_reducible apply yields_need
theorem cmdCloveCalCfg_stages (h ws s) : (cmdCloveCalCfg h ws s).Yields (Stages s) := by
  unfold cmdCloveCalCfg
  repeat' first | intro _ | with_reducible exact stages_rfl _ | with_reducible apply stages_stage | with_reducible apply yields_needLen | with_reducible apply yields_stageOne | with_reducible apply yields_need
theorem cmdFltCfg_stages (h ws s) : (cmdFltCfg h ws s).Yields (Stages s) := by
  unfold cmdFltCfg
  repeat' first | intro _ | assumption | with_reducible exact stages_rfl _ | with_reducible apply stages_stage | with_reducible apply stages_each | with_reducible apply yields_needLen | with_reducible apply yields_need | with_reducible apply yields_done
theorem cmdFltGlobal_stages (h ws s) : (cmdFltGlobal h ws s).Yields (Stages s) := by
  unfold cmdFltGlobal
  repeat' first | intro _ | with_reducible exact stages_rfl _ | with_reducible apply stages_stage | with_reducible apply yields_needLen | with_reducible apply yields_stageOne | with_reducible apply yields_need
theorem cmdFltInject_keeps (h ws s) : (cmdFltInject h ws s).Yields (fun t => Keeps s.kept t.kept) := by
  unfold cmdFltInject
  repeat' first | intro _ | with_reducible exact Keeps.rfl | simp | with_reducible apply yields_needLen | with_reducible apply yields_need | with_reducible apply yields_done | split
theorem cmdLogRead_keeps (h ws s) : (cmdLogRead h ws s).Yields (fun t => Keeps s.kept t.kept) := by
  unfold cmdLogRead
  dsimp only
  refine yields_needLen (yields_need fun _ => ?_)
  split
  · exact yields_done Keeps.rfl
  · exact yields_done (logTake_keeps _ _ _ Keeps.rfl)
theorem cmdLogCfg_stages (h ws s) : (cmdLogCfg h ws s).Yields (Stages s) := by
  unfold cmdLogCfg
  repeat' first | intro _ | with_reducible exact stages_rfl _ | with_reducible apply stages_stage | with_reducible apply yields_needLen | with_reducible apply yields_stageOne | with_reducible apply yields_need
theorem cmdLogMark_keeps (h ws s) : (cmdLogMark h ws s).Yields (fun t => Keeps s.kept t.kept) := by
  unfold cmdLogMark
  repeat' first | intro _ | with_reducible exact Keeps.rfl | simp | with_reducible apply yields_needLen | with_reducible apply yields_need | with_reducible apply yields_done
theorem cmdLogClear_keeps (h ws s) : (cmdLogClear h ws s).Yields (fun t => Keeps s.kept t.kept) :=
  yields_needLen (yields_done ⟨rfl, Nat.le_refl _, fun _ hk => hk, fun g => ⟨g.1, g.2.1, Nat.zero_le _⟩, .inl rfl⟩)
theorem cmdCntCfg_stages (h ws s) : (cmdCntCfg h ws s).Yields (Stages s) := by
  unfold cmdCntCfg
  repeat' first | intro _ | assumption | with_reducible exact stages_rfl _ | with_reducible apply stages_stage | with_reducible apply stages_each | exact yields_fail | with_reducible apply yields_needLen | with_reducible apply yields_need | with_reducible apply yields_done | split
theorem cmdCntWrite_stages (h ws s) : (cmdCntWrite h ws s).Yields (Stages s) := by
  unfold cmdCntWrite
  repeat' first | intro _ | assumption | with_reducible exact stages_rfl _ | with_reducible apply stages_stage | with_reducible apply stages_each | exact yields_fail | with_reducible apply yields_needLen | with_reducible apply yields_need | with_reducible apply yields_done | split
theorem cmdCntRead_reads (h ws s) : (cmdCntRead h ws s).Yields ((· = s)) := by
  unfold cmdCntRead
  repeat' first | intro _ | with_reducible apply yields_needLen | with_reducible apply yields_need | with_reducible apply yields_done | dsimp only
theorem cmdCntDumpCfg_stages (h ws s) : (cmdCntDumpCfg h ws s).Yields (Stages s) := by
  unfold cmdCntDumpCfg
  repeat' first | intro _ | with_reducible exact stages_rfl _ | with_reducible apply stages_stage | with_reducible apply yields_needLen | with_reducible apply yields_stageOne | with_reducible apply yields_need
theorem cmdCntUwin_stages (h ws s) : (cmdCntUwin h ws s).Yields (Stages s) := by
  unfold cmdCntUwin
  repeat' first | intro _ | with_reducible exact stages_rfl _ | with_reducible apply stages_stage | exact yields_fail | with_reducible apply yields_needLen | with_reducible apply yields_stageOne | with_reducible apply yields_need | split
theorem cmdPwrStateSet_keeps (h ws s) : (cmdPwrStateSet h ws s).Yields (fun t => Keeps s.kept t.kept) := by
  unfold cmdPwrStateSet
  repeat' first | intro _ | with_reducible exact Keeps.rfl | simp | with_reducible apply yields_needLen | with_reducible apply yields_stageOne | with_reducible apply yields_need | with_reducible apply yields_done | split
theorem cmdPwrRegCfg_keeps (h ws s) : (cmdPwrRegCfg h ws s).Yields (fun t => Keeps s.kept t.kept) := by
  unfold cmdPwrRegCfg
  repeat' first | intro _ | with_reducible exact Keeps.rfl | simp | with_reducible apply yields_needLen | with_reducible apply yields_need | with_reducible apply yields_done
theorem cmdPwrAvsCfg_stages (h ws s) : (cmdPwrAvsCfg h ws s).Yields (Stages s) := by
  unfold cmdPwrAvsCfg
  repeat' first | intro _ | with_reducible exact stages_rfl _ | with_reducible apply stages_stage | with_reducible apply yields_needLen | with_reducible apply yields_stageOne | with_reducible apply yields_need
theorem cmdPwrPolicy_stages (h ws s) : (cmdPwrPolicy h ws s).Yields (Stages s) := by
  unfold cmdPwrPolicy
  repeat' first | intro _ | with_reducible exact stages_rfl _ | with_reducible apply stages_stage | with_reducible apply yields_needLen | with_reducible apply yields_stageOne | with_reducible apply yields_need
theorem cmdPinCfg_stages (h ws s) : (cmdPinCfg h ws s).Yields (Stages s) := by
  unfold cmdPinCfg
  repeat' first | intro _ | with_reducible exact stages_rfl _ | with_reducible apply stages_stage | with_reducible apply yields_needLen | with_reducible apply yields_stageOne | with_reducible apply yields_need
theorem cmdChainMaster_keeps (h ws s) : (cmdChainMaster h ws s).Yields (fun t => Keeps s.kept t.kept) := by
  unfold cmdChainMaster
  repeat' first | intro _ | with_reducible exact Keeps.rfl | simp | with_reducible apply yields_needLen | with_reducible apply yields_need | with_reducible apply yields_done
theorem cmdChainAsym_stages (h ws s) : (cmdChainAsym h ws s).Yields (Stages s) := by
  unfold cmdChainAsym
  repeat' first | intro _ | with_reducible exact stages_rfl _ | with_reducible apply stages_stage | with_reducible apply yields_needLen | with_reducible apply yields_stageOne | with_reducible apply yields_need

end Sys2Proof.Machine
end

