-- ==== Sys2Proof/Laws/KeptEvents.lean ====
section
/-! SUPPORT. Running a command, and every event: each answers a next state that keeps what no command may change. -/

namespace Sys2Proof.Machine

theorem Stages.kept {s t : State} (h : Stages s t) : t.kept = s.kept := by
  obtain ⟨new, rfl⟩ := h
  simp

/-- As Yields, with the answers of SYS_RESULT_GET. -/
def CmdRes.Leaves (P : State → Prop) : CmdRes → Prop
  | .fail .. => True
  | .done t _ | .accept t _ | .full t _ _ _ | .capture t _ => P t

theorem leaves_of_yields {P Q : State → Prop} {r : CmdRes} (h : r.Yields P) (i : ∀ t, P t → Q t) : r.Leaves Q := by
  cases r <;> first | trivial | exact i _ h

theorem cmdSysResultGet_keeps (h ws s) : (cmdSysResultGet h ws s).Leaves (fun t => t.kept = s.kept) := by
  unfold cmdSysResultGet needLen need
  dsimp only
  split
  · split
    · split
      · trivial
      · split
        · exact kept_mk rfl rfl rfl rfl rfl rfl rfl rfl rfl
        · exact rfl
    · trivial
  · trivial

theorem Keeps.of_eq {a b : Kept} (h : b = a) : Keeps a b := h ▸ Keeps.rfl

theorem leaves_mono {P Q : State → Prop} {r : CmdRes} (h : r.Leaves P) (i : ∀ t, P t → Q t) : r.Leaves Q := by
  cases r <;> first | trivial | exact i _ h

/-- Every command of the opcode catalogue keeps what no command may change. -/
theorem cmd_keeps {op f} (e : cmdOf op = some f) (h ws s) : (f h ws s).Leaves (fun t => Keeps s.kept t.kept) := by
  unfold cmdOf at e
  split at e
  · cases e; exact leaves_of_yields (cmdSysNop_reads h ws s) fun _ e => Keeps.of_eq (e ▸ rfl)
  · cases e; exact leaves_of_yields (cmdSysIdentify_reads h ws s) fun _ e => Keeps.of_eq (e ▸ rfl)
  · cases e; exact leaves_mono (cmdSysResultGet_keeps h ws s) fun _ e => Keeps.of_eq e
  · cases e; exact leaves_of_yields (cmdSysResultRelease_keeps h ws s) fun _ e => e
  · cases e; exact leaves_of_yields (cmdSysBootCfg_keeps h ws s) fun _ e => e
  · cases e; exact leaves_of_yields (cmdSysReset_keeps h ws s) fun _ e => e
  · cases e; exact leaves_of_yields (cmdFwStage_keeps h ws s) fun _ e => e
  · cases e; exact leaves_of_yields (cmdFwActivate_keeps h ws s) fun _ e => e
  · cases e; exact leaves_of_yields (cmdFwFuse_keeps h ws s) fun _ e => e
  · cases e; exact leaves_of_yields (cmdFwInfo_reads h ws s) fun _ e => Keeps.of_eq (e ▸ rfl)
  · cases e; exact leaves_of_yields (cmdLineConvSet_stages h ws s) fun _ e => Keeps.of_eq e.kept
  · cases e; exact leaves_of_yields (cmdLineConvCal_stages h ws s) fun _ e => Keeps.of_eq e.kept
  · cases e; exact leaves_of_yields (cmdLineConvBgcal_stages h ws s) fun _ e => Keeps.of_eq e.kept
  · cases e; exact leaves_of_yields (cmdLineConvStatus_reads h ws s) fun _ e => Keeps.of_eq (e ▸ rfl)
  · cases e; exact leaves_of_yields (cmdLineConvRetire_stages h ws s) fun _ e => Keeps.of_eq e.kept
  · cases e; exact leaves_of_yields (cmdLineScCfg_stages h ws s) fun _ e => Keeps.of_eq e.kept
  · cases e; exact leaves_of_yields (cmdLineLoadSet_stages h ws s) fun _ e => Keeps.of_eq e.kept
  · cases e; exact leaves_of_yields (cmdLineEqLoad_keeps h ws s) fun _ e => e
  · cases e; exact leaves_of_yields (cmdLineRxCfg_stages h ws s) fun _ e => Keeps.of_eq e.kept
  · cases e; exact leaves_of_yields (cmdLineRxAcq_stages h ws s) fun _ e => Keeps.of_eq e.kept
  · cases e; exact leaves_of_yields (cmdLineEqRead_reads h ws s) fun _ e => Keeps.of_eq (e ▸ rfl)
  · cases e; exact leaves_of_yields (cmdLineFecCfg_stages h ws s) fun _ e => Keeps.of_eq e.kept
  · cases e; exact leaves_of_yields (cmdLineHdrMsg_stages h ws s) fun _ e => Keeps.of_eq e.kept
  · cases e; exact leaves_of_yields (cmdClientLaneCfg_stages h ws s) fun _ e => Keeps.of_eq e.kept
  · cases e; exact leaves_of_yields (cmdClientLaneRaw_stages h ws s) fun _ e => Keeps.of_eq e.kept
  · cases e; exact leaves_of_yields (cmdClientLaneRead_reads h ws s) fun _ e => Keeps.of_eq (e ▸ rfl)
  · cases e; exact leaves_of_yields (cmdClientPortCfg_stages h ws s) fun _ e => Keeps.of_eq e.kept
  · cases e; exact leaves_of_yields (cmdClientPfcCfg_stages h ws s) fun _ e => Keeps.of_eq e.kept
  · cases e; exact leaves_of_yields (cmdClientRefSel_stages h ws s) fun _ e => Keeps.of_eq e.kept
  · cases e; exact leaves_of_yields (cmdClientTsAdj_stages h ws s) fun _ e => Keeps.of_eq e.kept
  · cases e; exact leaves_of_yields (cmdClassKeySet_stages h ws s) fun _ e => Keeps.of_eq e.kept
  · cases e; exact leaves_of_yields (cmdFlowSet_stages h ws s) fun _ e => Keeps.of_eq e.kept
  · cases e; exact leaves_of_yields (cmdFlowRead_reads h ws s) fun _ e => Keeps.of_eq (e ▸ rfl)
  · cases e; exact leaves_of_yields (cmdSaCfg_stages h ws s) fun _ e => Keeps.of_eq e.kept
  · cases e; exact leaves_of_yields (cmdSaActivate_stages h ws s) fun _ e => Keeps.of_eq e.kept
  · cases e; exact leaves_of_yields (cmdSaRxPromote_stages h ws s) fun _ e => Keeps.of_eq e.kept
  · cases e; exact leaves_of_yields (cmdSaKeyClear_stages h ws s) fun _ e => Keeps.of_eq e.kept
  · cases e; exact leaves_of_yields (cmdSaStatus_reads h ws s) fun _ e => Keeps.of_eq (e ▸ rfl)
  · cases e; exact leaves_of_yields (cmdSaPnAdvance_stages h ws s) fun _ e => Keeps.of_eq e.kept
  · cases e; exact leaves_of_yields (cmdNutInject_keeps h ws s) fun _ e => e
  · cases e; exact leaves_of_yields (cmdNutZeroise_keeps h ws s) fun _ e => e
  · cases e; exact leaves_of_yields (cmdSettRegionCfg_stages h ws s) fun _ e => Keeps.of_eq e.kept
  · cases e; exact leaves_of_yields (cmdSettClassSet_stages h ws s) fun _ e => Keeps.of_eq e.kept
  · cases e; exact leaves_of_yields (cmdSettMergeSet_stages h ws s) fun _ e => Keeps.of_eq e.kept
  · cases e; exact leaves_of_yields (cmdSettMergeStatus_reads h ws s) fun _ e => Keeps.of_eq (e ▸ rfl)
  · cases e; exact leaves_of_yields (cmdSettArbSet_keeps h ws s) fun _ e => e
  · cases e; exact leaves_of_yields (cmdSettCapCfg_stages h ws s) fun _ e => Keeps.of_eq e.kept
  · cases e; exact leaves_of_yields (cmdSettCapArm_stages h ws s) fun _ e => Keeps.of_eq e.kept
  · cases e; exact leaves_of_yields (cmdSettCapRead_keeps h ws s) fun _ e => e
  · cases e; exact leaves_of_yields (cmdEccScrubCfg_stages h ws s) fun _ e => Keeps.of_eq e.kept
  · cases e; exact leaves_of_yields (cmdEccSpareRead_reads h ws s) fun _ e => Keeps.of_eq (e ▸ rfl)
  · cases e; exact leaves_of_yields (cmdEccSpareLoad_keeps h ws s) fun _ e => e
  · cases e; exact leaves_of_yields (cmdEccTestAccess_keeps h ws s) fun _ e => e
  · cases e; exact leaves_of_yields (cmdTimRefCfg_stages h ws s) fun _ e => Keeps.of_eq e.kept
  · cases e; exact leaves_of_yields (cmdTimDpllCfg_stages h ws s) fun _ e => Keeps.of_eq e.kept
  · cases e; exact leaves_of_yields (cmdTimeSet_stages h ws s) fun _ e => Keeps.of_eq e.kept
  · cases e; exact leaves_of_yields (cmdTimOutCfg_stages h ws s) fun _ e => Keeps.of_eq e.kept
  · cases e; exact leaves_of_yields (cmdMartenLineCfg_stages h ws s) fun _ e => Keeps.of_eq e.kept
  · cases e; exact leaves_of_yields (cmdMartenAsymCal_stages h ws s) fun _ e => Keeps.of_eq e.kept
  · cases e; exact leaves_of_yields (cmdMartenSteer_stages h ws s) fun _ e => Keeps.of_eq e.kept
  · cases e; exact leaves_of_yields (cmdMartenPtpCfg_stages h ws s) fun _ e => Keeps.of_eq e.kept
  · cases e; exact leaves_of_yields (cmdMcCfg_stages h ws s) fun _ e => Keeps.of_eq e.kept
  · cases e; exact leaves_of_yields (cmdMcSend_keeps h ws s) fun _ e => e
  · cases e; exact leaves_of_yields (cmdMcRead_keeps h ws s) fun _ e => e
  · cases e; exact leaves_of_yields (cmdCloveChanCfg_stages h ws s) fun _ e => Keeps.of_eq e.kept
  · cases e; exact leaves_of_yields (cmdCloveSeqSet_stages h ws s) fun _ e => Keeps.of_eq e.kept
  · cases e; exact leaves_of_yields (cmdCloveSync_stages h ws s) fun _ e => Keeps.of_eq e.kept
  · cases e; exact leaves_of_yields (cmdCloveInjFire_stages h ws s) fun _ e => Keeps.of_eq e.kept
  · cases e; exact leaves_of_yields (cmdCloveDetCfg_stages h ws s) fun _ e => Keeps.of_eq e.kept
  · cases e; exact leaves_of_yields (cmdCloveTdac_stages h ws s) fun _ e => Keeps.of_eq e.kept
  · cases e; exact leaves_of_yields (cmdCloveBiasCfg_stages h ws s) fun _ e => Keeps.of_eq e.kept
  · cases e; exact leaves_of_yields (cmdCloveBiasSet_stages h ws s) fun _ e => Keeps.of_eq e.kept
  · cases e; exact leaves_of_yields (cmdCloveCalCfg_stages h ws s) fun _ e => Keeps.of_eq e.kept
  · cases e; exact leaves_of_yields (cmdFltCfg_stages h ws s) fun _ e => Keeps.of_eq e.kept
  · cases e; exact leaves_of_yields (cmdFltGlobal_stages h ws s) fun _ e => Keeps.of_eq e.kept
  · cases e; exact leaves_of_yields (cmdFltInject_keeps h ws s) fun _ e => e
  · cases e; exact leaves_of_yields (cmdLogRead_keeps h ws s) fun _ e => e
  · cases e; exact leaves_of_yields (cmdLogCfg_stages h ws s) fun _ e => Keeps.of_eq e.kept
  · cases e; exact leaves_of_yields (cmdLogMark_keeps h ws s) fun _ e => e
  · cases e; exact leaves_of_yields (cmdLogClear_keeps h ws s) fun _ e => e
  · cases e; exact leaves_of_yields (cmdCntCfg_stages h ws s) fun _ e => Keeps.of_eq e.kept
  · cases e; exact leaves_of_yields (cmdCntWrite_stages h ws s) fun _ e => Keeps.of_eq e.kept
  · cases e; exact leaves_of_yields (cmdCntRead_reads h ws s) fun _ e => Keeps.of_eq (e ▸ rfl)
  · cases e; exact leaves_of_yields (cmdCntDumpCfg_stages h ws s) fun _ e => Keeps.of_eq e.kept
  · cases e; exact leaves_of_yields (cmdCntUwin_stages h ws s) fun _ e => Keeps.of_eq e.kept
  · cases e; exact leaves_of_yields (cmdPwrStateSet_keeps h ws s) fun _ e => e
  · cases e; exact leaves_of_yields (cmdPwrRegCfg_keeps h ws s) fun _ e => e
  · cases e; exact leaves_of_yields (cmdPwrAvsCfg_stages h ws s) fun _ e => Keeps.of_eq e.kept
  · cases e; exact leaves_of_yields (cmdPwrPolicy_stages h ws s) fun _ e => Keeps.of_eq e.kept
  · cases e; exact leaves_of_yields (cmdPinCfg_stages h ws s) fun _ e => Keeps.of_eq e.kept
  · cases e; exact leaves_of_yields (cmdChainMaster_keeps h ws s) fun _ e => e
  · cases e; exact leaves_of_yields (cmdChainAsym_stages h ws s) fun _ e => Keeps.of_eq e.kept
  · cases e

theorem audit_kept (s op h st) : (State.audit s op h st).kept = s.kept := by simp [State.audit]

theorem finish_keeps (op h s) {r : CmdRes} (hr : r.Leaves (fun t => Keeps s.kept t.kept)) : Keeps s.kept (finish op h s r).2.kept := by
  unfold finish
  repeat' first | exact Keeps.rfl | exact hr | split | (rw [State.audit_kept])

theorem command_keeps {op f} (e : cmdOf op = some f) (h ws s) : Keeps s.kept (command op f h ws s).2.kept := by
  unfold command
  split
  · exact Keeps.rfl
  · exact finish_keeps _ _ _ (cmd_keeps e h ws s)

theorem runCmd_keeps {op f} (e : cmdOf op = some f) (h ws s) : Keeps s.kept (runCmd op f h ws s).kept := by
  unfold runCmd
  dsimp only
  split
  · rw [kept_mk rfl rfl rfl rfl rfl rfl rfl rfl rfl]; exact command_keeps e h ws s
  · exact Keeps.rfl

theorem runRecord_keeps {op ws s t} (h : runRecord op ws s = some t) : Keeps s.kept t.kept := by
  unfold runRecord at h
  split at h
  · cases h
  · split at h
    · rename_i f e
      have k := cmd_keeps e {} ws { s with cmd := { s.cmd with accepting := true } }
      split at h
      · rename_i u d hu
        rw [hu] at k
        cases h
        exact ⟨k.1, k.2.1, k.2.2.1, k.2.2.2.1, .inl rfl⟩
      · cases h
    · cases h

theorem tryRecord_keeps {op ws s t g} (h : tryRecord op ws s = some (t, g)) : Keeps s.kept t.kept := by
  unfold tryRecord at h
  simp only [Option.map_eq_some_iff, Prod.mk.injEq] at h
  obtain ⟨u, hu, rfl, -⟩ := h
  refine each_keeps ?_ fun s g hs => applyItem_keeps _ _ hs
  rw [kept_mk rfl rfl rfl rfl rfl rfl rfl rfl rfl]
  have k := runRecord_keeps hu
  rwa [kept_mk rfl rfl rfl rfl rfl rfl rfl rfl rfl] at k

theorem directRecords_keeps {a} (rs s) (h : Keeps a s.kept) : Keeps a (directRecords rs s).kept := by
  refine each_keeps h fun s r hs => ?_
  dsimp only
  split
  · rename_i t e
    rw [kept_mk rfl rfl rfl rfl rfl rfl rfl rfl rfl]
    exact hs.trans (runRecord_keeps e)
  · exact hs

theorem replayRecords_keeps {a} (s) (h : Keeps a s.kept) : Keeps a (replayRecords s).kept := by
  refine each_keeps h fun s r hs => ?_
  rcases e : tryRecord r.1 r.2 s with _ | ⟨t, g⟩
  · exact hs
  · exact hs.trans (tryRecord_keeps e)

theorem replayTurn_keeps {a} (s) (h : Keeps a s.kept) : Keeps a (replayTurn s).kept := by
  have k := replayRecords_keeps s h
  unfold replayTurn
  split
  · rw [State.onPwr_kept rfl rfl]; exact k
  · exact h

theorem tableTurn_keeps {a} (s) (h : Keeps a s.kept) : Keeps a (tableTurn s).kept := by
  unfold tableTurn
  split
  · exact h
  · dsimp only
    rw [setExpo_kept]
    apply directRecords_keeps
    rw [State.each_kept (by intro s x; simp)]
    exact h

@[simp] theorem acceptTable_kept (bs rs gs vout s) : (acceptTable bs rs gs vout s).kept = s.kept := by
  unfold acceptTable
  dsimp only
  rw [finishEnt_kept, bootLog_kept, toBoot_kept]
  generalize s.cmd.fromHost = b
  cases b <;> rfl

@[simp] theorem activate_kept (r tag mode sigOk s) : (activate r tag mode sigOk s).kept = s.kept := by
  unfold activate
  dsimp only
  have e : ∀ (b : Bool), ({ s with cmd := if b then { s.cmd with sigB := sigOk } else { s.cmd with sigA := sigOk } } : State).kept = s.kept := by
    intro b; cases b <;> exact kept_mk rfl rfl rfl rfl rfl rfl rfl rfl rfl
  repeat' first | split | simp

theorem forward_kept (op h target hdr ws s) : (forward op h target hdr ws s).2.kept = s.kept := by
  unfold forward
  repeat' first | (simp; done) | split

theorem runPacket_keeps (h hdr ws s) : Keeps s.kept (runPacket h hdr ws s).2.kept := by
  unfold runPacket
  dsimp only
  repeat' first | exact Keeps.rfl | exact command_keeps (by assumption) _ _ _ | exact Keeps.of_eq (forward_kept ..) | split

theorem runRemote_keeps (h hdr ws s) : Keeps s.kept (runRemote h hdr ws s).2.kept := by
  unfold runRemote
  dsimp only
  repeat' first | exact Keeps.rfl | exact command_keeps (by assumption) _ _ _ | split

theorem inFlight_keeps {a} (r runs op h f s) (hs : Keeps a s.kept) (hf : Keeps s.kept (f s).2.kept) : Keeps a (inFlight r runs op h f s).kept := by
  unfold inFlight
  dsimp only
  split
  · simp only [State.onRing_kept, kept_mk]; exact hs.trans hf
  · rw [State.onRing_kept]; exact hs

theorem packetRead_keeps {a} (r bs s) (h : Keeps a s.kept) : Keeps a (packetRead r bs s).2.2.kept :=
  sramUse_keeps _ _ _ _ (sramWrite_keeps _ _ _ _ h)

theorem fetched_keeps {a} (r runs bs f s) (hs : Keeps a s.kept) (hf : ∀ h p ws t, Keeps t.kept (f h p ws t).2.kept) : Keeps a (fetched r runs bs f s).kept := by
  have k := packetRead_keeps r bs s hs
  unfold fetched
  dsimp only
  generalize packetRead _ _ _ = u at k ⊢
  split
  · exact inFlight_keeps _ _ _ _ _ _ k (hf ..)
  · rw [cpRestart_kept]; exact inFlight_keeps _ _ _ _ _ _ k (hf ..)

/-- The command answers a next state that keeps what no command may change. -/
def Goes (s : State) (o : Res) : Prop := ∃ t, o = .next t ∧ Keeps s.kept t.kept

theorem goes_next {s t : State} (h : Keeps s.kept t.kept) : Goes s (.next t) := ⟨t, rfl, h⟩
@[simp] theorem nextTick_kept (s) : (nextTick s).kept = s.kept := by simp [nextTick]
@[simp] theorem carryTurn_kept (x1 s) : (carryTurn x1 s).kept = s.kept := by simp [carryTurn]
@[simp] theorem carryWork_kept (x1 s) : (carryWork x1 s).kept = s.kept := by simp [carryWork]
theorem blockTicks_keeps {a} (x1 s) (h : Keeps a s.kept) : Keeps a (blockTicks x1 s).kept := by
  unfold blockTicks
  dsimp only
  apply pwrTick_keeps
  rw [fltTick_kept, cmdTick_kept, cloveTick_kept]
  apply marTick_keeps
  rw [slewTick_kept]
  rw [timTick_kept]
  apply settTick_keeps
  rw [eccTick_kept]
  apply nutTick_keeps
  apply ageTick_keeps
  rw [capTurn_kept]
  repeat rw [State.each_kept (by intro s x; simp only [convTick_kept, dspTick_kept, frameTick_kept, laneTick_kept, portTick_kept])]
  simpa using h
@[simp] theorem lineTurn_kept (s x1) : (lineTurn s x1).kept = s.kept := by simp [lineTurn]
@[simp] theorem retimeTurn_kept (s) : (retimeTurn s).kept = s.kept := by simp [retimeTurn]
theorem applyStaged_keeps {a} (x1 s) (h : Keeps a s.kept) : Keeps a (applyStaged x1 s).kept := by
  unfold applyStaged
  repeat' first | assumption | intro _ | with_reducible apply each_keeps | with_reducible apply applyItem_keeps
theorem sendTurn_keeps {a} (s x1) (h : Keeps a s.kept) : Keeps a (sendTurn s x1).kept := by
  unfold sendTurn
  repeat' first | assumption | intro _ | with_reducible apply each_keeps | with_reducible apply capture_keeps | with_reducible apply sendFrame_keeps | simp | split
theorem boundaryRest_keeps {a} (s) (h : Keeps a s.kept) : Keeps a (boundaryRest s).kept := by
  unfold boundaryRest
  dsimp only
  rw [sendTime_kept, sendTime_kept, State.each_kept (by intro s x; simp only [outTick_kept])]
  apply each_keeps
  · rw [dumpTick_kept, supUse_kept, clovePost_kept, historyTick_kept, State.each_kept (by intro s x; simp only [pfcTick_kept])]
    exact h
  · exact fun s l hs => sendTurn_keeps _ _ hs
theorem boundaryApply_keeps {a} (x1 s) (h : Keeps a s.kept) : Keeps a (boundaryApply x1 s).kept := by
  unfold boundaryApply
  dsimp only
  generalize ht : timBegin _ = t
  have k : Keeps a t.kept := by
    rw [← ht, timBegin_kept]
    apply settBegin_keeps
    apply eccBegin_keeps
    rw [cloveAfterApply_kept]
    repeat rw [State.each_kept (by intro s x; simp only [sigTurn_kept, laneTurn_kept, windowBegin_kept, swapTurn_kept])]
    apply applyStaged_keeps
    apply replayTurn_keeps
    apply tableTurn_keeps
    repeat rw [State.each_kept (by intro s x; simp)]
    rw [retimeTurn_kept]
    repeat rw [State.each_kept (by intro s x; simp)]
    apply each_keeps
    · rw [cntSnapshot_kept, carryTurn_kept]
      apply blockTicks_keeps
      simpa using h
    · exact fun s x hs => applyUpset_keeps _ _ hs
  exact k
theorem execAdcDwellEnd_goes (x1 x2 x3 s) : Goes s (execAdcDwellEnd x1 x2 x3 s) := by
  unfold execAdcDwellEnd
  repeat' first | with_reducible exact Keeps.rfl | with_reducible apply goes_next | split | simp
theorem execSliceSuspect_goes (x1 x2 x3 s) : Goes s (execSliceSuspect x1 x2 x3 s) := by
  unfold execSliceSuspect
  repeat' first | with_reducible exact Keeps.rfl | with_reducible apply goes_next | split | simp
theorem execSliceSubstitute_goes (x1 x2 s) : Goes s (execSliceSubstitute x1 x2 s) := by
  unfold execSliceSubstitute
  repeat' first | with_reducible exact Keeps.rfl | with_reducible apply goes_next | split | simp
theorem execAdcFail_goes (x1 x2 s) : Goes s (execAdcFail x1 x2 s) := by
  unfold execAdcFail
  repeat' first | with_reducible exact Keeps.rfl | with_reducible apply goes_next | split | simp
theorem execConvCalStart_goes (x1 s) : Goes s (execConvCalStart x1 s) := by
  unfold execConvCalStart
  repeat' first | with_reducible exact Keeps.rfl | with_reducible apply goes_next | split | simp
theorem execConvRxCalDone_goes (x1 x2 s) : Goes s (execConvRxCalDone x1 x2 s) := by
  unfold execConvRxCalDone
  repeat' first | with_reducible exact Keeps.rfl | with_reducible apply goes_next | split | simp
theorem execConvTxCalDone_goes (x1 x2 x3 s) : Goes s (execConvTxCalDone x1 x2 x3 s) := by
  unfold execConvTxCalDone
  repeat' first | with_reducible exact Keeps.rfl | with_reducible apply goes_next | split | simp
theorem execConvCalTimeout_goes (x1 x2 s) : Goes s (execConvCalTimeout x1 x2 s) := by
  unfold execConvCalTimeout
  repeat' first | assumption | with_reducible exact Keeps.rfl | with_reducible apply goes_next | split | simp
theorem execLinePllUnlock_goes (x1 s) : Goes s (execLinePllUnlock x1 s) := by
  unfold execLinePllUnlock
  repeat' first | with_reducible exact Keeps.rfl | with_reducible apply goes_next | split | simp
theorem execLinePllRelockAttempt_goes (x1 x2 s) : Goes s (execLinePllRelockAttempt x1 x2 s) := by
  unfold execLinePllRelockAttempt
  repeat' first | with_reducible exact Keeps.rfl | with_reducible apply goes_next | split | simp
theorem execScWarmupEnd_goes (x1 x2 s) : Goes s (execScWarmupEnd x1 x2 s) := by
  unfold execScWarmupEnd
  repeat' first | with_reducible exact Keeps.rfl | with_reducible apply goes_next | split | simp
theorem execScCloseEnd_goes (x1 x2 s) : Goes s (execScCloseEnd x1 x2 s) := by
  unfold execScCloseEnd
  repeat' first | with_reducible exact Keeps.rfl | with_reducible apply goes_next | split | simp
theorem execEqFadeEnd_goes (x1 x2 s) : Goes s (execEqFadeEnd x1 x2 s) := by
  unfold execEqFadeEnd
  repeat' first | with_reducible exact Keeps.rfl | with_reducible apply goes_next | split | simp
theorem execQualityWindowPost_goes (x1 x2 s) : Goes s (execQualityWindowPost x1 x2 s) := by
  unfold execQualityWindowPost
  repeat' first | with_reducible exact Keeps.rfl | with_reducible apply goes_next | split | simp
theorem execCdResidualAlarm_goes (x1 s) : Goes s (execCdResidualAlarm x1 s) := by
  unfold execCdResidualAlarm
  repeat' first | with_reducible exact Keeps.rfl | with_reducible apply goes_next | split | simp
theorem execCdSearchScanEnd_goes (x1 x2 s) : Goes s (execCdSearchScanEnd x1 x2 s) := by
  unfold execCdSearchScanEnd
  repeat' first | with_reducible exact Keeps.rfl | with_reducible apply goes_next | split | simp
theorem execFreqOffsetFound_goes (x1 x2 s) : Goes s (execFreqOffsetFound x1 x2 s) := by
  unfold execFreqOffsetFound
  repeat' first | with_reducible exact Keeps.rfl | with_reducible apply goes_next | split | simp
theorem execFreqAcqTimeout_goes (x1 s) : Goes s (execFreqAcqTimeout x1 s) := by
  unfold execFreqAcqTimeout
  repeat' first | with_reducible exact Keeps.rfl | with_reducible apply goes_next | split | simp
theorem execScAcqTimeout_goes (x1 s) : Goes s (execScAcqTimeout x1 s) := by
  unfold execScAcqTimeout
  repeat' first | with_reducible exact Keeps.rfl | with_reducible apply goes_next | split | simp
theorem execRunTrackLoss_goes (x1 s) : Goes s (execRunTrackLoss x1 s) := by
  unfold execRunTrackLoss
  repeat' first | with_reducible exact Keeps.rfl | with_reducible apply goes_next | split | simp
theorem execRxdConvStateChange_goes (x1 s) : Goes s (execRxdConvStateChange x1 s) := by
  unfold execRxdConvStateChange
  repeat' first | with_reducible exact Keeps.rfl | with_reducible apply goes_next | split | simp
theorem execPilotsDetected_goes (x1 x2 s) : Goes s (execPilotsDetected x1 x2 s) := by
  unfold execPilotsDetected
  repeat' first | with_reducible exact Keeps.rfl | with_reducible apply goes_next | split | simp
theorem execScTrackReached_goes (x1 x2 x3 s) : Goes s (execScTrackReached x1 x2 x3 s) := by
  unfold execScTrackReached
  repeat' first | with_reducible exact Keeps.rfl | with_reducible apply goes_next | split | simp
theorem execScAcqExpire_goes (x1 x2 s) : Goes s (execScAcqExpire x1 x2 s) := by
  unfold execScAcqExpire
  repeat' first | with_reducible exact Keeps.rfl | with_reducible apply goes_next | split | simp
theorem execScTrackLoss_goes (x1 x2 s) : Goes s (execScTrackLoss x1 x2 s) := by
  unfold execScTrackLoss
  repeat' first | with_reducible exact Keeps.rfl | with_reducible apply goes_next | split | simp
theorem execEccWriteBack_goes (x1 s) : Goes s (execEccWriteBack x1 s) := by
  unfold execEccWriteBack
  repeat' first | assumption | with_reducible exact Keeps.rfl | with_reducible apply goes_next | with_reducible apply takeWb_keeps | split | simp
theorem execScrubRead_goes (x1 x2 x3 s) : Goes s (execScrubRead x1 x2 x3 s) := by
  unfold execScrubRead
  repeat' first | assumption | intro _ | with_reducible exact Keeps.rfl | with_reducible apply goes_next | with_reducible apply each_keeps | with_reducible apply applyUpset_keeps | with_reducible apply scrubMeta_keeps | with_reducible apply settRead_keeps | with_reducible apply sramRead_keeps | split | simp
theorem execTrackerExpire_goes (x1 s) : Goes s (execTrackerExpire x1 s) := by
  unfold execTrackerExpire
  repeat' first | with_reducible exact Keeps.rfl | with_reducible apply goes_next | split | simp
theorem execRowRemapCopyDone_goes (x1 s) : Goes s (execRowRemapCopyDone x1 s) := by
  unfold execRowRemapCopyDone
  repeat' first | assumption | intro _ | with_reducible exact Keeps.rfl | with_reducible apply goes_next | with_reducible apply each_keeps | with_reducible apply copyWord_keeps | with_reducible apply putGranule_keeps | split | simp
theorem execEccFlipArm_goes (x1 s) : Goes s (execEccFlipArm x1 s) := by
  unfold execEccFlipArm
  repeat' first | with_reducible exact Keeps.rfl | with_reducible apply goes_next | split | simp
theorem execLaneSignalDetect_goes (x1 s) : Goes s (execLaneSignalDetect x1 s) := by
  unfold execLaneSignalDetect
  repeat' first | with_reducible exact Keeps.rfl | with_reducible apply goes_next | split | simp
theorem execLaneAdaptDone_goes (x1 x2 x3 s) : Goes s (execLaneAdaptDone x1 x2 x3 s) := by
  unfold execLaneAdaptDone
  repeat' first | with_reducible exact Keeps.rfl | with_reducible apply goes_next | split | simp
theorem execLaneAdaptTimeout_goes (x1 s) : Goes s (execLaneAdaptTimeout x1 s) := by
  unfold execLaneAdaptTimeout
  repeat' first | with_reducible exact Keeps.rfl | with_reducible apply goes_next | split | simp
theorem execLaneLos_goes (x1 s) : Goes s (execLaneLos x1 s) := by
  unfold execLaneLos
  repeat' first | with_reducible exact Keeps.rfl | with_reducible apply goes_next | split | simp
theorem execLaneRetry_goes (x1 s) : Goes s (execLaneRetry x1 s) := by
  unfold execLaneRetry
  repeat' first | with_reducible exact Keeps.rfl | with_reducible apply goes_next | split | simp
theorem execPrbsLock_goes (x1 s) : Goes s (execPrbsLock x1 s) := by
  unfold execPrbsLock
  repeat' first | with_reducible exact Keeps.rfl | with_reducible apply goes_next | split | simp
theorem execPortAlignDone_goes (x1 s) : Goes s (execPortAlignDone x1 s) := by
  unfold execPortAlignDone
  repeat' first | with_reducible exact Keeps.rfl | with_reducible apply goes_next | split | simp
theorem execAlignmentLost_goes (x1 s) : Goes s (execAlignmentLost x1 s) := by
  unfold execAlignmentLost
  repeat' first | with_reducible exact Keeps.rfl | with_reducible apply goes_next | split | simp
theorem execPortFaultRx_goes (x1 x2 s) : Goes s (execPortFaultRx x1 x2 s) := by
  unfold execPortFaultRx
  repeat' first | with_reducible exact Keeps.rfl | with_reducible apply goes_next | split | simp
theorem execPortFaultClear_goes (x1 s) : Goes s (execPortFaultClear x1 s) := by
  unfold execPortFaultClear
  repeat' first | with_reducible exact Keeps.rfl | with_reducible apply goes_next | split | simp
theorem execLinkPropLocalFault_goes (x1 s) : Goes s (execLinkPropLocalFault x1 s) := by
  unfold execLinkPropLocalFault
  repeat' first | with_reducible exact Keeps.rfl | with_reducible apply goes_next | split | simp
theorem execPfcFrameRx_goes (x1 x2 x3 s) : Goes s (execPfcFrameRx x1 x2 x3 s) := by
  unfold execPfcFrameRx
  repeat' first | with_reducible exact Keeps.rfl | with_reducible apply goes_next | split | simp
theorem execPauseTimerExpire_goes (x1 x2 s) : Goes s (execPauseTimerExpire x1 x2 s) := by
  unfold execPauseTimerExpire
  repeat' first | with_reducible exact Keeps.rfl | with_reducible apply goes_next | split | simp
theorem execPfcRefresh_goes (x1 x2 s) : Goes s (execPfcRefresh x1 x2 s) := by
  unfold execPfcRefresh
  repeat' first | with_reducible exact Keeps.rfl | with_reducible apply goes_next | split | simp
theorem execCellFlush_goes (x1 s) : Goes s (execCellFlush x1 s) := by
  unfold execCellFlush
  repeat' first | with_reducible exact Keeps.rfl | with_reducible apply goes_next | split | simp
theorem execClientFrameIngress_goes (x1 x2 x3 x4 x5 s) : Goes s (execClientFrameIngress x1 x2 x3 x4 x5 s) := by
  unfold execClientFrameIngress
  repeat' first | assumption | with_reducible exact Keeps.rfl | with_reducible apply goes_next | with_reducible apply acceptFrame_keeps | split | simp
theorem execEgressFrameStart_goes (x1 x2 s) : Goes s (execEgressFrameStart x1 x2 s) := by
  unfold execEgressFrameStart
  repeat' first | with_reducible exact Keeps.rfl | with_reducible apply goes_next | split | simp
theorem execCaptureTrigger_goes (x1 s) : Goes s (execCaptureTrigger x1 s) := by
  unfold execCaptureTrigger
  repeat' first | with_reducible exact Keeps.rfl | with_reducible apply goes_next | split | simp
theorem execCaptureDone_goes (s) : Goes s (execCaptureDone s) := by
  unfold execCaptureDone
  repeat' first | with_reducible exact Keeps.rfl | with_reducible apply goes_next | split | simp
theorem execSettTrainDone_goes (s) : Goes s (execSettTrainDone s) := by
  unfold execSettTrainDone
  repeat' first | with_reducible exact Keeps.rfl | with_reducible apply goes_next | split | simp
theorem execSettTrainTimeout_goes (x1 s) : Goes s (execSettTrainTimeout x1 s) := by
  unfold execSettTrainTimeout
  repeat' first | with_reducible exact Keeps.rfl | with_reducible apply goes_next | split | simp
theorem execSettClearDone_goes (s) : Goes s (execSettClearDone s) := by
  unfold execSettClearDone
  repeat' first | with_reducible exact Keeps.rfl | with_reducible apply goes_next | split | simp
theorem execStackInterfaceError_goes (x1 s) : Goes s (execStackInterfaceError x1 s) := by
  unfold execStackInterfaceError
  repeat' first | with_reducible exact Keeps.rfl | with_reducible apply goes_next | split | simp
theorem execSettStackTemp_goes (x1 x2 s) : Goes s (execSettStackTemp x1 x2 s) := by
  unfold execSettStackTemp
  repeat' first | assumption | with_reducible exact Keeps.rfl | with_reducible apply goes_next | split | simp
theorem execSettCopyReceive_goes (s) : Goes s (execSettCopyReceive s) := by
  unfold execSettCopyReceive
  repeat' first | with_reducible exact Keeps.rfl | with_reducible apply goes_next | with_reducible apply mergeCopy_keeps | split | simp
theorem execCellElasticAdmit_goes (s) : Goes s (execCellElasticAdmit s) := by
  unfold execCellElasticAdmit
  repeat' first | with_reducible exact Keeps.rfl | with_reducible apply goes_next | with_reducible apply metaWrite_keeps | with_reducible apply storeCell_keeps | split | simp
theorem execRefWtrExpire_goes (x1 s) : Goes s (execRefWtrExpire x1 s) := by
  unfold execRefWtrExpire
  repeat' first | with_reducible exact Keeps.rfl | with_reducible apply goes_next | split | simp
theorem execPpsEdge_goes (x1 x2 s) : Goes s (execPpsEdge x1 x2 s) := by
  unfold execPpsEdge
  repeat' first | with_reducible exact Keeps.rfl | with_reducible apply goes_next | split | simp
theorem execDpllLock_goes (s) : Goes s (execDpllLock s) := by
  unfold execDpllLock
  repeat' first | with_reducible exact Keeps.rfl | with_reducible apply goes_next | split | simp
theorem execDpllAcqFail_goes (s) : Goes s (execDpllAcqFail s) := by
  unfold execDpllAcqFail
  repeat' first | with_reducible exact Keeps.rfl | with_reducible apply goes_next | split | simp
theorem execDpllSwitchDone_goes (x1 s) : Goes s (execDpllSwitchDone x1 s) := by
  unfold execDpllSwitchDone
  repeat' first | with_reducible exact Keeps.rfl | with_reducible apply goes_next | split | simp
theorem execHistorySecond_goes (s) : Goes s (execHistorySecond s) := by
  unfold execHistorySecond
  repeat' first | with_reducible exact Keeps.rfl | with_reducible apply goes_next | split | simp
theorem execOcxoMeasureDone_goes (x1 x2 s) : Goes s (execOcxoMeasureDone x1 x2 s) := by
  unfold execOcxoMeasureDone
  repeat' first | with_reducible exact Keeps.rfl | with_reducible apply goes_next | split | simp
theorem execOcxoFail_goes (s) : Goes s (execOcxoFail s) := by
  unfold execOcxoFail
  repeat' first | with_reducible exact Keeps.rfl | with_reducible apply goes_next | split | simp
theorem execXoActivityLost_goes (s) : Goes s (execXoActivityLost s) := by
  unfold execXoActivityLost
  repeat' first | with_reducible exact Keeps.rfl | with_reducible apply goes_next | split | simp
theorem execDisagreeEnd_goes (s) : Goes s (execDisagreeEnd s) := by
  unfold execDisagreeEnd
  repeat' first | with_reducible exact Keeps.rfl | with_reducible apply goes_next | split | simp
theorem execSlewDone_goes (s) : Goes s (execSlewDone s) := by
  unfold execSlewDone
  repeat' first | with_reducible exact Keeps.rfl | with_reducible apply goes_next | split | simp
theorem execOutputStart_goes (x1 s) : Goes s (execOutputStart x1 s) := by
  unfold execOutputStart
  repeat' first | with_reducible exact Keeps.rfl | with_reducible apply goes_next | split | simp
theorem execPpsOutFlywheel_goes (x1 s) : Goes s (execPpsOutFlywheel x1 s) := by
  unfold execPpsOutFlywheel
  repeat' first | with_reducible exact Keeps.rfl | with_reducible apply goes_next | split | simp
theorem execChainLinkAlign_goes (x1 s) : Goes s (execChainLinkAlign x1 s) := by
  unfold execChainLinkAlign
  repeat' first | with_reducible exact Keeps.rfl | with_reducible apply goes_next | split | simp
theorem execChainLinkDown_goes (x1 s) : Goes s (execChainLinkDown x1 s) := by
  unfold execChainLinkDown
  repeat' first | with_reducible exact Keeps.rfl | with_reducible apply goes_next | split | simp
theorem execChainTimeWordRx_goes (x1 x2 x3 s) : Goes s (execChainTimeWordRx x1 x2 x3 s) := by
  unfold execChainTimeWordRx
  repeat' first | with_reducible exact Keeps.rfl | with_reducible apply goes_next | split | simp
theorem execChainEchoWordRx_goes (x1 x2 s) : Goes s (execChainEchoWordRx x1 x2 s) := by
  unfold execChainEchoWordRx
  repeat' first | with_reducible exact Keeps.rfl | with_reducible apply goes_next | split | simp
theorem execChainFirstLock_goes (s) : Goes s (execChainFirstLock s) := by
  unfold execChainFirstLock
  repeat' first | with_reducible exact Keeps.rfl | with_reducible apply goes_next | split | simp
theorem execChainMasterApply_goes (s) : Goes s (execChainMasterApply s) := by
  unfold execChainMasterApply
  repeat' first | with_reducible exact Keeps.rfl | with_reducible apply goes_next | split | simp
theorem execCloveCalEnd_goes (x1 x2 s) : Goes s (execCloveCalEnd x1 x2 s) := by
  unfold execCloveCalEnd
  repeat' first | with_reducible exact Keeps.rfl | with_reducible apply goes_next | split | simp
theorem execCloveDwellEnd_goes (x1 x2 x3 x4 x5 s) : Goes s (execCloveDwellEnd x1 x2 x3 x4 x5 s) := by
  unfold execCloveDwellEnd
  repeat' first | with_reducible exact Keeps.rfl | with_reducible apply goes_next | split | simp
theorem execCloveCheckStep_goes (x1 s) : Goes s (execCloveCheckStep x1 s) := by
  unfold execCloveCheckStep
  repeat' first | assumption | with_reducible exact Keeps.rfl | with_reducible apply goes_next | split | simp
theorem execCloveSupervisorSteps_goes (x1 s) : Goes s (execCloveSupervisorSteps x1 s) := by
  unfold execCloveSupervisorSteps
  repeat' first | assumption | with_reducible exact Keeps.rfl | with_reducible apply goes_next | with_reducible apply foldl_keeps_snd | split | simp
theorem execCloveConversionEnd_goes (x1 s) : Goes s (execCloveConversionEnd x1 s) := by
  unfold execCloveConversionEnd
  repeat' first | with_reducible exact Keeps.rfl | with_reducible apply goes_next | split | simp
theorem execClovePaceStart_goes (s) : Goes s (execClovePaceStart s) := by
  unfold execClovePaceStart
  repeat' first | with_reducible exact Keeps.rfl | with_reducible apply goes_next | split | simp
theorem execExtTrigEdge_goes (x1 x2 s) : Goes s (execExtTrigEdge x1 x2 s) := by
  unfold execExtTrigEdge
  repeat' first | assumption | with_reducible exact Keeps.rfl | with_reducible apply goes_next | split | simp
theorem execCloveInjTrigger_goes (x1 s) : Goes s (execCloveInjTrigger x1 s) := by
  unfold execCloveInjTrigger
  repeat' first | with_reducible exact Keeps.rfl | with_reducible apply goes_next | split | simp
theorem execCloveInjPost_goes (s) : Goes s (execCloveInjPost s) := by
  unfold execCloveInjPost
  repeat' first | with_reducible exact Keeps.rfl | with_reducible apply goes_next | split | simp
theorem execMonSyncEdge_goes (s) : Goes s (execMonSyncEdge s) := by
  unfold execMonSyncEdge
  repeat' first | with_reducible exact Keeps.rfl | with_reducible apply goes_next | split | simp
theorem execCloveSyncDeferred_goes (s) : Goes s (execCloveSyncDeferred s) := by
  unfold execCloveSyncDeferred
  repeat' first | with_reducible exact Keeps.rfl | with_reducible apply goes_next | split | simp
theorem execDetectorPost_goes (x1 s) : Goes s (execDetectorPost x1 s) := by
  unfold execDetectorPost
  repeat' first | with_reducible exact Keeps.rfl | with_reducible apply goes_next | split | simp
theorem execBiasLoopUpdate_goes (x1 s) : Goes s (execBiasLoopUpdate x1 s) := by
  unfold execBiasLoopUpdate
  repeat' first | with_reducible exact Keeps.rfl | with_reducible apply goes_next | split | simp
theorem execDumpWriteDone_goes (s) : Goes s (execDumpWriteDone s) := by
  unfold execDumpWriteDone
  repeat' first | with_reducible exact Keeps.rfl | with_reducible apply goes_next | split | simp
theorem execDumpDmaError_goes (s) : Goes s (execDumpDmaError s) := by
  unfold execDumpDmaError
  repeat' first | with_reducible exact Keeps.rfl | with_reducible apply goes_next | split | simp
theorem execCntDumpHeadWrite_goes (x1 s) : Goes s (execCntDumpHeadWrite x1 s) := by
  unfold execCntDumpHeadWrite
  repeat' first | with_reducible exact Keeps.rfl | with_reducible apply goes_next | split | simp
theorem execRingEnable_goes (x1 x2 s) : Goes s (execRingEnable x1 x2 s) := by
  unfold execRingEnable
  repeat' first | with_reducible exact Keeps.rfl | with_reducible apply goes_next | split | simp
theorem execRingDisable_goes (x1 x2 s) : Goes s (execRingDisable x1 x2 s) := by
  unfold execRingDisable
  repeat' first | with_reducible exact Keeps.rfl | with_reducible apply goes_next | split | simp
theorem execSqTailDoorbell_goes (x1 x2 s) : Goes s (execSqTailDoorbell x1 x2 s) := by
  unfold execSqTailDoorbell
  repeat' first | with_reducible exact Keeps.rfl | with_reducible apply goes_next | split | simp
theorem execCqHeadDoorbell_goes (x1 x2 s) : Goes s (execCqHeadDoorbell x1 x2 s) := by
  unfold execCqHeadDoorbell
  repeat' first | with_reducible exact Keeps.rfl | with_reducible apply goes_next | split | simp
theorem execRingDrainDone_goes (x1 s) : Goes s (execRingDrainDone x1 s) := by
  unfold execRingDrainDone
  repeat' first | with_reducible exact Keeps.rfl | with_reducible apply goes_next | split | simp
theorem execCmdTimeout_goes (x1 s) : Goes s (execCmdTimeout x1 s) := by
  unfold execCmdTimeout
  repeat' first | with_reducible exact Keeps.rfl | with_reducible apply goes_next | split | simp
theorem execFwReply_goes (x1 x2 s) : Goes s (execFwReply x1 x2 s) := by
  unfold execFwReply
  repeat' first | with_reducible exact Keeps.rfl | with_reducible apply goes_next | split | simp
theorem execFwdReplyTimeout_goes (x1 s) : Goes s (execFwdReplyTimeout x1 s) := by
  unfold execFwdReplyTimeout
  repeat' first | with_reducible exact Keeps.rfl | with_reducible apply goes_next | split | simp
theorem execFwdFragmentTimeout_goes (x1 x2 x3 s) : Goes s (execFwdFragmentTimeout x1 x2 x3 s) := by
  unfold execFwdFragmentTimeout
  repeat' first | with_reducible exact Keeps.rfl | with_reducible apply goes_next | split | simp
theorem execChainCmdWordRx_goes (x1 x2 s) : Goes s (execChainCmdWordRx x1 x2 s) := by
  unfold execChainCmdWordRx
  repeat' first | assumption | with_reducible exact Keeps.rfl | with_reducible apply goes_next | split | simp
theorem execCpRestart_goes (s) : Goes s (execCpRestart s) := by
  unfold execCpRestart
  repeat' first | with_reducible exact Keeps.rfl | with_reducible apply goes_next | split | simp
theorem execCpRestartDone_goes (s) : Goes s (execCpRestartDone s) := by
  unfold execCpRestartDone
  repeat' first | with_reducible exact Keeps.rfl | with_reducible apply goes_next | split | simp
theorem execPerst_goes (s) : Goes s (execPerst s) := by
  unfold execPerst
  repeat' first | with_reducible exact Keeps.rfl | with_reducible apply goes_next | split | simp
theorem execPcieHotReset_goes (s) : Goes s (execPcieHotReset s) := by
  unfold execPcieHotReset
  repeat' first | with_reducible exact Keeps.rfl | with_reducible apply goes_next | split | simp
theorem execFlrPf0_goes (s) : Goes s (execFlrPf0 s) := by
  unfold execFlrPf0
  repeat' first | with_reducible exact Keeps.rfl | with_reducible apply goes_next | split | simp
theorem execFlrPf1_goes (s) : Goes s (execFlrPf1 s) := by
  unfold execFlrPf1
  repeat' first | with_reducible exact Keeps.rfl | with_reducible apply goes_next | split | simp
theorem execPcieLinkDown_goes (s) : Goes s (execPcieLinkDown s) := by
  unfold execPcieLinkDown
  repeat' first | with_reducible exact Keeps.rfl | with_reducible apply goes_next | split | simp
theorem execMsiXUnmask_goes (x1 x2 s) : Goes s (execMsiXUnmask x1 x2 s) := by
  unfold execMsiXUnmask
  repeat' first | assumption | with_reducible exact Keeps.rfl | with_reducible apply goes_next | split | simp
theorem execLogEntryWrite_goes (s) : Goes s (execLogEntryWrite s) := by
  unfold execLogEntryWrite
  split
  · rename_i e q hq
    dsimp only
    split
    · exact goes_next Keeps.rfl
    · split
      · exact goes_next (by simp [Keeps.rfl])
      · apply goes_next
        refine when_keeps (when_keeps (sramWrite_keeps _ _ _ _ ?_) fun t ht => by simpa using ht) fun t ht => by simpa using ht
        refine ⟨rfl, Nat.le_refl _, fun _ h => h, fun g => ⟨g.1, g.2.1, ?_⟩, .inl rfl⟩
        have := g.2.2
        simp only [State.kept] at this ⊢
        split <;> simp_all <;> omega
  · exact goes_next Keeps.rfl
theorem execPmbusPoll_goes (x1 x2 s) : Goes s (execPmbusPoll x1 x2 s) := by
  unfold execPmbusPoll
  repeat' first | assumption | with_reducible exact Keeps.rfl | with_reducible apply goes_next | split | simp
theorem execPmbAlert_goes (x1 s) : Goes s (execPmbAlert x1 s) := by
  unfold execPmbAlert
  repeat' first | assumption | with_reducible exact Keeps.rfl | with_reducible apply goes_next | split | simp
theorem execPmbusStuck_goes (s) : Goes s (execPmbusStuck s) := by
  unfold execPmbusStuck
  repeat' first | with_reducible exact Keeps.rfl | with_reducible apply goes_next | split | simp
theorem execAvsUpdate_goes (s) : Goes s (execAvsUpdate s) := by
  unfold execAvsUpdate
  repeat' first | assumption | with_reducible exact Keeps.rfl | with_reducible apply goes_next | split | simp
theorem execAvsStep_goes (s) : Goes s (execAvsStep s) := by
  unfold execAvsStep
  repeat' first | with_reducible exact Keeps.rfl | with_reducible apply goes_next | split | simp
theorem execSupervisorLost_goes (s) : Goes s (execSupervisorLost s) := by
  unfold execSupervisorLost
  repeat' first | with_reducible exact Keeps.rfl | with_reducible apply goes_next | split | simp
theorem execP2EntryStep_goes (s) : Goes s (execP2EntryStep s) := by
  unfold execP2EntryStep
  repeat' first | with_reducible exact Keeps.rfl | with_reducible apply goes_next | split | simp
theorem execResetRelease_goes (x1 s) : Goes s (execResetRelease x1 s) := by
  unfold execResetRelease
  repeat' first | assumption | with_reducible exact Keeps.rfl | with_reducible apply goes_next | split | simp
theorem execPowerOnReset_goes (s) : Goes s (execPowerOnReset s) := by
  unfold execPowerOnReset
  repeat' first | with_reducible exact Keeps.rfl | with_reducible apply goes_next | with_reducible apply resetBlocks_keeps | simp
theorem execResetPin_goes (ns s) : Goes s (execResetPin ns s) := by
  have k : Keeps s.kept (s.takeFree).2.kept := Keeps.of_eq (kept_mk rfl rfl rfl rfl rfl rfl rfl rfl rfl)
  unfold execResetPin
  dsimp only
  repeat' first | exact Keeps.rfl | with_reducible apply goes_next | with_reducible apply deviceReset_keeps | split
theorem execCmdDeviceReset_goes (s) : Goes s (execCmdDeviceReset s) := by
  unfold execCmdDeviceReset
  repeat' first | with_reducible exact Keeps.rfl | with_reducible apply goes_next | with_reducible apply deviceReset_keeps | split
theorem execRailPowerDown_goes (s) : Goes s (execRailPowerDown s) := by
  unfold execRailPowerDown
  repeat' first | with_reducible exact Keeps.rfl | with_reducible apply goes_next | with_reducible apply resetBlocks_keeps | simp
theorem execP3ExitPowerGood_goes (s) : Goes s (execP3ExitPowerGood s) := by
  unfold execP3ExitPowerGood
  repeat' first | with_reducible exact Keeps.rfl | with_reducible apply goes_next | with_reducible apply p3Restart_keeps | split | simp
theorem execP3ExitTimeout_goes (s) : Goes s (execP3ExitTimeout s) := by
  unfold execP3ExitTimeout
  repeat' first | with_reducible exact Keeps.rfl | with_reducible apply goes_next | split | simp
theorem execJtagExtest_goes (s) : Goes s (execJtagExtest s) := by
  unfold execJtagExtest
  repeat' first | with_reducible exact Keeps.rfl | with_reducible apply goes_next | simp
theorem execJtagIdcode_goes (s) : Goes s (execJtagIdcode s) := by
  unfold execJtagIdcode
  repeat' first | with_reducible exact Keeps.rfl | with_reducible apply goes_next | simp
theorem execJtagSamplePreload_goes (x1 x2 s) : Goes s (execJtagSamplePreload x1 x2 s) := by
  unfold execJtagSamplePreload
  repeat' first | with_reducible exact Keeps.rfl | with_reducible apply goes_next | simp
theorem execJtagHighz_goes (s) : Goes s (execJtagHighz s) := by
  unfold execJtagHighz
  repeat' first | with_reducible exact Keeps.rfl | with_reducible apply goes_next | simp
theorem execJtagClamp_goes (s) : Goes s (execJtagClamp s) := by
  unfold execJtagClamp
  repeat' first | with_reducible exact Keeps.rfl | with_reducible apply goes_next | simp
theorem execJtagDevReset_goes (s) : Goes s (execJtagDevReset s) := by
  unfold execJtagDevReset
  repeat' first | with_reducible exact Keeps.rfl | with_reducible apply goes_next | with_reducible apply deviceReset_keeps | split | simp
theorem execJtagBypass_goes (x1 s) : Goes s (execJtagBypass x1 s) := by
  unfold execJtagBypass
  repeat' first | with_reducible exact Keeps.rfl | with_reducible apply goes_next | split | simp
theorem execTrst_goes (s) : Goes s (execTrst s) := by
  unfold execTrst
  repeat' first | with_reducible exact Keeps.rfl | with_reducible apply goes_next | simp
theorem execFaultRaise_goes (x1 s) : Goes s (execFaultRaise x1 s) := by
  unfold execFaultRaise
  repeat' first | with_reducible exact Keeps.rfl | with_reducible apply goes_next | with_reducible apply raiseFs_keeps | split | simp
theorem execDualRailBroken_goes (x1 s) : Goes s (execDualRailBroken x1 s) := by
  unfold execDualRailBroken
  repeat' first | assumption | with_reducible exact Keeps.rfl | with_reducible apply goes_next | with_reducible apply when_keeps | with_reducible apply raiseFs_keeps | split | simp
theorem execMessengerMessage_goes (x1 x2 s) : Goes s (execMessengerMessage x1 x2 s) := by
  unfold execMessengerMessage
  repeat' first | assumption | with_reducible exact Keeps.rfl | with_reducible apply goes_next | with_reducible apply raiseFs_keeps | split | simp
theorem execFaultWindowExpire_goes (x1 s) : Goes s (execFaultWindowExpire x1 s) := by
  unfold execFaultWindowExpire
  repeat' first | with_reducible exact Keeps.rfl | with_reducible apply goes_next | with_reducible apply takeAction_keeps | split | simp
theorem execWatchdogExpire_goes (s) : Goes s (execWatchdogExpire s) := by
  unfold execWatchdogExpire
  repeat' first | with_reducible exact Keeps.rfl | with_reducible apply goes_next | split | simp
theorem execChainFaultWordRx_goes (x1 x2 s) : Goes s (execChainFaultWordRx x1 x2 s) := by
  unfold execChainFaultWordRx
  repeat' first | assumption | with_reducible exact Keeps.rfl | with_reducible apply goes_next | split | simp
theorem execFltPendClear_goes (x1 x2 s) : Goes s (execFltPendClear x1 x2 s) := by
  unfold execFltPendClear
  repeat' first | with_reducible exact Keeps.rfl | with_reducible apply goes_next | split | simp
theorem execFltFirstClear_goes (x1 s) : Goes s (execFltFirstClear x1 s) := by
  unfold execFltFirstClear
  repeat' first | with_reducible exact Keeps.rfl | with_reducible apply goes_next | split | simp
theorem execFltMsgPop_goes (x1 s) : Goes s (execFltMsgPop x1 s) := by
  unfold execFltMsgPop
  repeat' first | with_reducible exact Keeps.rfl | with_reducible apply goes_next | split | simp
theorem execMartenWindowPost_goes (x1 s) : Goes s (execMartenWindowPost x1 s) := by
  unfold execMartenWindowPost
  repeat' first | with_reducible exact Keeps.rfl | with_reducible apply goes_next | split | simp
theorem execCdSecondSample_goes (x1 s) : Goes s (execCdSecondSample x1 s) := by
  unfold execCdSecondSample
  repeat' first | with_reducible exact Keeps.rfl | with_reducible apply goes_next | split | simp
theorem execCdCalCapture_goes (x1 s) : Goes s (execCdCalCapture x1 s) := by
  unfold execCdCalCapture
  repeat' first | with_reducible exact Keeps.rfl | with_reducible apply goes_next | split | simp
theorem execLineFrameDecode_goes (x1 x2 s) : Goes s (execLineFrameDecode x1 x2 s) := by
  unfold execLineFrameDecode
  repeat' first | assumption | intro _ | with_reducible exact Keeps.rfl | with_reducible apply goes_next | with_reducible apply each_keeps | with_reducible apply capture_keeps | with_reducible apply decodeFrame_keeps | split | simp
theorem execMcBurstSend_goes (x1 s) : Goes s (execMcBurstSend x1 s) := by
  unfold execMcBurstSend
  repeat' first | with_reducible exact Keeps.rfl | with_reducible apply goes_next | split | simp
theorem execHubBeacon_goes (x1 s) : Goes s (execHubBeacon x1 s) := by
  unfold execHubBeacon
  repeat' first | with_reducible exact Keeps.rfl | with_reducible apply goes_next | split | simp
theorem execLeafDiscoverySend_goes (x1 s) : Goes s (execLeafDiscoverySend x1 s) := by
  unfold execLeafDiscoverySend
  repeat' first | with_reducible exact Keeps.rfl | with_reducible apply goes_next | split | simp
theorem execLeafSlotBurst_goes (x1 s) : Goes s (execLeafSlotBurst x1 s) := by
  unfold execLeafSlotBurst
  repeat' first | with_reducible exact Keeps.rfl | with_reducible apply goes_next | split | simp
theorem execMcPreambleDetect_goes (x1 x2 x3 s) : Goes s (execMcPreambleDetect x1 x2 x3 s) := by
  unfold execMcPreambleDetect
  repeat' first | with_reducible exact Keeps.rfl | with_reducible apply goes_next | split | simp
theorem execMcSyncTimeout_goes (x1 s) : Goes s (execMcSyncTimeout x1 s) := by
  unfold execMcSyncTimeout
  repeat' first | with_reducible exact Keeps.rfl | with_reducible apply goes_next | split | simp
theorem execMcBurstRx_goes (x1 x2 s) : Goes s (execMcBurstRx x1 x2 s) := by
  unfold execMcBurstRx
  repeat' first | with_reducible exact Keeps.rfl | with_reducible apply goes_next | split | simp
theorem execMcPost_goes (x1 s) : Goes s (execMcPost x1 s) := by
  unfold execMcPost
  repeat' first | with_reducible exact Keeps.rfl | with_reducible apply goes_next | split | simp
theorem execLeafEchoLoss_goes (x1 s) : Goes s (execLeafEchoLoss x1 s) := by
  unfold execLeafEchoLoss
  repeat' first | with_reducible exact Keeps.rfl | with_reducible apply goes_next | split | simp
theorem execHubLeafLost_goes (x1 x2 s) : Goes s (execHubLeafLost x1 x2 s) := by
  unfold execHubLeafLost
  repeat' first | with_reducible exact Keeps.rfl | with_reducible apply goes_next | split | simp
theorem execNutKeyStageWrite_goes (x1 x2 s) : Goes s (execNutKeyStageWrite x1 x2 s) := by
  unfold execNutKeyStageWrite
  repeat' first | with_reducible exact Keeps.rfl | with_reducible apply goes_next | split | simp
theorem execNutKeyGo_goes (x1 s) : Goes s (execNutKeyGo x1 s) := by
  unfold execNutKeyGo
  repeat' first | with_reducible exact Keeps.rfl | with_reducible apply goes_next | split | simp
theorem execKeyStagingTimeout_goes (s) : Goes s (execKeyStagingTimeout s) := by
  unfold execKeyStagingTimeout
  repeat' first | with_reducible exact Keeps.rfl | with_reducible apply goes_next | split | simp
theorem execTxMarkExpire_goes (x1 s) : Goes s (execTxMarkExpire x1 s) := by
  unfold execTxMarkExpire
  repeat' first | with_reducible exact Keeps.rfl | with_reducible apply goes_next | split | simp
theorem execPipelineFence_goes (x1 x2 x3 s) : Goes s (execPipelineFence x1 x2 x3 s) := by
  unfold execPipelineFence
  repeat' first | with_reducible exact Keeps.rfl | with_reducible apply goes_next | split | simp
theorem execNutSelftestEnd_goes (x1 x2 s) : Goes s (execNutSelftestEnd x1 x2 s) := by
  unfold execNutSelftestEnd
  repeat' first | with_reducible exact Keeps.rfl | with_reducible apply goes_next | split | simp
theorem execNutEncrypt_goes (x1 s) : Goes s (execNutEncrypt x1 s) := by
  unfold execNutEncrypt
  repeat' first | with_reducible exact Keeps.rfl | with_reducible apply goes_next | with_reducible apply encryptFrame_keeps | split | simp
theorem execNutRxFrame_goes (x1 s) : Goes s (execNutRxFrame x1 s) := by
  unfold execNutRxFrame
  repeat' first | with_reducible exact Keeps.rfl | with_reducible apply goes_next | with_reducible apply receiveFrame_keeps | split | simp
theorem execC7Preempt_goes (x1 x2 s) : Goes s (execC7Preempt x1 x2 s) := by
  unfold execC7Preempt
  repeat' first | with_reducible exact Keeps.rfl | with_reducible apply goes_next | split | simp
theorem execNutZeroiseDone_goes (s) : Goes s (execNutZeroiseDone s) := by
  unfold execNutZeroiseDone
  repeat' first | with_reducible exact Keeps.rfl | with_reducible apply goes_next | with_reducible apply zeroiseAll_keeps | split
set_option maxHeartbeats 400000 in
theorem execCmdFetch_goes (r p s) : Goes s (execCmdFetch r p s) := by
  unfold execCmdFetch
  dsimp only
  split
  · have e : ({ s with cmd := { s.cmd with turn := r.val } } : State).kept = s.kept := kept_mk rfl rfl rfl rfl rfl rfl rfl rfl rfl
    generalize ({ s with cmd := { s.cmd with turn := r.val } } : State) = t at e ⊢
    have k : Keeps s.kept t.kept := Keeps.of_eq e
    repeat' first
      | assumption
      | with_reducible apply goes_next
      | (refine fetched_keeps _ _ _ _ _ ?_ runRemote_keeps)
      | (refine fetched_keeps _ _ _ _ _ ?_ runPacket_keeps)
      | (rw [ringHalt_kept])
      | (rw [State.onRing_kept])
      | split
  · exact goes_next Keeps.rfl
theorem execFirmwareStart_goes (x1 s) : Goes s (execFirmwareStart x1 s) := by
  unfold execFirmwareStart
  repeat' first | with_reducible exact Keeps.rfl | with_reducible apply goes_next | split | simp
theorem execBootDlGo_goes (x1 x2 s) : Goes s (execBootDlGo x1 x2 s) := by
  unfold execBootDlGo
  repeat' first | with_reducible exact Keeps.rfl | with_reducible apply goes_next | split | simp
theorem execBootTableAccept_goes (x1 s) : Goes s (execBootTableAccept x1 s) := by
  unfold execBootTableAccept
  repeat' first | with_reducible exact Keeps.rfl | with_reducible apply goes_next | split | simp
theorem execAsyncComplete_goes (x1 x2 x3 s) : Goes s (execAsyncComplete x1 x2 x3 s) := by
  unfold execAsyncComplete
  repeat' first | with_reducible exact Keeps.rfl | with_reducible apply goes_next | split | simp
theorem execRsLowWordRead_goes (x1 x2 s) : Goes s (execRsLowWordRead x1 x2 s) := by
  unfold execRsLowWordRead
  repeat' first | with_reducible exact Keeps.rfl | with_reducible apply goes_next | split | simp
theorem execRegWrite_goes (x1 x2 x3 s) : Goes s (execRegWrite x1 x2 x3 s) := by
  unfold execRegWrite
  repeat' first | with_reducible exact Keeps.rfl | with_reducible apply goes_next | split | simp
theorem execTickBoundary_goes (x1 s) : Goes s (execTickBoundary x1 s) := by
  unfold execTickBoundary
  repeat' first | with_reducible exact Keeps.rfl | with_reducible apply goes_next | with_reducible apply boundaryApply_keeps | with_reducible apply boundaryRest_keeps | split | simp
theorem execCarryFault_goes (x1 s) : Goes s (execCarryFault x1 s) := by
  unfold execCarryFault
  repeat' first | with_reducible exact Keeps.rfl | with_reducible apply goes_next | split | simp

end Sys2Proof.Machine
end

