-- ==== Sys2Proof/Laws/Nutmeg.lean ====
section
/-! SUPPORT. What taking a frame from Nutmeg's queue leaves alone. -/

namespace Sys2Proof.Machine

/-- Taking a frame keeps every security association: it touches the queues and the suspended frames alone. -/
@[simp] theorem takeFrame_nut_sa (rx : Bool) (x : NutRun) (f : NutFrame) (s : State) : (takeFrame rx x f s).nut.sa = s.nut.sa := by
  unfold takeFrame resumeLane; split <;> rfl

/-- Taking a frame keeps the association that a flow reads. -/
@[simp] theorem takeFrame_sa (rx : Bool) (x : NutRun) (f : NutFrame) (s : State) (n : Nat) : (takeFrame rx x f s).sa n = s.sa n := by
  simp [State.sa]

/-- Taking a frame keeps the transmit direction's state. -/
@[simp] theorem takeFrame_txD (rx : Bool) (x : NutRun) (f : NutFrame) (s : State) : (takeFrame rx x f s).nut.txD = s.nut.txD := by
  unfold takeFrame resumeLane; split <;> rfl

/-- Taking a frame keeps the receive direction's state. -/
@[simp] theorem takeFrame_rxD (rx : Bool) (x : NutRun) (f : NutFrame) (s : State) : (takeFrame rx x f s).nut.rxD = s.nut.rxD := by
  unfold takeFrame resumeLane; split <;> rfl

/-- Taking a frame changes no verdict on overload: that is judged on the lanes. -/
theorem takeFrame_overloaded (rx b : Bool) (x : NutRun) (f g : NutFrame) (s : State) :
    overloaded (takeFrame rx x f s) b x g = overloaded s b x g := by
  unfold takeFrame resumeLane; split <;> rfl

end Sys2Proof.Machine
end

