-- ==== Sys2Proof/Laws/State.lean ====
section
/-! SUPPORT. What each update of State leaves as it was, one lemma for each field, and what the record it updates holds after it. -/

namespace Sys2Proof.Machine

@[simp] theorem State.onConv_pending (s : State) (l : Nat) (f : ConvS → ConvS) : (s.onConv l f).pending = s.pending := rfl
@[simp] theorem State.onConv_tick (s : State) (l : Nat) (f : ConvS → ConvS) : (s.onConv l f).tick = s.tick := rfl
@[simp] theorem State.onConv_dsp (s : State) (l : Nat) (f : ConvS → ConvS) : (s.onConv l f).dsp = s.dsp := rfl
@[simp] theorem State.onConv_frm (s : State) (l : Nat) (f : ConvS → ConvS) : (s.onConv l f).frm = s.frm := rfl
@[simp] theorem State.onConv_cl (s : State) (l : Nat) (f : ConvS → ConvS) : (s.onConv l f).cl = s.cl := rfl
@[simp] theorem State.onConv_nut (s : State) (l : Nat) (f : ConvS → ConvS) : (s.onConv l f).nut = s.nut := rfl
@[simp] theorem State.onConv_sett (s : State) (l : Nat) (f : ConvS → ConvS) : (s.onConv l f).sett = s.sett := rfl
@[simp] theorem State.onConv_ecc (s : State) (l : Nat) (f : ConvS → ConvS) : (s.onConv l f).ecc = s.ecc := rfl
@[simp] theorem State.onConv_tim (s : State) (l : Nat) (f : ConvS → ConvS) : (s.onConv l f).tim = s.tim := rfl
@[simp] theorem State.onConv_mar (s : State) (l : Nat) (f : ConvS → ConvS) : (s.onConv l f).mar = s.mar := rfl
@[simp] theorem State.onConv_clv (s : State) (l : Nat) (f : ConvS → ConvS) : (s.onConv l f).clv = s.clv := rfl
@[simp] theorem State.onConv_cmd (s : State) (l : Nat) (f : ConvS → ConvS) : (s.onConv l f).cmd = s.cmd := rfl
@[simp] theorem State.onConv_pci (s : State) (l : Nat) (f : ConvS → ConvS) : (s.onConv l f).pci = s.pci := rfl
@[simp] theorem State.onConv_flt (s : State) (l : Nat) (f : ConvS → ConvS) : (s.onConv l f).flt = s.flt := rfl
@[simp] theorem State.onConv_cnt (s : State) (l : Nat) (f : ConvS → ConvS) : (s.onConv l f).cnt = s.cnt := rfl
@[simp] theorem State.onConv_pwr (s : State) (l : Nat) (f : ConvS → ConvS) : (s.onConv l f).pwr = s.pwr := rfl
@[simp] theorem State.onConv_rst (s : State) (l : Nat) (f : ConvS → ConvS) : (s.onConv l f).rst = s.rst := rfl
@[simp] theorem State.onConv_out (s : State) (l : Nat) (f : ConvS → ConvS) : (s.onConv l f).out = s.out := rfl
@[simp] theorem State.onConv_free (s : State) (l : Nat) (f : ConvS → ConvS) : (s.onConv l f).free = s.free := rfl

@[simp] theorem State.onDsp_pending (s : State) (l : Nat) (f : DspS → DspS) : (s.onDsp l f).pending = s.pending := rfl
@[simp] theorem State.onDsp_tick (s : State) (l : Nat) (f : DspS → DspS) : (s.onDsp l f).tick = s.tick := rfl
@[simp] theorem State.onDsp_conv (s : State) (l : Nat) (f : DspS → DspS) : (s.onDsp l f).conv = s.conv := rfl
@[simp] theorem State.onDsp_frm (s : State) (l : Nat) (f : DspS → DspS) : (s.onDsp l f).frm = s.frm := rfl
@[simp] theorem State.onDsp_cl (s : State) (l : Nat) (f : DspS → DspS) : (s.onDsp l f).cl = s.cl := rfl
@[simp] theorem State.onDsp_nut (s : State) (l : Nat) (f : DspS → DspS) : (s.onDsp l f).nut = s.nut := rfl
@[simp] theorem State.onDsp_sett (s : State) (l : Nat) (f : DspS → DspS) : (s.onDsp l f).sett = s.sett := rfl
@[simp] theorem State.onDsp_ecc (s : State) (l : Nat) (f : DspS → DspS) : (s.onDsp l f).ecc = s.ecc := rfl
@[simp] theorem State.onDsp_tim (s : State) (l : Nat) (f : DspS → DspS) : (s.onDsp l f).tim = s.tim := rfl
@[simp] theorem State.onDsp_mar (s : State) (l : Nat) (f : DspS → DspS) : (s.onDsp l f).mar = s.mar := rfl
@[simp] theorem State.onDsp_clv (s : State) (l : Nat) (f : DspS → DspS) : (s.onDsp l f).clv = s.clv := rfl
@[simp] theorem State.onDsp_cmd (s : State) (l : Nat) (f : DspS → DspS) : (s.onDsp l f).cmd = s.cmd := rfl
@[simp] theorem State.onDsp_pci (s : State) (l : Nat) (f : DspS → DspS) : (s.onDsp l f).pci = s.pci := rfl
@[simp] theorem State.onDsp_flt (s : State) (l : Nat) (f : DspS → DspS) : (s.onDsp l f).flt = s.flt := rfl
@[simp] theorem State.onDsp_cnt (s : State) (l : Nat) (f : DspS → DspS) : (s.onDsp l f).cnt = s.cnt := rfl
@[simp] theorem State.onDsp_pwr (s : State) (l : Nat) (f : DspS → DspS) : (s.onDsp l f).pwr = s.pwr := rfl
@[simp] theorem State.onDsp_rst (s : State) (l : Nat) (f : DspS → DspS) : (s.onDsp l f).rst = s.rst := rfl
@[simp] theorem State.onDsp_out (s : State) (l : Nat) (f : DspS → DspS) : (s.onDsp l f).out = s.out := rfl
@[simp] theorem State.onDsp_free (s : State) (l : Nat) (f : DspS → DspS) : (s.onDsp l f).free = s.free := rfl

@[simp] theorem State.onFrm_pending (s : State) (l : Nat) (f : FrameS → FrameS) : (s.onFrm l f).pending = s.pending := rfl
@[simp] theorem State.onFrm_tick (s : State) (l : Nat) (f : FrameS → FrameS) : (s.onFrm l f).tick = s.tick := rfl
@[simp] theorem State.onFrm_conv (s : State) (l : Nat) (f : FrameS → FrameS) : (s.onFrm l f).conv = s.conv := rfl
@[simp] theorem State.onFrm_dsp (s : State) (l : Nat) (f : FrameS → FrameS) : (s.onFrm l f).dsp = s.dsp := rfl
@[simp] theorem State.onFrm_cl (s : State) (l : Nat) (f : FrameS → FrameS) : (s.onFrm l f).cl = s.cl := rfl
@[simp] theorem State.onFrm_nut (s : State) (l : Nat) (f : FrameS → FrameS) : (s.onFrm l f).nut = s.nut := rfl
@[simp] theorem State.onFrm_sett (s : State) (l : Nat) (f : FrameS → FrameS) : (s.onFrm l f).sett = s.sett := rfl
@[simp] theorem State.onFrm_ecc (s : State) (l : Nat) (f : FrameS → FrameS) : (s.onFrm l f).ecc = s.ecc := rfl
@[simp] theorem State.onFrm_tim (s : State) (l : Nat) (f : FrameS → FrameS) : (s.onFrm l f).tim = s.tim := rfl
@[simp] theorem State.onFrm_mar (s : State) (l : Nat) (f : FrameS → FrameS) : (s.onFrm l f).mar = s.mar := rfl
@[simp] theorem State.onFrm_clv (s : State) (l : Nat) (f : FrameS → FrameS) : (s.onFrm l f).clv = s.clv := rfl
@[simp] theorem State.onFrm_cmd (s : State) (l : Nat) (f : FrameS → FrameS) : (s.onFrm l f).cmd = s.cmd := rfl
@[simp] theorem State.onFrm_pci (s : State) (l : Nat) (f : FrameS → FrameS) : (s.onFrm l f).pci = s.pci := rfl
@[simp] theorem State.onFrm_flt (s : State) (l : Nat) (f : FrameS → FrameS) : (s.onFrm l f).flt = s.flt := rfl
@[simp] theorem State.onFrm_cnt (s : State) (l : Nat) (f : FrameS → FrameS) : (s.onFrm l f).cnt = s.cnt := rfl
@[simp] theorem State.onFrm_pwr (s : State) (l : Nat) (f : FrameS → FrameS) : (s.onFrm l f).pwr = s.pwr := rfl
@[simp] theorem State.onFrm_rst (s : State) (l : Nat) (f : FrameS → FrameS) : (s.onFrm l f).rst = s.rst := rfl
@[simp] theorem State.onFrm_out (s : State) (l : Nat) (f : FrameS → FrameS) : (s.onFrm l f).out = s.out := rfl
@[simp] theorem State.onFrm_free (s : State) (l : Nat) (f : FrameS → FrameS) : (s.onFrm l f).free = s.free := rfl

@[simp] theorem State.onMar_pending (s : State) (l : Nat) (f : MartenL → MartenL) : (s.onMar l f).pending = s.pending := rfl
@[simp] theorem State.onMar_tick (s : State) (l : Nat) (f : MartenL → MartenL) : (s.onMar l f).tick = s.tick := rfl
@[simp] theorem State.onMar_conv (s : State) (l : Nat) (f : MartenL → MartenL) : (s.onMar l f).conv = s.conv := rfl
@[simp] theorem State.onMar_dsp (s : State) (l : Nat) (f : MartenL → MartenL) : (s.onMar l f).dsp = s.dsp := rfl
@[simp] theorem State.onMar_frm (s : State) (l : Nat) (f : MartenL → MartenL) : (s.onMar l f).frm = s.frm := rfl
@[simp] theorem State.onMar_cl (s : State) (l : Nat) (f : MartenL → MartenL) : (s.onMar l f).cl = s.cl := rfl
@[simp] theorem State.onMar_nut (s : State) (l : Nat) (f : MartenL → MartenL) : (s.onMar l f).nut = s.nut := rfl
@[simp] theorem State.onMar_sett (s : State) (l : Nat) (f : MartenL → MartenL) : (s.onMar l f).sett = s.sett := rfl
@[simp] theorem State.onMar_ecc (s : State) (l : Nat) (f : MartenL → MartenL) : (s.onMar l f).ecc = s.ecc := rfl
@[simp] theorem State.onMar_tim (s : State) (l : Nat) (f : MartenL → MartenL) : (s.onMar l f).tim = s.tim := rfl
@[simp] theorem State.onMar_clv (s : State) (l : Nat) (f : MartenL → MartenL) : (s.onMar l f).clv = s.clv := rfl
@[simp] theorem State.onMar_cmd (s : State) (l : Nat) (f : MartenL → MartenL) : (s.onMar l f).cmd = s.cmd := rfl
@[simp] theorem State.onMar_pci (s : State) (l : Nat) (f : MartenL → MartenL) : (s.onMar l f).pci = s.pci := rfl
@[simp] theorem State.onMar_flt (s : State) (l : Nat) (f : MartenL → MartenL) : (s.onMar l f).flt = s.flt := rfl
@[simp] theorem State.onMar_cnt (s : State) (l : Nat) (f : MartenL → MartenL) : (s.onMar l f).cnt = s.cnt := rfl
@[simp] theorem State.onMar_pwr (s : State) (l : Nat) (f : MartenL → MartenL) : (s.onMar l f).pwr = s.pwr := rfl
@[simp] theorem State.onMar_rst (s : State) (l : Nat) (f : MartenL → MartenL) : (s.onMar l f).rst = s.rst := rfl
@[simp] theorem State.onMar_out (s : State) (l : Nat) (f : MartenL → MartenL) : (s.onMar l f).out = s.out := rfl
@[simp] theorem State.onMar_free (s : State) (l : Nat) (f : MartenL → MartenL) : (s.onMar l f).free = s.free := rfl

@[simp] theorem State.onAdc_pending (s : State) (l a : Nat) (f : AdcS → AdcS) : (s.onAdc l a f).pending = s.pending := rfl
@[simp] theorem State.onAdc_tick (s : State) (l a : Nat) (f : AdcS → AdcS) : (s.onAdc l a f).tick = s.tick := rfl
@[simp] theorem State.onAdc_dsp (s : State) (l a : Nat) (f : AdcS → AdcS) : (s.onAdc l a f).dsp = s.dsp := rfl
@[simp] theorem State.onAdc_frm (s : State) (l a : Nat) (f : AdcS → AdcS) : (s.onAdc l a f).frm = s.frm := rfl
@[simp] theorem State.onAdc_cl (s : State) (l a : Nat) (f : AdcS → AdcS) : (s.onAdc l a f).cl = s.cl := rfl
@[simp] theorem State.onAdc_nut (s : State) (l a : Nat) (f : AdcS → AdcS) : (s.onAdc l a f).nut = s.nut := rfl
@[simp] theorem State.onAdc_sett (s : State) (l a : Nat) (f : AdcS → AdcS) : (s.onAdc l a f).sett = s.sett := rfl
@[simp] theorem State.onAdc_ecc (s : State) (l a : Nat) (f : AdcS → AdcS) : (s.onAdc l a f).ecc = s.ecc := rfl
@[simp] theorem State.onAdc_tim (s : State) (l a : Nat) (f : AdcS → AdcS) : (s.onAdc l a f).tim = s.tim := rfl
@[simp] theorem State.onAdc_mar (s : State) (l a : Nat) (f : AdcS → AdcS) : (s.onAdc l a f).mar = s.mar := rfl
@[simp] theorem State.onAdc_clv (s : State) (l a : Nat) (f : AdcS → AdcS) : (s.onAdc l a f).clv = s.clv := rfl
@[simp] theorem State.onAdc_cmd (s : State) (l a : Nat) (f : AdcS → AdcS) : (s.onAdc l a f).cmd = s.cmd := rfl
@[simp] theorem State.onAdc_pci (s : State) (l a : Nat) (f : AdcS → AdcS) : (s.onAdc l a f).pci = s.pci := rfl
@[simp] theorem State.onAdc_flt (s : State) (l a : Nat) (f : AdcS → AdcS) : (s.onAdc l a f).flt = s.flt := rfl
@[simp] theorem State.onAdc_cnt (s : State) (l a : Nat) (f : AdcS → AdcS) : (s.onAdc l a f).cnt = s.cnt := rfl
@[simp] theorem State.onAdc_pwr (s : State) (l a : Nat) (f : AdcS → AdcS) : (s.onAdc l a f).pwr = s.pwr := rfl
@[simp] theorem State.onAdc_rst (s : State) (l a : Nat) (f : AdcS → AdcS) : (s.onAdc l a f).rst = s.rst := rfl
@[simp] theorem State.onAdc_out (s : State) (l a : Nat) (f : AdcS → AdcS) : (s.onAdc l a f).out = s.out := rfl
@[simp] theorem State.onAdc_free (s : State) (l a : Nat) (f : AdcS → AdcS) : (s.onAdc l a f).free = s.free := rfl

@[simp] theorem State.onSc_pending (s : State) (l k : Nat) (f : ScS → ScS) : (s.onSc l k f).pending = s.pending := rfl
@[simp] theorem State.onSc_tick (s : State) (l k : Nat) (f : ScS → ScS) : (s.onSc l k f).tick = s.tick := rfl
@[simp] theorem State.onSc_conv (s : State) (l k : Nat) (f : ScS → ScS) : (s.onSc l k f).conv = s.conv := rfl
@[simp] theorem State.onSc_frm (s : State) (l k : Nat) (f : ScS → ScS) : (s.onSc l k f).frm = s.frm := rfl
@[simp] theorem State.onSc_cl (s : State) (l k : Nat) (f : ScS → ScS) : (s.onSc l k f).cl = s.cl := rfl
@[simp] theorem State.onSc_nut (s : State) (l k : Nat) (f : ScS → ScS) : (s.onSc l k f).nut = s.nut := rfl
@[simp] theorem State.onSc_sett (s : State) (l k : Nat) (f : ScS → ScS) : (s.onSc l k f).sett = s.sett := rfl
@[simp] theorem State.onSc_ecc (s : State) (l k : Nat) (f : ScS → ScS) : (s.onSc l k f).ecc = s.ecc := rfl
@[simp] theorem State.onSc_tim (s : State) (l k : Nat) (f : ScS → ScS) : (s.onSc l k f).tim = s.tim := rfl
@[simp] theorem State.onSc_mar (s : State) (l k : Nat) (f : ScS → ScS) : (s.onSc l k f).mar = s.mar := rfl
@[simp] theorem State.onSc_clv (s : State) (l k : Nat) (f : ScS → ScS) : (s.onSc l k f).clv = s.clv := rfl
@[simp] theorem State.onSc_cmd (s : State) (l k : Nat) (f : ScS → ScS) : (s.onSc l k f).cmd = s.cmd := rfl
@[simp] theorem State.onSc_pci (s : State) (l k : Nat) (f : ScS → ScS) : (s.onSc l k f).pci = s.pci := rfl
@[simp] theorem State.onSc_flt (s : State) (l k : Nat) (f : ScS → ScS) : (s.onSc l k f).flt = s.flt := rfl
@[simp] theorem State.onSc_cnt (s : State) (l k : Nat) (f : ScS → ScS) : (s.onSc l k f).cnt = s.cnt := rfl
@[simp] theorem State.onSc_pwr (s : State) (l k : Nat) (f : ScS → ScS) : (s.onSc l k f).pwr = s.pwr := rfl
@[simp] theorem State.onSc_rst (s : State) (l k : Nat) (f : ScS → ScS) : (s.onSc l k f).rst = s.rst := rfl
@[simp] theorem State.onSc_out (s : State) (l k : Nat) (f : ScS → ScS) : (s.onSc l k f).out = s.out := rfl
@[simp] theorem State.onSc_free (s : State) (l k : Nat) (f : ScS → ScS) : (s.onSc l k f).free = s.free := rfl

@[simp] theorem State.onLane_pending (s : State) (i : Nat) (f : LaneS → LaneS) : (s.onLane i f).pending = s.pending := rfl
@[simp] theorem State.onLane_tick (s : State) (i : Nat) (f : LaneS → LaneS) : (s.onLane i f).tick = s.tick := rfl
@[simp] theorem State.onLane_conv (s : State) (i : Nat) (f : LaneS → LaneS) : (s.onLane i f).conv = s.conv := rfl
@[simp] theorem State.onLane_dsp (s : State) (i : Nat) (f : LaneS → LaneS) : (s.onLane i f).dsp = s.dsp := rfl
@[simp] theorem State.onLane_frm (s : State) (i : Nat) (f : LaneS → LaneS) : (s.onLane i f).frm = s.frm := rfl
@[simp] theorem State.onLane_nut (s : State) (i : Nat) (f : LaneS → LaneS) : (s.onLane i f).nut = s.nut := rfl
@[simp] theorem State.onLane_sett (s : State) (i : Nat) (f : LaneS → LaneS) : (s.onLane i f).sett = s.sett := rfl
@[simp] theorem State.onLane_ecc (s : State) (i : Nat) (f : LaneS → LaneS) : (s.onLane i f).ecc = s.ecc := rfl
@[simp] theorem State.onLane_tim (s : State) (i : Nat) (f : LaneS → LaneS) : (s.onLane i f).tim = s.tim := rfl
@[simp] theorem State.onLane_mar (s : State) (i : Nat) (f : LaneS → LaneS) : (s.onLane i f).mar = s.mar := rfl
@[simp] theorem State.onLane_clv (s : State) (i : Nat) (f : LaneS → LaneS) : (s.onLane i f).clv = s.clv := rfl
@[simp] theorem State.onLane_cmd (s : State) (i : Nat) (f : LaneS → LaneS) : (s.onLane i f).cmd = s.cmd := rfl
@[simp] theorem State.onLane_pci (s : State) (i : Nat) (f : LaneS → LaneS) : (s.onLane i f).pci = s.pci := rfl
@[simp] theorem State.onLane_flt (s : State) (i : Nat) (f : LaneS → LaneS) : (s.onLane i f).flt = s.flt := rfl
@[simp] theorem State.onLane_cnt (s : State) (i : Nat) (f : LaneS → LaneS) : (s.onLane i f).cnt = s.cnt := rfl
@[simp] theorem State.onLane_pwr (s : State) (i : Nat) (f : LaneS → LaneS) : (s.onLane i f).pwr = s.pwr := rfl
@[simp] theorem State.onLane_rst (s : State) (i : Nat) (f : LaneS → LaneS) : (s.onLane i f).rst = s.rst := rfl
@[simp] theorem State.onLane_out (s : State) (i : Nat) (f : LaneS → LaneS) : (s.onLane i f).out = s.out := rfl
@[simp] theorem State.onLane_free (s : State) (i : Nat) (f : LaneS → LaneS) : (s.onLane i f).free = s.free := rfl

@[simp] theorem State.onPort_pending (s : State) (p : Nat) (f : PortS → PortS) : (s.onPort p f).pending = s.pending := rfl
@[simp] theorem State.onPort_tick (s : State) (p : Nat) (f : PortS → PortS) : (s.onPort p f).tick = s.tick := rfl
@[simp] theorem State.onPort_conv (s : State) (p : Nat) (f : PortS → PortS) : (s.onPort p f).conv = s.conv := rfl
@[simp] theorem State.onPort_dsp (s : State) (p : Nat) (f : PortS → PortS) : (s.onPort p f).dsp = s.dsp := rfl
@[simp] theorem State.onPort_frm (s : State) (p : Nat) (f : PortS → PortS) : (s.onPort p f).frm = s.frm := rfl
@[simp] theorem State.onPort_nut (s : State) (p : Nat) (f : PortS → PortS) : (s.onPort p f).nut = s.nut := rfl
@[simp] theorem State.onPort_sett (s : State) (p : Nat) (f : PortS → PortS) : (s.onPort p f).sett = s.sett := rfl
@[simp] theorem State.onPort_ecc (s : State) (p : Nat) (f : PortS → PortS) : (s.onPort p f).ecc = s.ecc := rfl
@[simp] theorem State.onPort_tim (s : State) (p : Nat) (f : PortS → PortS) : (s.onPort p f).tim = s.tim := rfl
@[simp] theorem State.onPort_mar (s : State) (p : Nat) (f : PortS → PortS) : (s.onPort p f).mar = s.mar := rfl
@[simp] theorem State.onPort_clv (s : State) (p : Nat) (f : PortS → PortS) : (s.onPort p f).clv = s.clv := rfl
@[simp] theorem State.onPort_cmd (s : State) (p : Nat) (f : PortS → PortS) : (s.onPort p f).cmd = s.cmd := rfl
@[simp] theorem State.onPort_pci (s : State) (p : Nat) (f : PortS → PortS) : (s.onPort p f).pci = s.pci := rfl
@[simp] theorem State.onPort_flt (s : State) (p : Nat) (f : PortS → PortS) : (s.onPort p f).flt = s.flt := rfl
@[simp] theorem State.onPort_cnt (s : State) (p : Nat) (f : PortS → PortS) : (s.onPort p f).cnt = s.cnt := rfl
@[simp] theorem State.onPort_pwr (s : State) (p : Nat) (f : PortS → PortS) : (s.onPort p f).pwr = s.pwr := rfl
@[simp] theorem State.onPort_rst (s : State) (p : Nat) (f : PortS → PortS) : (s.onPort p f).rst = s.rst := rfl
@[simp] theorem State.onPort_out (s : State) (p : Nat) (f : PortS → PortS) : (s.onPort p f).out = s.out := rfl
@[simp] theorem State.onPort_free (s : State) (p : Nat) (f : PortS → PortS) : (s.onPort p f).free = s.free := rfl

@[simp] theorem State.onFlow_pending (s : State) (n : Nat) (f : FlowS → FlowS) : (s.onFlow n f).pending = s.pending := rfl
@[simp] theorem State.onFlow_tick (s : State) (n : Nat) (f : FlowS → FlowS) : (s.onFlow n f).tick = s.tick := rfl
@[simp] theorem State.onFlow_conv (s : State) (n : Nat) (f : FlowS → FlowS) : (s.onFlow n f).conv = s.conv := rfl
@[simp] theorem State.onFlow_dsp (s : State) (n : Nat) (f : FlowS → FlowS) : (s.onFlow n f).dsp = s.dsp := rfl
@[simp] theorem State.onFlow_frm (s : State) (n : Nat) (f : FlowS → FlowS) : (s.onFlow n f).frm = s.frm := rfl
@[simp] theorem State.onFlow_nut (s : State) (n : Nat) (f : FlowS → FlowS) : (s.onFlow n f).nut = s.nut := rfl
@[simp] theorem State.onFlow_sett (s : State) (n : Nat) (f : FlowS → FlowS) : (s.onFlow n f).sett = s.sett := rfl
@[simp] theorem State.onFlow_ecc (s : State) (n : Nat) (f : FlowS → FlowS) : (s.onFlow n f).ecc = s.ecc := rfl
@[simp] theorem State.onFlow_tim (s : State) (n : Nat) (f : FlowS → FlowS) : (s.onFlow n f).tim = s.tim := rfl
@[simp] theorem State.onFlow_mar (s : State) (n : Nat) (f : FlowS → FlowS) : (s.onFlow n f).mar = s.mar := rfl
@[simp] theorem State.onFlow_clv (s : State) (n : Nat) (f : FlowS → FlowS) : (s.onFlow n f).clv = s.clv := rfl
@[simp] theorem State.onFlow_cmd (s : State) (n : Nat) (f : FlowS → FlowS) : (s.onFlow n f).cmd = s.cmd := rfl
@[simp] theorem State.onFlow_pci (s : State) (n : Nat) (f : FlowS → FlowS) : (s.onFlow n f).pci = s.pci := rfl
@[simp] theorem State.onFlow_flt (s : State) (n : Nat) (f : FlowS → FlowS) : (s.onFlow n f).flt = s.flt := rfl
@[simp] theorem State.onFlow_cnt (s : State) (n : Nat) (f : FlowS → FlowS) : (s.onFlow n f).cnt = s.cnt := rfl
@[simp] theorem State.onFlow_pwr (s : State) (n : Nat) (f : FlowS → FlowS) : (s.onFlow n f).pwr = s.pwr := rfl
@[simp] theorem State.onFlow_rst (s : State) (n : Nat) (f : FlowS → FlowS) : (s.onFlow n f).rst = s.rst := rfl
@[simp] theorem State.onFlow_out (s : State) (n : Nat) (f : FlowS → FlowS) : (s.onFlow n f).out = s.out := rfl
@[simp] theorem State.onFlow_free (s : State) (n : Nat) (f : FlowS → FlowS) : (s.onFlow n f).free = s.free := rfl

@[simp] theorem State.onSa_pending (s : State) (n : Nat) (f : SaS → SaS) : (s.onSa n f).pending = s.pending := rfl
@[simp] theorem State.onSa_tick (s : State) (n : Nat) (f : SaS → SaS) : (s.onSa n f).tick = s.tick := rfl
@[simp] theorem State.onSa_conv (s : State) (n : Nat) (f : SaS → SaS) : (s.onSa n f).conv = s.conv := rfl
@[simp] theorem State.onSa_dsp (s : State) (n : Nat) (f : SaS → SaS) : (s.onSa n f).dsp = s.dsp := rfl
@[simp] theorem State.onSa_frm (s : State) (n : Nat) (f : SaS → SaS) : (s.onSa n f).frm = s.frm := rfl
@[simp] theorem State.onSa_cl (s : State) (n : Nat) (f : SaS → SaS) : (s.onSa n f).cl = s.cl := rfl
@[simp] theorem State.onSa_sett (s : State) (n : Nat) (f : SaS → SaS) : (s.onSa n f).sett = s.sett := rfl
@[simp] theorem State.onSa_ecc (s : State) (n : Nat) (f : SaS → SaS) : (s.onSa n f).ecc = s.ecc := rfl
@[simp] theorem State.onSa_tim (s : State) (n : Nat) (f : SaS → SaS) : (s.onSa n f).tim = s.tim := rfl
@[simp] theorem State.onSa_mar (s : State) (n : Nat) (f : SaS → SaS) : (s.onSa n f).mar = s.mar := rfl
@[simp] theorem State.onSa_clv (s : State) (n : Nat) (f : SaS → SaS) : (s.onSa n f).clv = s.clv := rfl
@[simp] theorem State.onSa_cmd (s : State) (n : Nat) (f : SaS → SaS) : (s.onSa n f).cmd = s.cmd := rfl
@[simp] theorem State.onSa_pci (s : State) (n : Nat) (f : SaS → SaS) : (s.onSa n f).pci = s.pci := rfl
@[simp] theorem State.onSa_flt (s : State) (n : Nat) (f : SaS → SaS) : (s.onSa n f).flt = s.flt := rfl
@[simp] theorem State.onSa_cnt (s : State) (n : Nat) (f : SaS → SaS) : (s.onSa n f).cnt = s.cnt := rfl
@[simp] theorem State.onSa_pwr (s : State) (n : Nat) (f : SaS → SaS) : (s.onSa n f).pwr = s.pwr := rfl
@[simp] theorem State.onSa_rst (s : State) (n : Nat) (f : SaS → SaS) : (s.onSa n f).rst = s.rst := rfl
@[simp] theorem State.onSa_out (s : State) (n : Nat) (f : SaS → SaS) : (s.onSa n f).out = s.out := rfl
@[simp] theorem State.onSa_free (s : State) (n : Nat) (f : SaS → SaS) : (s.onSa n f).free = s.free := rfl

@[simp] theorem State.onMg_pending (s : State) (n : Nat) (f : MergeS → MergeS) : (s.onMg n f).pending = s.pending := rfl
@[simp] theorem State.onMg_tick (s : State) (n : Nat) (f : MergeS → MergeS) : (s.onMg n f).tick = s.tick := rfl
@[simp] theorem State.onMg_conv (s : State) (n : Nat) (f : MergeS → MergeS) : (s.onMg n f).conv = s.conv := rfl
@[simp] theorem State.onMg_dsp (s : State) (n : Nat) (f : MergeS → MergeS) : (s.onMg n f).dsp = s.dsp := rfl
@[simp] theorem State.onMg_frm (s : State) (n : Nat) (f : MergeS → MergeS) : (s.onMg n f).frm = s.frm := rfl
@[simp] theorem State.onMg_cl (s : State) (n : Nat) (f : MergeS → MergeS) : (s.onMg n f).cl = s.cl := rfl
@[simp] theorem State.onMg_nut (s : State) (n : Nat) (f : MergeS → MergeS) : (s.onMg n f).nut = s.nut := rfl
@[simp] theorem State.onMg_ecc (s : State) (n : Nat) (f : MergeS → MergeS) : (s.onMg n f).ecc = s.ecc := rfl
@[simp] theorem State.onMg_tim (s : State) (n : Nat) (f : MergeS → MergeS) : (s.onMg n f).tim = s.tim := rfl
@[simp] theorem State.onMg_mar (s : State) (n : Nat) (f : MergeS → MergeS) : (s.onMg n f).mar = s.mar := rfl
@[simp] theorem State.onMg_clv (s : State) (n : Nat) (f : MergeS → MergeS) : (s.onMg n f).clv = s.clv := rfl
@[simp] theorem State.onMg_cmd (s : State) (n : Nat) (f : MergeS → MergeS) : (s.onMg n f).cmd = s.cmd := rfl
@[simp] theorem State.onMg_pci (s : State) (n : Nat) (f : MergeS → MergeS) : (s.onMg n f).pci = s.pci := rfl
@[simp] theorem State.onMg_flt (s : State) (n : Nat) (f : MergeS → MergeS) : (s.onMg n f).flt = s.flt := rfl
@[simp] theorem State.onMg_cnt (s : State) (n : Nat) (f : MergeS → MergeS) : (s.onMg n f).cnt = s.cnt := rfl
@[simp] theorem State.onMg_pwr (s : State) (n : Nat) (f : MergeS → MergeS) : (s.onMg n f).pwr = s.pwr := rfl
@[simp] theorem State.onMg_rst (s : State) (n : Nat) (f : MergeS → MergeS) : (s.onMg n f).rst = s.rst := rfl
@[simp] theorem State.onMg_out (s : State) (n : Nat) (f : MergeS → MergeS) : (s.onMg n f).out = s.out := rfl
@[simp] theorem State.onMg_free (s : State) (n : Nat) (f : MergeS → MergeS) : (s.onMg n f).free = s.free := rfl

@[simp] theorem State.onTgt_pending (s : State) (t : Nat) (f : EccT → EccT) : (s.onTgt t f).pending = s.pending := rfl
@[simp] theorem State.onTgt_tick (s : State) (t : Nat) (f : EccT → EccT) : (s.onTgt t f).tick = s.tick := rfl
@[simp] theorem State.onTgt_conv (s : State) (t : Nat) (f : EccT → EccT) : (s.onTgt t f).conv = s.conv := rfl
@[simp] theorem State.onTgt_dsp (s : State) (t : Nat) (f : EccT → EccT) : (s.onTgt t f).dsp = s.dsp := rfl
@[simp] theorem State.onTgt_frm (s : State) (t : Nat) (f : EccT → EccT) : (s.onTgt t f).frm = s.frm := rfl
@[simp] theorem State.onTgt_cl (s : State) (t : Nat) (f : EccT → EccT) : (s.onTgt t f).cl = s.cl := rfl
@[simp] theorem State.onTgt_nut (s : State) (t : Nat) (f : EccT → EccT) : (s.onTgt t f).nut = s.nut := rfl
@[simp] theorem State.onTgt_sett (s : State) (t : Nat) (f : EccT → EccT) : (s.onTgt t f).sett = s.sett := rfl
@[simp] theorem State.onTgt_tim (s : State) (t : Nat) (f : EccT → EccT) : (s.onTgt t f).tim = s.tim := rfl
@[simp] theorem State.onTgt_mar (s : State) (t : Nat) (f : EccT → EccT) : (s.onTgt t f).mar = s.mar := rfl
@[simp] theorem State.onTgt_clv (s : State) (t : Nat) (f : EccT → EccT) : (s.onTgt t f).clv = s.clv := rfl
@[simp] theorem State.onTgt_cmd (s : State) (t : Nat) (f : EccT → EccT) : (s.onTgt t f).cmd = s.cmd := rfl
@[simp] theorem State.onTgt_pci (s : State) (t : Nat) (f : EccT → EccT) : (s.onTgt t f).pci = s.pci := rfl
@[simp] theorem State.onTgt_flt (s : State) (t : Nat) (f : EccT → EccT) : (s.onTgt t f).flt = s.flt := rfl
@[simp] theorem State.onTgt_cnt (s : State) (t : Nat) (f : EccT → EccT) : (s.onTgt t f).cnt = s.cnt := rfl
@[simp] theorem State.onTgt_pwr (s : State) (t : Nat) (f : EccT → EccT) : (s.onTgt t f).pwr = s.pwr := rfl
@[simp] theorem State.onTgt_rst (s : State) (t : Nat) (f : EccT → EccT) : (s.onTgt t f).rst = s.rst := rfl
@[simp] theorem State.onTgt_out (s : State) (t : Nat) (f : EccT → EccT) : (s.onTgt t f).out = s.out := rfl
@[simp] theorem State.onTgt_free (s : State) (t : Nat) (f : EccT → EccT) : (s.onTgt t f).free = s.free := rfl

@[simp] theorem State.onRef_pending (s : State) (k : Nat) (f : RefS → RefS) : (s.onRef k f).pending = s.pending := rfl
@[simp] theorem State.onRef_tick (s : State) (k : Nat) (f : RefS → RefS) : (s.onRef k f).tick = s.tick := rfl
@[simp] theorem State.onRef_conv (s : State) (k : Nat) (f : RefS → RefS) : (s.onRef k f).conv = s.conv := rfl
@[simp] theorem State.onRef_dsp (s : State) (k : Nat) (f : RefS → RefS) : (s.onRef k f).dsp = s.dsp := rfl
@[simp] theorem State.onRef_frm (s : State) (k : Nat) (f : RefS → RefS) : (s.onRef k f).frm = s.frm := rfl
@[simp] theorem State.onRef_cl (s : State) (k : Nat) (f : RefS → RefS) : (s.onRef k f).cl = s.cl := rfl
@[simp] theorem State.onRef_nut (s : State) (k : Nat) (f : RefS → RefS) : (s.onRef k f).nut = s.nut := rfl
@[simp] theorem State.onRef_sett (s : State) (k : Nat) (f : RefS → RefS) : (s.onRef k f).sett = s.sett := rfl
@[simp] theorem State.onRef_ecc (s : State) (k : Nat) (f : RefS → RefS) : (s.onRef k f).ecc = s.ecc := rfl
@[simp] theorem State.onRef_mar (s : State) (k : Nat) (f : RefS → RefS) : (s.onRef k f).mar = s.mar := rfl
@[simp] theorem State.onRef_clv (s : State) (k : Nat) (f : RefS → RefS) : (s.onRef k f).clv = s.clv := rfl
@[simp] theorem State.onRef_cmd (s : State) (k : Nat) (f : RefS → RefS) : (s.onRef k f).cmd = s.cmd := rfl
@[simp] theorem State.onRef_pci (s : State) (k : Nat) (f : RefS → RefS) : (s.onRef k f).pci = s.pci := rfl
@[simp] theorem State.onRef_flt (s : State) (k : Nat) (f : RefS → RefS) : (s.onRef k f).flt = s.flt := rfl
@[simp] theorem State.onRef_cnt (s : State) (k : Nat) (f : RefS → RefS) : (s.onRef k f).cnt = s.cnt := rfl
@[simp] theorem State.onRef_pwr (s : State) (k : Nat) (f : RefS → RefS) : (s.onRef k f).pwr = s.pwr := rfl
@[simp] theorem State.onRef_rst (s : State) (k : Nat) (f : RefS → RefS) : (s.onRef k f).rst = s.rst := rfl
@[simp] theorem State.onRef_out (s : State) (k : Nat) (f : RefS → RefS) : (s.onRef k f).out = s.out := rfl
@[simp] theorem State.onRef_free (s : State) (k : Nat) (f : RefS → RefS) : (s.onRef k f).free = s.free := rfl

@[simp] theorem State.onOut_pending (s : State) (k : Nat) (f : OutS → OutS) : (s.onOut k f).pending = s.pending := rfl
@[simp] theorem State.onOut_tick (s : State) (k : Nat) (f : OutS → OutS) : (s.onOut k f).tick = s.tick := rfl
@[simp] theorem State.onOut_conv (s : State) (k : Nat) (f : OutS → OutS) : (s.onOut k f).conv = s.conv := rfl
@[simp] theorem State.onOut_dsp (s : State) (k : Nat) (f : OutS → OutS) : (s.onOut k f).dsp = s.dsp := rfl
@[simp] theorem State.onOut_frm (s : State) (k : Nat) (f : OutS → OutS) : (s.onOut k f).frm = s.frm := rfl
@[simp] theorem State.onOut_cl (s : State) (k : Nat) (f : OutS → OutS) : (s.onOut k f).cl = s.cl := rfl
@[simp] theorem State.onOut_nut (s : State) (k : Nat) (f : OutS → OutS) : (s.onOut k f).nut = s.nut := rfl
@[simp] theorem State.onOut_sett (s : State) (k : Nat) (f : OutS → OutS) : (s.onOut k f).sett = s.sett := rfl
@[simp] theorem State.onOut_ecc (s : State) (k : Nat) (f : OutS → OutS) : (s.onOut k f).ecc = s.ecc := rfl
@[simp] theorem State.onOut_mar (s : State) (k : Nat) (f : OutS → OutS) : (s.onOut k f).mar = s.mar := rfl
@[simp] theorem State.onOut_clv (s : State) (k : Nat) (f : OutS → OutS) : (s.onOut k f).clv = s.clv := rfl
@[simp] theorem State.onOut_cmd (s : State) (k : Nat) (f : OutS → OutS) : (s.onOut k f).cmd = s.cmd := rfl
@[simp] theorem State.onOut_pci (s : State) (k : Nat) (f : OutS → OutS) : (s.onOut k f).pci = s.pci := rfl
@[simp] theorem State.onOut_flt (s : State) (k : Nat) (f : OutS → OutS) : (s.onOut k f).flt = s.flt := rfl
@[simp] theorem State.onOut_cnt (s : State) (k : Nat) (f : OutS → OutS) : (s.onOut k f).cnt = s.cnt := rfl
@[simp] theorem State.onOut_pwr (s : State) (k : Nat) (f : OutS → OutS) : (s.onOut k f).pwr = s.pwr := rfl
@[simp] theorem State.onOut_rst (s : State) (k : Nat) (f : OutS → OutS) : (s.onOut k f).rst = s.rst := rfl
@[simp] theorem State.onOut_out (s : State) (k : Nat) (f : OutS → OutS) : (s.onOut k f).out = s.out := rfl
@[simp] theorem State.onOut_free (s : State) (k : Nat) (f : OutS → OutS) : (s.onOut k f).free = s.free := rfl

@[simp] theorem State.onDet_pending (s : State) (k : Nat) (f : DetS → DetS) : (s.onDet k f).pending = s.pending := rfl
@[simp] theorem State.onDet_tick (s : State) (k : Nat) (f : DetS → DetS) : (s.onDet k f).tick = s.tick := rfl
@[simp] theorem State.onDet_conv (s : State) (k : Nat) (f : DetS → DetS) : (s.onDet k f).conv = s.conv := rfl
@[simp] theorem State.onDet_dsp (s : State) (k : Nat) (f : DetS → DetS) : (s.onDet k f).dsp = s.dsp := rfl
@[simp] theorem State.onDet_frm (s : State) (k : Nat) (f : DetS → DetS) : (s.onDet k f).frm = s.frm := rfl
@[simp] theorem State.onDet_cl (s : State) (k : Nat) (f : DetS → DetS) : (s.onDet k f).cl = s.cl := rfl
@[simp] theorem State.onDet_nut (s : State) (k : Nat) (f : DetS → DetS) : (s.onDet k f).nut = s.nut := rfl
@[simp] theorem State.onDet_sett (s : State) (k : Nat) (f : DetS → DetS) : (s.onDet k f).sett = s.sett := rfl
@[simp] theorem State.onDet_ecc (s : State) (k : Nat) (f : DetS → DetS) : (s.onDet k f).ecc = s.ecc := rfl
@[simp] theorem State.onDet_tim (s : State) (k : Nat) (f : DetS → DetS) : (s.onDet k f).tim = s.tim := rfl
@[simp] theorem State.onDet_mar (s : State) (k : Nat) (f : DetS → DetS) : (s.onDet k f).mar = s.mar := rfl
@[simp] theorem State.onDet_cmd (s : State) (k : Nat) (f : DetS → DetS) : (s.onDet k f).cmd = s.cmd := rfl
@[simp] theorem State.onDet_pci (s : State) (k : Nat) (f : DetS → DetS) : (s.onDet k f).pci = s.pci := rfl
@[simp] theorem State.onDet_flt (s : State) (k : Nat) (f : DetS → DetS) : (s.onDet k f).flt = s.flt := rfl
@[simp] theorem State.onDet_cnt (s : State) (k : Nat) (f : DetS → DetS) : (s.onDet k f).cnt = s.cnt := rfl
@[simp] theorem State.onDet_pwr (s : State) (k : Nat) (f : DetS → DetS) : (s.onDet k f).pwr = s.pwr := rfl
@[simp] theorem State.onDet_rst (s : State) (k : Nat) (f : DetS → DetS) : (s.onDet k f).rst = s.rst := rfl
@[simp] theorem State.onDet_out (s : State) (k : Nat) (f : DetS → DetS) : (s.onDet k f).out = s.out := rfl
@[simp] theorem State.onDet_free (s : State) (k : Nat) (f : DetS → DetS) : (s.onDet k f).free = s.free := rfl

@[simp] theorem State.onBias_pending (s : State) (k : Nat) (f : BiasS → BiasS) : (s.onBias k f).pending = s.pending := rfl
@[simp] theorem State.onBias_tick (s : State) (k : Nat) (f : BiasS → BiasS) : (s.onBias k f).tick = s.tick := rfl
@[simp] theorem State.onBias_conv (s : State) (k : Nat) (f : BiasS → BiasS) : (s.onBias k f).conv = s.conv := rfl
@[simp] theorem State.onBias_dsp (s : State) (k : Nat) (f : BiasS → BiasS) : (s.onBias k f).dsp = s.dsp := rfl
@[simp] theorem State.onBias_frm (s : State) (k : Nat) (f : BiasS → BiasS) : (s.onBias k f).frm = s.frm := rfl
@[simp] theorem State.onBias_cl (s : State) (k : Nat) (f : BiasS → BiasS) : (s.onBias k f).cl = s.cl := rfl
@[simp] theorem State.onBias_nut (s : State) (k : Nat) (f : BiasS → BiasS) : (s.onBias k f).nut = s.nut := rfl
@[simp] theorem State.onBias_sett (s : State) (k : Nat) (f : BiasS → BiasS) : (s.onBias k f).sett = s.sett := rfl
@[simp] theorem State.onBias_ecc (s : State) (k : Nat) (f : BiasS → BiasS) : (s.onBias k f).ecc = s.ecc := rfl
@[simp] theorem State.onBias_tim (s : State) (k : Nat) (f : BiasS → BiasS) : (s.onBias k f).tim = s.tim := rfl
@[simp] theorem State.onBias_mar (s : State) (k : Nat) (f : BiasS → BiasS) : (s.onBias k f).mar = s.mar := rfl
@[simp] theorem State.onBias_cmd (s : State) (k : Nat) (f : BiasS → BiasS) : (s.onBias k f).cmd = s.cmd := rfl
@[simp] theorem State.onBias_pci (s : State) (k : Nat) (f : BiasS → BiasS) : (s.onBias k f).pci = s.pci := rfl
@[simp] theorem State.onBias_flt (s : State) (k : Nat) (f : BiasS → BiasS) : (s.onBias k f).flt = s.flt := rfl
@[simp] theorem State.onBias_cnt (s : State) (k : Nat) (f : BiasS → BiasS) : (s.onBias k f).cnt = s.cnt := rfl
@[simp] theorem State.onBias_pwr (s : State) (k : Nat) (f : BiasS → BiasS) : (s.onBias k f).pwr = s.pwr := rfl
@[simp] theorem State.onBias_rst (s : State) (k : Nat) (f : BiasS → BiasS) : (s.onBias k f).rst = s.rst := rfl
@[simp] theorem State.onBias_out (s : State) (k : Nat) (f : BiasS → BiasS) : (s.onBias k f).out = s.out := rfl
@[simp] theorem State.onBias_free (s : State) (k : Nat) (f : BiasS → BiasS) : (s.onBias k f).free = s.free := rfl

@[simp] theorem State.onRing_pending (s : State) (r : Nat) (f : RingS → RingS) : (s.onRing r f).pending = s.pending := rfl
@[simp] theorem State.onRing_tick (s : State) (r : Nat) (f : RingS → RingS) : (s.onRing r f).tick = s.tick := rfl
@[simp] theorem State.onRing_conv (s : State) (r : Nat) (f : RingS → RingS) : (s.onRing r f).conv = s.conv := rfl
@[simp] theorem State.onRing_dsp (s : State) (r : Nat) (f : RingS → RingS) : (s.onRing r f).dsp = s.dsp := rfl
@[simp] theorem State.onRing_frm (s : State) (r : Nat) (f : RingS → RingS) : (s.onRing r f).frm = s.frm := rfl
@[simp] theorem State.onRing_cl (s : State) (r : Nat) (f : RingS → RingS) : (s.onRing r f).cl = s.cl := rfl
@[simp] theorem State.onRing_nut (s : State) (r : Nat) (f : RingS → RingS) : (s.onRing r f).nut = s.nut := rfl
@[simp] theorem State.onRing_sett (s : State) (r : Nat) (f : RingS → RingS) : (s.onRing r f).sett = s.sett := rfl
@[simp] theorem State.onRing_ecc (s : State) (r : Nat) (f : RingS → RingS) : (s.onRing r f).ecc = s.ecc := rfl
@[simp] theorem State.onRing_tim (s : State) (r : Nat) (f : RingS → RingS) : (s.onRing r f).tim = s.tim := rfl
@[simp] theorem State.onRing_mar (s : State) (r : Nat) (f : RingS → RingS) : (s.onRing r f).mar = s.mar := rfl
@[simp] theorem State.onRing_clv (s : State) (r : Nat) (f : RingS → RingS) : (s.onRing r f).clv = s.clv := rfl
@[simp] theorem State.onRing_pci (s : State) (r : Nat) (f : RingS → RingS) : (s.onRing r f).pci = s.pci := rfl
@[simp] theorem State.onRing_flt (s : State) (r : Nat) (f : RingS → RingS) : (s.onRing r f).flt = s.flt := rfl
@[simp] theorem State.onRing_cnt (s : State) (r : Nat) (f : RingS → RingS) : (s.onRing r f).cnt = s.cnt := rfl
@[simp] theorem State.onRing_pwr (s : State) (r : Nat) (f : RingS → RingS) : (s.onRing r f).pwr = s.pwr := rfl
@[simp] theorem State.onRing_rst (s : State) (r : Nat) (f : RingS → RingS) : (s.onRing r f).rst = s.rst := rfl
@[simp] theorem State.onRing_out (s : State) (r : Nat) (f : RingS → RingS) : (s.onRing r f).out = s.out := rfl
@[simp] theorem State.onRing_free (s : State) (r : Nat) (f : RingS → RingS) : (s.onRing r f).free = s.free := rfl

@[simp] theorem State.onReg_pending (s : State) (r : Nat) (f : RegS → RegS) : (s.onReg r f).pending = s.pending := rfl
@[simp] theorem State.onReg_tick (s : State) (r : Nat) (f : RegS → RegS) : (s.onReg r f).tick = s.tick := rfl
@[simp] theorem State.onReg_conv (s : State) (r : Nat) (f : RegS → RegS) : (s.onReg r f).conv = s.conv := rfl
@[simp] theorem State.onReg_dsp (s : State) (r : Nat) (f : RegS → RegS) : (s.onReg r f).dsp = s.dsp := rfl
@[simp] theorem State.onReg_frm (s : State) (r : Nat) (f : RegS → RegS) : (s.onReg r f).frm = s.frm := rfl
@[simp] theorem State.onReg_cl (s : State) (r : Nat) (f : RegS → RegS) : (s.onReg r f).cl = s.cl := rfl
@[simp] theorem State.onReg_nut (s : State) (r : Nat) (f : RegS → RegS) : (s.onReg r f).nut = s.nut := rfl
@[simp] theorem State.onReg_sett (s : State) (r : Nat) (f : RegS → RegS) : (s.onReg r f).sett = s.sett := rfl
@[simp] theorem State.onReg_ecc (s : State) (r : Nat) (f : RegS → RegS) : (s.onReg r f).ecc = s.ecc := rfl
@[simp] theorem State.onReg_tim (s : State) (r : Nat) (f : RegS → RegS) : (s.onReg r f).tim = s.tim := rfl
@[simp] theorem State.onReg_mar (s : State) (r : Nat) (f : RegS → RegS) : (s.onReg r f).mar = s.mar := rfl
@[simp] theorem State.onReg_clv (s : State) (r : Nat) (f : RegS → RegS) : (s.onReg r f).clv = s.clv := rfl
@[simp] theorem State.onReg_cmd (s : State) (r : Nat) (f : RegS → RegS) : (s.onReg r f).cmd = s.cmd := rfl
@[simp] theorem State.onReg_pci (s : State) (r : Nat) (f : RegS → RegS) : (s.onReg r f).pci = s.pci := rfl
@[simp] theorem State.onReg_flt (s : State) (r : Nat) (f : RegS → RegS) : (s.onReg r f).flt = s.flt := rfl
@[simp] theorem State.onReg_cnt (s : State) (r : Nat) (f : RegS → RegS) : (s.onReg r f).cnt = s.cnt := rfl
@[simp] theorem State.onReg_rst (s : State) (r : Nat) (f : RegS → RegS) : (s.onReg r f).rst = s.rst := rfl
@[simp] theorem State.onReg_out (s : State) (r : Nat) (f : RegS → RegS) : (s.onReg r f).out = s.out := rfl
@[simp] theorem State.onReg_free (s : State) (r : Nat) (f : RegS → RegS) : (s.onReg r f).free = s.free := rfl

@[simp] theorem State.onLink_pending (s : State) (b : Bool) (f : LinkS → LinkS) : (s.onLink b f).pending = s.pending := rfl
@[simp] theorem State.onLink_tick (s : State) (b : Bool) (f : LinkS → LinkS) : (s.onLink b f).tick = s.tick := rfl
@[simp] theorem State.onLink_conv (s : State) (b : Bool) (f : LinkS → LinkS) : (s.onLink b f).conv = s.conv := rfl
@[simp] theorem State.onLink_dsp (s : State) (b : Bool) (f : LinkS → LinkS) : (s.onLink b f).dsp = s.dsp := rfl
@[simp] theorem State.onLink_frm (s : State) (b : Bool) (f : LinkS → LinkS) : (s.onLink b f).frm = s.frm := rfl
@[simp] theorem State.onLink_cl (s : State) (b : Bool) (f : LinkS → LinkS) : (s.onLink b f).cl = s.cl := rfl
@[simp] theorem State.onLink_nut (s : State) (b : Bool) (f : LinkS → LinkS) : (s.onLink b f).nut = s.nut := rfl
@[simp] theorem State.onLink_sett (s : State) (b : Bool) (f : LinkS → LinkS) : (s.onLink b f).sett = s.sett := rfl
@[simp] theorem State.onLink_ecc (s : State) (b : Bool) (f : LinkS → LinkS) : (s.onLink b f).ecc = s.ecc := rfl
@[simp] theorem State.onLink_mar (s : State) (b : Bool) (f : LinkS → LinkS) : (s.onLink b f).mar = s.mar := rfl
@[simp] theorem State.onLink_clv (s : State) (b : Bool) (f : LinkS → LinkS) : (s.onLink b f).clv = s.clv := rfl
@[simp] theorem State.onLink_cmd (s : State) (b : Bool) (f : LinkS → LinkS) : (s.onLink b f).cmd = s.cmd := rfl
@[simp] theorem State.onLink_pci (s : State) (b : Bool) (f : LinkS → LinkS) : (s.onLink b f).pci = s.pci := rfl
@[simp] theorem State.onLink_flt (s : State) (b : Bool) (f : LinkS → LinkS) : (s.onLink b f).flt = s.flt := rfl
@[simp] theorem State.onLink_cnt (s : State) (b : Bool) (f : LinkS → LinkS) : (s.onLink b f).cnt = s.cnt := rfl
@[simp] theorem State.onLink_pwr (s : State) (b : Bool) (f : LinkS → LinkS) : (s.onLink b f).pwr = s.pwr := rfl
@[simp] theorem State.onLink_rst (s : State) (b : Bool) (f : LinkS → LinkS) : (s.onLink b f).rst = s.rst := rfl
@[simp] theorem State.onLink_out (s : State) (b : Bool) (f : LinkS → LinkS) : (s.onLink b f).out = s.out := rfl
@[simp] theorem State.onLink_free (s : State) (b : Bool) (f : LinkS → LinkS) : (s.onLink b f).free = s.free := rfl

@[simp] theorem State.onClv_pending (s : State) (f : CloveS → CloveS) : (s.onClv f).pending = s.pending := rfl
@[simp] theorem State.onClv_tick (s : State) (f : CloveS → CloveS) : (s.onClv f).tick = s.tick := rfl
@[simp] theorem State.onClv_conv (s : State) (f : CloveS → CloveS) : (s.onClv f).conv = s.conv := rfl
@[simp] theorem State.onClv_dsp (s : State) (f : CloveS → CloveS) : (s.onClv f).dsp = s.dsp := rfl
@[simp] theorem State.onClv_frm (s : State) (f : CloveS → CloveS) : (s.onClv f).frm = s.frm := rfl
@[simp] theorem State.onClv_cl (s : State) (f : CloveS → CloveS) : (s.onClv f).cl = s.cl := rfl
@[simp] theorem State.onClv_nut (s : State) (f : CloveS → CloveS) : (s.onClv f).nut = s.nut := rfl
@[simp] theorem State.onClv_sett (s : State) (f : CloveS → CloveS) : (s.onClv f).sett = s.sett := rfl
@[simp] theorem State.onClv_ecc (s : State) (f : CloveS → CloveS) : (s.onClv f).ecc = s.ecc := rfl
@[simp] theorem State.onClv_tim (s : State) (f : CloveS → CloveS) : (s.onClv f).tim = s.tim := rfl
@[simp] theorem State.onClv_mar (s : State) (f : CloveS → CloveS) : (s.onClv f).mar = s.mar := rfl
@[simp] theorem State.onClv_cmd (s : State) (f : CloveS → CloveS) : (s.onClv f).cmd = s.cmd := rfl
@[simp] theorem State.onClv_pci (s : State) (f : CloveS → CloveS) : (s.onClv f).pci = s.pci := rfl
@[simp] theorem State.onClv_flt (s : State) (f : CloveS → CloveS) : (s.onClv f).flt = s.flt := rfl
@[simp] theorem State.onClv_cnt (s : State) (f : CloveS → CloveS) : (s.onClv f).cnt = s.cnt := rfl
@[simp] theorem State.onClv_pwr (s : State) (f : CloveS → CloveS) : (s.onClv f).pwr = s.pwr := rfl
@[simp] theorem State.onClv_rst (s : State) (f : CloveS → CloveS) : (s.onClv f).rst = s.rst := rfl
@[simp] theorem State.onClv_out (s : State) (f : CloveS → CloveS) : (s.onClv f).out = s.out := rfl
@[simp] theorem State.onClv_free (s : State) (f : CloveS → CloveS) : (s.onClv f).free = s.free := rfl

@[simp] theorem State.onPwr_pending (s : State) (f : PwrS → PwrS) : (s.onPwr f).pending = s.pending := rfl
@[simp] theorem State.onPwr_tick (s : State) (f : PwrS → PwrS) : (s.onPwr f).tick = s.tick := rfl
@[simp] theorem State.onPwr_conv (s : State) (f : PwrS → PwrS) : (s.onPwr f).conv = s.conv := rfl
@[simp] theorem State.onPwr_dsp (s : State) (f : PwrS → PwrS) : (s.onPwr f).dsp = s.dsp := rfl
@[simp] theorem State.onPwr_frm (s : State) (f : PwrS → PwrS) : (s.onPwr f).frm = s.frm := rfl
@[simp] theorem State.onPwr_cl (s : State) (f : PwrS → PwrS) : (s.onPwr f).cl = s.cl := rfl
@[simp] theorem State.onPwr_nut (s : State) (f : PwrS → PwrS) : (s.onPwr f).nut = s.nut := rfl
@[simp] theorem State.onPwr_sett (s : State) (f : PwrS → PwrS) : (s.onPwr f).sett = s.sett := rfl
@[simp] theorem State.onPwr_ecc (s : State) (f : PwrS → PwrS) : (s.onPwr f).ecc = s.ecc := rfl
@[simp] theorem State.onPwr_tim (s : State) (f : PwrS → PwrS) : (s.onPwr f).tim = s.tim := rfl
@[simp] theorem State.onPwr_mar (s : State) (f : PwrS → PwrS) : (s.onPwr f).mar = s.mar := rfl
@[simp] theorem State.onPwr_clv (s : State) (f : PwrS → PwrS) : (s.onPwr f).clv = s.clv := rfl
@[simp] theorem State.onPwr_cmd (s : State) (f : PwrS → PwrS) : (s.onPwr f).cmd = s.cmd := rfl
@[simp] theorem State.onPwr_pci (s : State) (f : PwrS → PwrS) : (s.onPwr f).pci = s.pci := rfl
@[simp] theorem State.onPwr_flt (s : State) (f : PwrS → PwrS) : (s.onPwr f).flt = s.flt := rfl
@[simp] theorem State.onPwr_cnt (s : State) (f : PwrS → PwrS) : (s.onPwr f).cnt = s.cnt := rfl
@[simp] theorem State.onPwr_rst (s : State) (f : PwrS → PwrS) : (s.onPwr f).rst = s.rst := rfl
@[simp] theorem State.onPwr_out (s : State) (f : PwrS → PwrS) : (s.onPwr f).out = s.out := rfl
@[simp] theorem State.onPwr_free (s : State) (f : PwrS → PwrS) : (s.onPwr f).free = s.free := rfl

@[simp] theorem State.onFlt_pending (s : State) (f : FltS → FltS) : (s.onFlt f).pending = s.pending := rfl
@[simp] theorem State.onFlt_tick (s : State) (f : FltS → FltS) : (s.onFlt f).tick = s.tick := rfl
@[simp] theorem State.onFlt_conv (s : State) (f : FltS → FltS) : (s.onFlt f).conv = s.conv := rfl
@[simp] theorem State.onFlt_dsp (s : State) (f : FltS → FltS) : (s.onFlt f).dsp = s.dsp := rfl
@[simp] theorem State.onFlt_frm (s : State) (f : FltS → FltS) : (s.onFlt f).frm = s.frm := rfl
@[simp] theorem State.onFlt_cl (s : State) (f : FltS → FltS) : (s.onFlt f).cl = s.cl := rfl
@[simp] theorem State.onFlt_nut (s : State) (f : FltS → FltS) : (s.onFlt f).nut = s.nut := rfl
@[simp] theorem State.onFlt_sett (s : State) (f : FltS → FltS) : (s.onFlt f).sett = s.sett := rfl
@[simp] theorem State.onFlt_ecc (s : State) (f : FltS → FltS) : (s.onFlt f).ecc = s.ecc := rfl
@[simp] theorem State.onFlt_tim (s : State) (f : FltS → FltS) : (s.onFlt f).tim = s.tim := rfl
@[simp] theorem State.onFlt_mar (s : State) (f : FltS → FltS) : (s.onFlt f).mar = s.mar := rfl
@[simp] theorem State.onFlt_clv (s : State) (f : FltS → FltS) : (s.onFlt f).clv = s.clv := rfl
@[simp] theorem State.onFlt_cmd (s : State) (f : FltS → FltS) : (s.onFlt f).cmd = s.cmd := rfl
@[simp] theorem State.onFlt_pci (s : State) (f : FltS → FltS) : (s.onFlt f).pci = s.pci := rfl
@[simp] theorem State.onFlt_cnt (s : State) (f : FltS → FltS) : (s.onFlt f).cnt = s.cnt := rfl
@[simp] theorem State.onFlt_pwr (s : State) (f : FltS → FltS) : (s.onFlt f).pwr = s.pwr := rfl
@[simp] theorem State.onFlt_rst (s : State) (f : FltS → FltS) : (s.onFlt f).rst = s.rst := rfl
@[simp] theorem State.onFlt_out (s : State) (f : FltS → FltS) : (s.onFlt f).out = s.out := rfl
@[simp] theorem State.onFlt_free (s : State) (f : FltS → FltS) : (s.onFlt f).free = s.free := rfl

@[simp] theorem State.stage_pending (s : State) (it : ItemKind) (n op : Nat) (ws : List Word) : (s.stage it n op ws).pending = s.pending := rfl
@[simp] theorem State.stage_conv (s : State) (it : ItemKind) (n op : Nat) (ws : List Word) : (s.stage it n op ws).conv = s.conv := rfl
@[simp] theorem State.stage_dsp (s : State) (it : ItemKind) (n op : Nat) (ws : List Word) : (s.stage it n op ws).dsp = s.dsp := rfl
@[simp] theorem State.stage_frm (s : State) (it : ItemKind) (n op : Nat) (ws : List Word) : (s.stage it n op ws).frm = s.frm := rfl
@[simp] theorem State.stage_cl (s : State) (it : ItemKind) (n op : Nat) (ws : List Word) : (s.stage it n op ws).cl = s.cl := rfl
@[simp] theorem State.stage_nut (s : State) (it : ItemKind) (n op : Nat) (ws : List Word) : (s.stage it n op ws).nut = s.nut := rfl
@[simp] theorem State.stage_sett (s : State) (it : ItemKind) (n op : Nat) (ws : List Word) : (s.stage it n op ws).sett = s.sett := rfl
@[simp] theorem State.stage_ecc (s : State) (it : ItemKind) (n op : Nat) (ws : List Word) : (s.stage it n op ws).ecc = s.ecc := rfl
@[simp] theorem State.stage_tim (s : State) (it : ItemKind) (n op : Nat) (ws : List Word) : (s.stage it n op ws).tim = s.tim := rfl
@[simp] theorem State.stage_mar (s : State) (it : ItemKind) (n op : Nat) (ws : List Word) : (s.stage it n op ws).mar = s.mar := rfl
@[simp] theorem State.stage_clv (s : State) (it : ItemKind) (n op : Nat) (ws : List Word) : (s.stage it n op ws).clv = s.clv := rfl
@[simp] theorem State.stage_cmd (s : State) (it : ItemKind) (n op : Nat) (ws : List Word) : (s.stage it n op ws).cmd = s.cmd := rfl
@[simp] theorem State.stage_pci (s : State) (it : ItemKind) (n op : Nat) (ws : List Word) : (s.stage it n op ws).pci = s.pci := rfl
@[simp] theorem State.stage_flt (s : State) (it : ItemKind) (n op : Nat) (ws : List Word) : (s.stage it n op ws).flt = s.flt := rfl
@[simp] theorem State.stage_cnt (s : State) (it : ItemKind) (n op : Nat) (ws : List Word) : (s.stage it n op ws).cnt = s.cnt := rfl
@[simp] theorem State.stage_pwr (s : State) (it : ItemKind) (n op : Nat) (ws : List Word) : (s.stage it n op ws).pwr = s.pwr := rfl
@[simp] theorem State.stage_rst (s : State) (it : ItemKind) (n op : Nat) (ws : List Word) : (s.stage it n op ws).rst = s.rst := rfl
@[simp] theorem State.stage_out (s : State) (it : ItemKind) (n op : Nat) (ws : List Word) : (s.stage it n op ws).out = s.out := rfl
@[simp] theorem State.stage_free (s : State) (it : ItemKind) (n op : Nat) (ws : List Word) : (s.stage it n op ws).free = s.free := rfl

@[simp] theorem State.emit_pending (s : State) (o : Out) : (s.emit o).pending = s.pending := rfl
@[simp] theorem State.emit_tick (s : State) (o : Out) : (s.emit o).tick = s.tick := rfl
@[simp] theorem State.emit_conv (s : State) (o : Out) : (s.emit o).conv = s.conv := rfl
@[simp] theorem State.emit_dsp (s : State) (o : Out) : (s.emit o).dsp = s.dsp := rfl
@[simp] theorem State.emit_frm (s : State) (o : Out) : (s.emit o).frm = s.frm := rfl
@[simp] theorem State.emit_cl (s : State) (o : Out) : (s.emit o).cl = s.cl := rfl
@[simp] theorem State.emit_nut (s : State) (o : Out) : (s.emit o).nut = s.nut := rfl
@[simp] theorem State.emit_sett (s : State) (o : Out) : (s.emit o).sett = s.sett := rfl
@[simp] theorem State.emit_ecc (s : State) (o : Out) : (s.emit o).ecc = s.ecc := rfl
@[simp] theorem State.emit_tim (s : State) (o : Out) : (s.emit o).tim = s.tim := rfl
@[simp] theorem State.emit_mar (s : State) (o : Out) : (s.emit o).mar = s.mar := rfl
@[simp] theorem State.emit_clv (s : State) (o : Out) : (s.emit o).clv = s.clv := rfl
@[simp] theorem State.emit_cmd (s : State) (o : Out) : (s.emit o).cmd = s.cmd := rfl
@[simp] theorem State.emit_pci (s : State) (o : Out) : (s.emit o).pci = s.pci := rfl
@[simp] theorem State.emit_flt (s : State) (o : Out) : (s.emit o).flt = s.flt := rfl
@[simp] theorem State.emit_cnt (s : State) (o : Out) : (s.emit o).cnt = s.cnt := rfl
@[simp] theorem State.emit_pwr (s : State) (o : Out) : (s.emit o).pwr = s.pwr := rfl
@[simp] theorem State.emit_rst (s : State) (o : Out) : (s.emit o).rst = s.rst := rfl
@[simp] theorem State.emit_free (s : State) (o : Out) : (s.emit o).free = s.free := rfl

/-! ### The record updated, and the others of its kind -/

@[simp] theorem State.onConv_cv_same (s : State) (i : Nat) (f : ConvS → ConvS) : (s.onConv i f).cv i = f (s.cv i) := Table.get_upd_same ..
theorem State.onConv_cv_other (s : State) {i j : Nat} (f : ConvS → ConvS) (h : j ≠ i) : (s.onConv i f).cv j = s.cv j := Table.get_upd_other _ h _
@[simp] theorem State.onDsp_ds_same (s : State) (i : Nat) (f : DspS → DspS) : (s.onDsp i f).ds i = f (s.ds i) := Table.get_upd_same ..
theorem State.onDsp_ds_other (s : State) {i j : Nat} (f : DspS → DspS) (h : j ≠ i) : (s.onDsp i f).ds j = s.ds j := Table.get_upd_other _ h _
@[simp] theorem State.onFrm_fr_same (s : State) (i : Nat) (f : FrameS → FrameS) : (s.onFrm i f).fr i = f (s.fr i) := Table.get_upd_same ..
theorem State.onFrm_fr_other (s : State) {i j : Nat} (f : FrameS → FrameS) (h : j ≠ i) : (s.onFrm i f).fr j = s.fr j := Table.get_upd_other _ h _
@[simp] theorem State.onMar_ml_same (s : State) (i : Nat) (f : MartenL → MartenL) : (s.onMar i f).ml i = f (s.ml i) := Table.get_upd_same ..
theorem State.onMar_ml_other (s : State) {i j : Nat} (f : MartenL → MartenL) (h : j ≠ i) : (s.onMar i f).ml j = s.ml j := Table.get_upd_other _ h _
@[simp] theorem State.onLane_lane_same (s : State) (i : Nat) (f : LaneS → LaneS) : (s.onLane i f).lane i = f (s.lane i) := Table.get_upd_same ..
theorem State.onLane_lane_other (s : State) {i j : Nat} (f : LaneS → LaneS) (h : j ≠ i) : (s.onLane i f).lane j = s.lane j := Table.get_upd_other _ h _
@[simp] theorem State.onPort_port_same (s : State) (i : Nat) (f : PortS → PortS) : (s.onPort i f).port i = f (s.port i) := Table.get_upd_same ..
theorem State.onPort_port_other (s : State) {i j : Nat} (f : PortS → PortS) (h : j ≠ i) : (s.onPort i f).port j = s.port j := Table.get_upd_other _ h _
@[simp] theorem State.onSa_sa_same (s : State) (i : Nat) (f : SaS → SaS) : (s.onSa i f).sa i = f (s.sa i) := Table.get_upd_same ..
theorem State.onSa_sa_other (s : State) {i j : Nat} (f : SaS → SaS) (h : j ≠ i) : (s.onSa i f).sa j = s.sa j := Table.get_upd_other _ h _
@[simp] theorem State.onMg_mg_same (s : State) (i : Nat) (f : MergeS → MergeS) : (s.onMg i f).mg i = f (s.mg i) := Table.get_upd_same ..
theorem State.onMg_mg_other (s : State) {i j : Nat} (f : MergeS → MergeS) (h : j ≠ i) : (s.onMg i f).mg j = s.mg j := Table.get_upd_other _ h _
@[simp] theorem State.onTgt_tgt_same (s : State) (i : Nat) (f : EccT → EccT) : (s.onTgt i f).tgt i = f (s.tgt i) := Table.get_upd_same ..
theorem State.onTgt_tgt_other (s : State) {i j : Nat} (f : EccT → EccT) (h : j ≠ i) : (s.onTgt i f).tgt j = s.tgt j := Table.get_upd_other _ h _
@[simp] theorem State.onRef_ref_same (s : State) (i : Nat) (f : RefS → RefS) : (s.onRef i f).ref i = f (s.ref i) := Table.get_upd_same ..
theorem State.onRef_ref_other (s : State) {i j : Nat} (f : RefS → RefS) (h : j ≠ i) : (s.onRef i f).ref j = s.ref j := Table.get_upd_other _ h _
@[simp] theorem State.onRing_ring_same (s : State) (i : Nat) (f : RingS → RingS) : (s.onRing i f).ring i = f (s.ring i) := Table.get_upd_same ..
theorem State.onRing_ring_other (s : State) {i j : Nat} (f : RingS → RingS) (h : j ≠ i) : (s.onRing i f).ring j = s.ring j := Table.get_upd_other _ h _

end Sys2Proof.Machine
end

