-- ==== Sys2Proof/Machine/LineCode.lean ====
section
/-! DEFINITION. What a line frame is on the line (R84, R85, R124 to R129): the outer blocks, the scrambled inner codewords, the raw bit
stream, and the symbols of each subcarrier. A frame that leaves the device is recorded as Out.lineFrame; these functions give
every bit and symbol that the record stands for. -/

namespace Sys2Proof.Machine

/-! ### The outer blocks (R119, R125, R126) -/

/-- An idle cell (R32). -/
def idleCell : Cell := { idle := true }

/-- The bytes of every position of a frame: the header, the cells, and idle cells in what remains (R31, R119, R121). -/
def TxFrame.positions (f : TxFrame) : List (List Byte) :=
  beBytes 256 f.hdr.toNat :: (f.cells.map cellBytes ++ List.replicate f.idle (cellBytes idleCell))

/-- RAW of a frame (R126): a dark subcarrier gives nothing, nor does one that announces code 0. -/
def TxFrame.raw (f : TxFrame) : Nat := (f.ann.map fun a => rawBits f.baud (a.getD 0 % 16)).sum

/-- The layout of a frame. -/
def TxFrame.lay (f : TxFrame) : Layout := layout f.raw f.rate

/-- The serialised outer blocks of a frame (R125): full blocks of 186 positions, then the short one. -/
def TxFrame.outer (f : TxFrame) : List Bool :=
  (List.range (blockCount f.lay)).flatMap fun b =>
    outerBlock ((f.positions.drop (186 * b)).take (if b < f.lay.full then 186 else f.lay.short))

/-! ### Scrambling and inner codewords (R124, R126, R128) -/

/-- One step of the generator x^31 + x^28 + 1: the bit that it gives, and its next register. -/
def scrambleStep (r : Nat) : Bool × Nat :=
  let b := r.testBit 30 != r.testBit 27
  (b, 2 * r % 2 ^ 31 + bitAt b 0)

/-- Bits with the generator's output added modulo 2, from a register on. The output is the new bit of each step (DESIGN CHOICE, log
entry 70: R128 gives the polynomial and the load, and no tap for the output). -/
def scramble : Nat → List Bool → List Bool
  | _, [] => []
  | r, b :: bs => (b != (scrambleStep r).1) :: scramble (scrambleStep r).2 bs

/-- The information bits of the inner codewords before scrambling: the outer blocks, then the frame pad (R126). -/
def TxFrame.info (f : TxFrame) : List Bool :=
  let n := f.lay.cws * kIn f.rate
  let o := f.outer.take n
  o ++ (List.range (n - o.length)).map fun i => Config.padBit (o.length + i)

/-- The scrambled information bits: the generator is loaded with ones at the first one of codeword 0 (R128). -/
def TxFrame.scrambled (f : TxFrame) : List Bool := scramble (2 ^ 31 - 1) f.info

/-- Inner codeword i: systematic, its parity not scrambled (R124, R128). -/
def TxFrame.codeword (f : TxFrame) (i : Nat) : List Bool :=
  let u := (f.scrambled.drop (i * kIn f.rate)).take (kIn f.rate)
  u ++ Config.ldpcParity f.rate u

/-! ### The raw bit stream and the symbols (R129) -/

/-- Raw bit q of a frame (R126, R129): bit floor(q / C) of codeword q mod C, and after the codewords the frame pad. -/
def TxFrame.rawBit (f : TxFrame) (q : Nat) : Bool :=
  let c := f.lay.cws
  if q < 25600 * c then (f.codeword (q % c)).getD (q / c) false else Config.padBit q

/-- The code that a subcarrier carries in a frame. -/
def TxFrame.code (f : TxFrame) (k : Nat) : Nat := ((f.ann.getD k none).getD 0) % 16

/-- Groups of 64 data positions in a tick (R87, R88). -/
def groups (baud : Nat) : Nat := dataSymbols baud / 64

/-- Bits that subcarrier k takes in a group of 64 data positions, or in the `rest` positions that remain (R129): 2 m a position for an
unshaped code, 128 r a whole group for a shaped one. -/
def TxFrame.take (f : TxFrame) (k n : Nat) : Nat :=
  let c := f.code k
  if c < 7 then 2 * c * n else if c = 7 then 0 else if n = 64 then 32 * (16 + (c - 8)) else 0

/-- Bits of all subcarriers below k in a group. -/
def TxFrame.before (f : TxFrame) (k n : Nat) : Nat := ((List.range k).map fun j => f.take j n).sum

/-- The first raw bit that subcarrier k takes in group g; group `groups` is what remains after the last full one. -/
def TxFrame.groupBase (f : TxFrame) (k g : Nat) : Nat :=
  let rest := dataSymbols f.baud - 64 * groups f.baud
  f.before 16 64 * g + f.before k (if g < groups f.baud then 64 else rest)

/-- The symbol index of data position j: pilots, at multiples of 32, are skipped (R84). -/
def dataIndex (j : Nat) : Nat := 32 * (j / 31) + 1 + j % 31

/-- A symbol of the tick is a pilot (R84). -/
def isPilot (i : Nat) : Bool := i % 32 == 0

/-- What one symbol of one polarisation carries. -/
inductive Symbol where
  /-- Nothing: the subcarrier is dark. -/
  | dark
  /-- A pilot, with its sign inverted where its bit of the announcement is 1 (R85). -/
  | pilot (q : Fin 4) (inverted : Bool)
  /-- A known QPSK symbol of R88 or R91. -/
  | known (q : Fin 4)
  /-- The Gray label of an unshaped symbol, msb first (R129). -/
  | label (bits : List Bool)
  /-- A symbol of a shaped block (R88). -/
  | shaped (levels : Nat × Nat)
deriving DecidableEq, Repr

/-- The sign inversion of pilot p (R85): pilots 8b to 8b + 7 carry bit b of the announcement, and pilots from 64 on none. -/
def pilotInverted (ann p : Nat) : Bool := decide (p < 64) && ann.testBit (p / 8)

/-- The symbol that subcarrier k of line l sends in polarisation y (0 = X) at symbol i of the frame's tick (R84 to R91, R129). -/
def TxFrame.symbol (f : TxFrame) (l k y i : Nat) : Symbol :=
  match f.ann.getD k none with
  | none => .dark
  | some a =>
    if isPilot i then .pilot (Config.knownSymbol l k y i) (pilotInverted a (i / 32))
    else
      let j := i / 32 * 31 + (i % 32 - 1)
      let c := a % 16
      let g := j / 64
      let base := f.groupBase k g
      if c = 0 ∨ c = 7 then .known (Config.knownSymbol l k y i)
      else if c < 7 then .label ((List.range c).map fun b => f.rawBit (base + 2 * c * (j % 64) + c * y + b))
      else if g < groups f.baud then
        .shaped ((Config.shape c ((List.range (f.take k 64)).map fun b => f.rawBit (base + b))).getD (2 * (j % 64) + y) (0, 0))
      else .known (Config.knownSymbol l k y i)

/-- The 512 QPSK symbols of one codeword of MC: 64 bytes and their parity, two bits a symbol (R308). -/
def mcCodeword (bs : List Byte) : List (Fin 4) :=
  let info := bitsOfBytes bs
  let cw := info ++ Config.mcParity info
  (List.range 512).map fun i => Fin.ofNat 4 (2 * (cw.getD (2 * i) false).toNat + (cw.getD (2 * i + 1) false).toNat)

/-- A burst's symbols after its ramp (Table 10-4): the preamble word 16 times, the sync word, the header, and the payload in codewords
of 64 bytes filled up with zeros. -/
def burstSymbols (syncId : Nat) (hdr data : List Byte) : List (Fin 4) :=
  ((List.range 256).map fun i => Config.mcPreamble (i % 16)) ++ ((List.range 64).map fun i => Config.mcSyncWord syncId i) ++ mcCodeword hdr ++
    (List.range ((data.length + 63) / 64)).flatMap fun i => mcCodeword (((data.drop (64 * i)).take 64 ++ List.replicate 64 0).take 64)

/-- The centre of SCk from the optical carrier in units of 0.25 GHz (R79). -/
def scCentre (baud k : Nat) : Int := (2 * (k : Int) - 15) * (17 + baud)

end Sys2Proof.Machine
end

