-- ==== Sys2Proof/Tests/Slice0.lean ====
section
/-! SUPPORT. Tests of the model: terms that WellFormed refuses, examples of the manual, and for every statement of
Certificates/Slice0/Obligations.lean that has hypotheses a theorem witness_<name>, which shows for each of its clauses a state and
operands that meet the hypotheses together. Expected numbers come from the manual's examples and tables or, where a comment
says so, from a published standard. -/

open Sys2Proof Sys2Proof.Machine

/-! ### Terms that are not well formed, one for each check -/

/-- More parameter words than 64 slots hold. -/
theorem test_wf_refuses_long_parameters : Instr.wf (.sysNop {} (List.replicate 1017 0)) = false ∧ Instr.wf (.sysNop {} [1]) = true := by decide +kernel

/-- A frame of 65,536 bytes, and a place past the end of the tick. -/
theorem test_wf_refuses_frames :
    Instr.wf (.clientFrameIngress 0 { data := [] } 524288000 [] false) = false ∧ Instr.wf (.egressFrameStart 0 524288000) = false ∧
    Instr.wf (.ppsEdge 0 524288000) = false ∧ Instr.wf (.extTrigEdge true 524288000) = false ∧
    Instr.wf (.clientFrameIngress 0 { data := [] } 524287999 [] false) = true := by decide

/-- The upper bound on a client frame's length. -/
theorem test_wf_refuses_giant_frame (d : List Byte) (h : d.length = 65536) : EthFrame.wf { data := d } = false := by
  simp [EthFrame.wf, h]

/-- A header of seven words. -/
theorem test_wf_refuses_short_header : Instr.wf (.cmdFetch 0 { hdr := List.replicate 7 0 }) = false ∧ Instr.wf (.cmdFetch 0 { hdr := List.replicate 8 0 }) = true := by decide

/-- A line frame with 15 announcements, with an announcement over 4 bits, with a cell of a wrong length, with a stamp too long. -/
theorem test_wf_refuses_line_frames :
    Instr.wf (.lineFrameDecode 0 { ann := List.replicate 15 0 }) = false ∧
    Instr.wf (.lineFrameDecode 0 { ann := 16 :: List.replicate 15 0 }) = false ∧
    Instr.wf (.lineFrameDecode 0 { ann := List.replicate 16 0, cells := [(0, {})] }) = false ∧
    Instr.wf (.lineFrameDecode 0 { ann := List.replicate 16 0, stamp := 2 ^ 48 * 65536000000000 }) = false ∧
    Instr.wf (.lineFrameDecode 0 { ann := List.replicate 16 4 }) = true := by decide

/-- Cell fields beyond their widths, and an idle cell with a field that is not 0. -/
theorem test_wf_refuses_cells :
    let c : Cell := { payload := List.replicate 248 0 }
    c.wf = true ∧ Cell.wf { c with flow := 8192 } = false ∧ Cell.wf { c with seq := 2 ^ 32 } = false ∧ Cell.wf { c with fptr := 256 } = false ∧
    Cell.wf { c with valid := 249 } = false ∧ Cell.wf { c with idle := true } = false := by decide +kernel

/-- An error outside its outer block: row 764 and column 532 (R125). -/
theorem test_wf_refuses_errors_outside_the_block :
    Instr.wf (.lineFrameDecode 0 { ann := List.replicate 16 4, outErrs := [(0, 764, 0)] }) = false ∧
    Instr.wf (.lineFrameDecode 0 { ann := List.replicate 16 4, outErrs := [(0, 0, 532)] }) = false ∧
    Instr.wf (.lineFrameDecode 0 { ann := List.replicate 16 4, outErrs := [(0, 763, 531)] }) = true := by decide

/-- A quality window of 15 values, a burst of 1,025 bytes and one stamped too late. -/
theorem test_wf_refuses_measurements :
    Instr.wf (.qualityWindowPost 0 { snrX := List.replicate 15 0 }) = false ∧ Instr.wf (.mcBurstRx 0 { data := List.replicate 1025 0 }) = false ∧
    Instr.wf (.mcBurstRx 0 { stamp := 2 ^ 48 * 65536000000000 }) = false := by decide +kernel

/-- The symbols of a lane short by one, a channel estimate of 63 words, seven DFE taps. -/
theorem test_wf_refuses_monitors :
    Instr.wf (.tickBoundary { laneSyms := [(0, List.replicate 1088 0)] }) = false ∧ Instr.wf (.tickBoundary { chanEst := [(0, List.replicate 63 0)] }) = false ∧
    Instr.wf (.tickBoundary { adapt := [(0, 0, List.replicate 7 0)] }) = false ∧ Instr.wf (.tickBoundary {}) = true := by decide +kernel

/-- Five conversions of one step, twelve supervisor steps, a full scale of 0. -/
theorem test_wf_refuses_conversions :
    Instr.wf (.cloveConversionEnd (List.replicate 5 { lane := 0 })) = false ∧ Instr.wf (.cloveSupervisorSteps (List.replicate 12 { lane := 0 })) = false ∧
    Instr.wf (.cloveConversionEnd [{ lane := 0, full := 0 }]) = false := by decide

/-! ### Examples of the manual -/

/-- The check of R122's section: the CRC over the nine ASCII bytes 123456789. -/
theorem test_crc_of_digits : crc32 [0x31, 0x32, 0x33, 0x34, 0x35, 0x36, 0x37, 0x38, 0x39] = 0xFC891918 := by decide +kernel

/-- The example 'decoding three faults in one word' (R238): the check word, and the three syndromes. -/
theorem test_code_example :
    checkOf 7 = 0x0307 ∧ syndrome (7 ^^^ (1 <<< 42)) 0x0307 = 0x6004 ∧ syndrome (7 ^^^ (3 <<< 42)) 0x0307 = 0x000C ∧
    syndrome (7 ^^^ (1 <<< 42)) (0x0307 ^^^ 0x2000) = 0x4004 := by decide +kernel

/-- The example 'net capacity when SC11 drops to 8QAM' (Table 4-3, R126). -/
theorem test_layout_example :
    layout 16368000 3 = { cws := 639, full := 35, short := 74, ncell := 6583 } ∧
    layout 16112250 3 = { cws := 629, full := 34, short := 159, ncell := 6482 } := by decide +kernel

/-- The example 'a route pair differing by 18.3 ms' (R217), and the code for no delay. -/
theorem test_hold_min_example :
    holdMin (2146000 * 65536) = 271 ∧ holdMin (20446000 * 65536) = 2559 ∧ holdMinReg State.reset 0 = 0xFFFF := by decide +kernel

/-- The example 'aligning the tick at first time set' (R18, R20): the number of the stretched tick, and of the next. -/
theorem test_first_time_set :
    let s := changeTime ((1843207519000000000 + 5213210) * 65536) State.reset
    s.tick.stretched = true ∧ s.tick.num = 230400939875652 ∧ s.tick.stretchCnt = 1 ∧
    (nextTick s).tick.num = 230400939875653 ∧ (nextTick s).tick.tod = (1843207519000000000 + 5224000) * 65536 := by decide +kernel

/-- The example of R295: 1,360 ps/nm between 193.1 THz out and 192.5 THz in make -6,581 ps. -/
theorem test_delta_example :
    deltaMode1 {} { cdIn := [13600], cdOut := [13600], cfg := [0x030D4000, 0, 0, 0, 0, 0xF7040001, 0x64] } 193100000 192500000 = some (-6581) := by decide +kernel

/-- The example 'a null loop on BIAS4' (R340). -/
theorem test_null_loop_example :
    biasDelta { cfg := [0x90000400, 0xFFFF0000, 0, 0, 0x08000040, 0], hi := List.replicate 24 (-1200), lo := List.replicate 24 0 } = 37 := by decide +kernel

/-- The example 'an AVS update' (R418): 0.720 V fused, 0.75 mV per degree, margin 10 mV, 61.4 degrees. -/
theorem test_avs_example :
    avsRaw { vFuse := 24, kT := 3, margin := 2 } (614 * 4096) 10 = 747700 ∧ avsTarget 747700 = 750 := by decide +kernel

/-- R8: the identification register of step B1. -/
theorem test_idcode : idcode = 0x5321658B := by decide

/-- The example 'PFC refresh on a 1.6TbE port' (R161): a refresh of 2 ticks is refused with 0x8000 quanta, 1 tick is accepted. -/
theorem test_pfc_refresh_example :
    let s : State := State.onPort { State.reset with cmd := { State.reset.cmd with boot := .run, accepted := true } } 0 fun p => { p with cfg := [0x80C00000, 0, 0x2600, 0, 0] }
    (match cmdClientPfcCfg {} [0x02000800, 0x8000, 0xFAC688] s with | .fail st a => (st, a) | _ => (.ok, 0)) = (.badArg, 0) ∧
    (match cmdClientPfcCfg {} [0x01000800, 0x8000, 0xFAC688] s with | .fail st a => (st, a) | _ => (.ok, 0)) = (.ok, 0) := by decide +kernel

/-- R128 by hand: from 31 ones the generator x^31 + x^28 + 1 gives 28 zeros, then a one. -/
theorem test_scrambler_start : scramble (2 ^ 31 - 1) (List.replicate 29 false) = List.replicate 28 false ++ [true] := by decide +kernel

/-- R132 by hand: two wrong bits of a row of 532 are found and inverted; nothing wrong inverts nothing. -/
theorem test_outer_row : bchFlips 532 [] = some [] ∧ decodeBlock 764 [(3, 7), (3, 500)] = ([], 2) := by decide +kernel

/-- R144 by hand: the precoder from 0, and its inverse. -/
theorem test_precoder : precode 0 [1, 2, 3, 0] = [1, 1, 2, 2] ∧ unprecode 0 [1, 1, 2, 2] = [1, 2, 3, 0] := by decide

/-- R141: the levels of the bit pairs 00, 01, 11 and 10. -/
theorem test_gray : grayLevel false false = 0 ∧ grayLevel false true = 1 ∧ grayLevel true true = 2 ∧ grayLevel true false = 3 := by decide

/-- R325 by hand: a modulator that gives only ones at OSR 64 settles at 64 cubed. -/
theorem test_comb_gain : cicOut 64 (List.replicate 384 true) 4 = 262144 ∧ cicOut 64 (List.replicate 384 false) 4 = -262144 := by decide +kernel

/-- The check value that the Ethernet FCS is published with, over the nine ASCII bytes 123456789. -/
theorem test_fcs_of_digits : fcs32 [0x31, 0x32, 0x33, 0x34, 0x35, 0x36, 0x37, 0x38, 0x39] = 0xCBF43926 := by decide +kernel

/-- Published vectors: SHA-384 of the empty string (FIPS 180-4), and test case 13 of the GCM submission (256-bit key, all zero). -/
theorem test_sha384_empty : (sha384 []).take 4 = [0x38, 0xB0, 0x60, 0xA7] := by decide +kernel
theorem test_gcm_empty : gcmTag 0 0 [] [] = 0x530F8AFBC74536B9A963B4F1C4CB738B := by decide +kernel

/-! ### The block's own conventions -/

/-- An empty queue idles (notes/assumptions/1.md). -/
theorem test_empty_queue_idles : step State.reset = .next State.reset := rfl

/-- The command in front runs, and the queue keeps the rest. -/
theorem test_front_command_runs :
    (match step { State.reset with pending := [.sqTailDoorbell 0 0, .avsStep] } with | .next t => t.pending | _ => []) = [.avsStep] := by decide

/-- Reset is in its invariant. -/
theorem test_reset_inv : State.reset.Inv := ⟨by decide, by decide, by decide, rfl⟩

/-! ### Witnesses -/

/-- A device at work: out of reset, firmware in RUN, the Sett READY. -/
def live : State :=
  { State.reset with
    rst := { State.reset.rst with held := false }
    cmd := { State.reset.cmd with boot := .run, accepted := true }
    sett := { State.reset.sett with st := .ready } }

theorem witness_SystemCommandsComplete :
    (∃ (h : CmdHdr) (ws : List Word) (s : State), h.async = false ∧ Runs 0x0000 s) ∧
    (∃ (h : CmdHdr) (ws : List Word) (s : State), h.async = false ∧ Runs 0x0001 s ∧ ws.length = 0) ∧
    (∃ h : CmdHdr, ∃ ws : List Word, ∃ s : State, ∃ e, Runs 0x0002 s ∧ ws.length = 1 ∧ onlyBits (wd ws 0) 0xFFFFF ∧ findEnt s (wd ws 0) = some e ∧
      e.done = true) ∧
    (∃ h : CmdHdr, ∃ ws : List Word, ∃ s : State, ∃ e, Runs 0x0002 s ∧ ws.length = 1 ∧ onlyBits (wd ws 0) 0xFFFFF ∧ findEnt s (wd ws 0) = some e ∧
      e.done = false) ∧
    (∃ h : CmdHdr, ∃ ws : List Word, ∃ s : State, ∃ e, h.async = false ∧ Runs 0x0003 s ∧ ws.length = 1 ∧ onlyBits (wd ws 0) 0xFFFFF ∧
      findEnt s (wd ws 0) = some e ∧ e.done = true) ∧
    (∃ (h : CmdHdr) (ws : List Word) (s : State), h.async = false ∧ Runs 0x0004 s ∧ 1 ≤ ws.length ∧ s.cmd.accepted = false ∧ s.cmd.acceptDue = false ∧
      onlyBits (wd ws 0) 0x800FFFFF ∧ fld (wd ws 0) 19 0 = s.cmd.table.length ∧ flag (wd ws 0) 31 = false) ∧
    (∃ (h : CmdHdr) (ws : List Word) (s : State), HasRoom h s ∧ Runs 0x0004 s ∧ 1 ≤ ws.length ∧ s.cmd.accepted = false ∧ s.cmd.acceptDue = false ∧
      onlyBits (wd ws 0) 0x800FFFFF ∧ fld (wd ws 0) 19 0 = s.cmd.table.length ∧ flag (wd ws 0) 31 = true) ∧
    (∃ (h : CmdHdr) (ws : List Word) (s : State), h.async = false ∧ Runs 0x0005 s ∧ ws.length = 1 ∧ wd ws 0 = 0xA5C3) :=
  ⟨⟨{}, [0], live, by decide⟩,
   ⟨{}, [], live, by decide⟩,
   ⟨{}, [0], { live with cmd := { live.cmd with store := [{ ring := 0, tag := 0, kind := .plain, final := {}, done := true }] } }, { ring := 0, tag := 0, kind := .plain, final := {}, done := true }, by decide⟩,
   ⟨{}, [0], { live with cmd := { live.cmd with store := [{ ring := 0, tag := 0, kind := .plain, final := {}, done := false }] } }, { ring := 0, tag := 0, kind := .plain, final := {}, done := false }, by decide⟩,
   ⟨{}, [0], { live with cmd := { live.cmd with store := [{ ring := 0, tag := 0, kind := .plain, final := {}, done := true }] } }, { ring := 0, tag := 0, kind := .plain, final := {}, done := true }, by decide⟩,
   ⟨{}, [0], { live with cmd := { live.cmd with accepted := false } }, by decide⟩,
   ⟨{}, [0x80000000], { live with cmd := { live.cmd with accepted := false } }, by decide⟩,
   ⟨{}, [0xa5c3], live, by decide⟩⟩

theorem witness_FirmwareAndLogCommandsComplete :
    (∃ (h : CmdHdr) (ws : List Word) (s : State), h.async = false ∧ Runs 0x0010 s ∧ 1 ≤ ws.length ∧ s.cmd.bootSel = false ∧ onlyBits (wd ws 0) 0xFFFFF ∧
      (fld (wd ws 0) 19 0 = 0 ∨ s.cmd.stageEnd = some (fld (wd ws 0) 19 0)) ∧ fld (wd ws 0) 19 0 + (bytesOf (ws.drop 1)).length ≤ 2 ^ 20) ∧
    (∃ (h : CmdHdr) (ws : List Word) (s : State), HasRoom h s ∧ Runs 0x0011 s ∧ ws.length = 1 ∧ onlyBits (wd ws 0) 1) ∧
    (∃ (h : CmdHdr) (ws : List Word) (s : State), h.async = false ∧ Runs 0x0012 s ∧ ws.length = 1 ∧ flag (wd ws 0) 31 = false ∧ onlyBits (wd ws 0) 0x7F ∧
      s.cmd.fusedSvn < fld (wd ws 0) 6 0 ∧ fld (wd ws 0) 6 0 ≤ s.cmd.imageSvn) ∧
    (∃ (h : CmdHdr) (ws : List Word) (s : State), h.async = false ∧ Runs 0x0012 s ∧ ws.length = 1 ∧ flag (wd ws 0) 31 = true ∧
      onlyBits (wd ws 0) 0x80000003 ∧ s.cmd.imageKey ≠ some (fld (wd ws 0) 1 0) ∧
      (popcount 4 s.cmd.revoked.toNat ≠ 3 ∨ s.cmd.revoked.getLsbD (fld (wd ws 0) 1 0) = true)) ∧
    (∃ (h : CmdHdr) (ws : List Word) (s : State), h.async = false ∧ Runs 0x0013 s ∧ ws.length = 0) ∧
    (∃ h : CmdHdr, ∃ ws : List Word, ∃ s : State, ∃ back, back = (s.cmd.logSeq + 2 ^ 32 - (wd ws 0).toNat) % 2 ^ 32 ∧ h.async = false ∧ Runs 0x0980 s ∧
      ws.length = 2 ∧ onlyBits (wd ws 1) 0x7F ∧ 1 ≤ fld (wd ws 1) 6 0 ∧ fld (wd ws 1) 6 0 ≤ 126 ∧ (back = 0 ∨ 2 ^ 31 ≤ back)) ∧
    (∃ h : CmdHdr, ∃ ws : List Word, ∃ s : State, ∃ back, ∃ r : State × List LogEnt × Nat, back = (s.cmd.logSeq + 2 ^ 32 - (wd ws 0).toNat) % 2 ^ 32 ∧
      r = logTake (fld (wd ws 1) 6 0) (s.cmd.log.drop (s.cmd.log.length - back)) (s, [], 0) ∧ h.async = false ∧ Runs 0x0980 s ∧ ws.length = 2 ∧
      onlyBits (wd ws 1) 0x7F ∧ 1 ≤ fld (wd ws 1) 6 0 ∧ fld (wd ws 1) 6 0 ≤ 126 ∧ 0 < back ∧ back < 2 ^ 31) ∧
    (∃ (h : CmdHdr) (ws : List Word) (s : State), h.async = false ∧ Runs 0x0981 s ∧ ws.length = 1 ∧ onlyBits (wd ws 0) 0xF3 ∧
      (s.isStaged .logCfg (0) = false)) ∧
    (∃ (h : CmdHdr) (ws : List Word) (s : State), h.async = false ∧ Runs 0x0982 s ∧ ws.length = 4 ∧ onlyBits (wd ws 0) 0xFFFF) ∧
    (∃ (h : CmdHdr) (ws : List Word) (s : State), h.async = false ∧ Runs 0x0983 s ∧ ws.length = 0) :=
  ⟨⟨{}, [0], live, by decide⟩,
   ⟨{}, [0], live, by decide⟩,
   ⟨{}, [1], { live with cmd := { live.cmd with imageSvn := 1 } }, by decide⟩,
   ⟨{}, [0x80000000], live, by decide⟩,
   ⟨{}, [], live, by decide⟩,
   ⟨{}, [0, 1], live, _, rfl, by decide⟩,
   ⟨{}, [0, 1], { live with cmd := { live.cmd with logSeq := 1, log := [{}] } }, _, _, rfl, rfl, by decide⟩,
   ⟨{}, [0], live, by decide⟩,
   ⟨{}, [0, 0, 0, 0], live, by decide⟩,
   ⟨{}, [], live, by decide⟩⟩

theorem witness_ConverterCommandsComplete :
    (∃ (h : CmdHdr) (ws : List Word) (s : State), h.async = false ∧ Runs 0x0101 s ∧ ws.length = 9 ∧ onlyBits (wd ws 0) 1 ∧ opticsValid (ws.drop 1) ∧
      (s.cv (fld (wd ws 0) 0 0)).tx = .off ∧ (s.cv (fld (wd ws 0) 0 0)).rx = .off ∧ (s.isStaged .convEntry (fld (wd ws 0) 0 0) = false)) ∧
    (∃ (h : CmdHdr) (ws : List Word) (s : State), HasRoom h s ∧ Runs 0x0102 s ∧ ws.length = 1 ∧ onlyBits (wd ws 0) 1 ∧
      (s.cv (fld (wd ws 0) 0 0)).optics ≠ 0 ∧ (s.cv (fld (wd ws 0) 0 0)).tx ≠ .cal ∧ (s.cv (fld (wd ws 0) 0 0)).rx ≠ .cal ∧
      s.lineAllowed (fld (wd ws 0) 0 0) = true ∧ (s.isStaged .convCal (fld (wd ws 0) 0 0) = false)) ∧
    (∃ (h : CmdHdr) (ws : List Word) (s : State), h.async = false ∧ Runs 0x0103 s ∧ ws.length = 1 ∧ onlyBits (wd ws 0) 0xFFFF01F1 ∧
      16 ≤ fld (wd ws 0) 31 16 ∧ fld (wd ws 0) 31 16 ≤ 4096 ∧
      (∀ a ∈ onesOf 4 (fld (wd ws 0) 7 4), s.isStaged .bgcal (adcQual (fld (wd ws 0) 0 0) a) = false)) ∧
    (∃ (h : CmdHdr) (ws : List Word) (s : State), h.async = false ∧ Runs 0x0104 s ∧ ws.length = 1 ∧ onlyBits (wd ws 0) 0x31) ∧
    (∃ (h : CmdHdr) (ws : List Word) (s : State), h.async = false ∧ Runs 0x0105 s ∧ ws.length = 1 ∧ onlyBits (wd ws 0) 0x17F31 ∧ fld (wd ws 0) 14 8 ≤ 64 ∧
      flag (wd ws 0) 16 = true ∧ (s.cv (fld (wd ws 0) 0 0)).rx = .off ∧ (s.isStaged .slice (adcQual (fld (wd ws 0) 0 0) (fld (wd ws 0) 5 4)) = false)) ∧
    (∃ (h : CmdHdr) (ws : List Word) (s : State), h.async = false ∧ Runs 0x0105 s ∧ ws.length = 1 ∧ onlyBits (wd ws 0) 0x17F31 ∧ fld (wd ws 0) 14 8 ≤ 64 ∧
      flag (wd ws 0) 16 = false ∧ (((s.cv (fld (wd ws 0) 0 0)).adc.get (fld (wd ws 0) 5 4)).slices.get (fld (wd ws 0) 14 8)).retired = false ∧
      (fld (wd ws 0) 14 8 = ((s.cv (fld (wd ws 0) 0 0)).adc.get (fld (wd ws 0) 5 4)).offline ∨ ((s.cv (fld (wd ws 0) 0 0)).adc.get (fld (wd ws 0) 5 4)).spareOk = true) ∧
      (s.isStaged .slice (adcQual (fld (wd ws 0) 0 0) (fld (wd ws 0) 5 4)) = false)) :=
  ⟨⟨{}, [0, 0, 0, 0, 0, 0, 0, 0, 0], live, by decide⟩,
   ⟨{}, [0], live.onConv 0 fun c => { c with entry := [1] }, by decide⟩,
   ⟨{}, [0x100000], live, by decide⟩,
   ⟨{}, [0], live, by decide⟩,
   ⟨{}, [0x10000], live, by decide⟩,
   ⟨{}, [0x4000], live, by decide⟩⟩

theorem witness_LineCommandsComplete :
    (∃ (h : CmdHdr) (ws : List Word) (s : State), h.async = false ∧ Runs 0x0110 s ∧ ws.length = 2 ∧ onlyBits (wd ws 0) 0xFF03F301 ∧
      fld (wd ws 0) 31 24 ≤ 17 ∧ 11 ≤ fld (wd ws 0) 17 12 ∧ fld (wd ws 0) 17 12 ≤ 40 ∧ 2197 + 128 * fld (wd ws 0) 31 24 ≤ 200 * fld (wd ws 0) 17 12 ∧
      onlyBits (wd ws 1) 0xFFFF ∧ 32 ≤ fld (wd ws 1) 15 0 ∧ fld (wd ws 1) 15 0 ≤ 1024 ∧ (s.cv (fld (wd ws 0) 0 0)).tx = .off ∧
      (s.cv (fld (wd ws 0) 0 0)).rx = .off ∧ (s.isStaged .scCfg (fld (wd ws 0) 0 0) = false)) ∧
    (∃ (h : CmdHdr) (ws : List Word) (s : State), h.async = false ∧ Runs 0x0111 s ∧ ws.length = 17 ∧ onlyBits (wd ws 0) 0xFFFF0001 ∧
      (∀ k < 16, if (fld (wd ws 0) 31 16).testBit k then loadWordOk (wd ws (k + 1)) = true else wd ws (k + 1) = 0) ∧
      (∀ k ∈ onesOf 16 (fld (wd ws 0) 31 16), s.isStaged .load (loadItem (fld (wd ws 0) 0 0) k) = false ∧
      ((s.ds (fld (wd ws 0) 0 0)).sc.get k).warming = false ∧ ((s.ds (fld (wd ws 0) 0 0)).sc.get k).closing = false) ∧
      (∃ k < 16, carriesAfter s (fld (wd ws 0) 0 0) k (if (fld (wd ws 0) 31 16).testBit k then some (wd ws (k + 1)) else none) = true)) ∧
    (∃ (h : CmdHdr) (ws : List Word) (s : State), h.async = false ∧ Runs 0x0112 s ∧ ws.length = 101 ∧ onlyBits (wd ws 0) 0xF1 ∧
      ((s.ds (fld (wd ws 0) 0 0)).rxd = .scAcq ∨ (s.ds (fld (wd ws 0) 0 0)).rxd = .run) ∧
      (((s.ds (fld (wd ws 0) 0 0)).sc.get (fld (wd ws 0) 7 4)).slot = .idle ∨ ((s.ds (fld (wd ws 0) 0 0)).sc.get (fld (wd ws 0) 7 4)).slot = .fading)) ∧
    (∃ (h : CmdHdr) (ws : List Word) (s : State), h.async = false ∧ Runs 0x0113 s ∧ ws.length = 4 ∧ onlyBits (wd ws 0) 0xFFFF3F01 ∧
      1 ≤ fld (wd ws 0) 31 21 ∧ fld (wd ws 0) 31 21 ≤ 1024 ∧ 1 ≤ fld (wd ws 0) 13 8 ∧ -320000 ≤ sword (wd ws 1) ∧ sword (wd ws 1) ≤ 320000 ∧
      1000 ≤ (wd ws 2).toNat ∧ (wd ws 2).toNat ≤ 320000 ∧ onlyBits (wd ws 3) 0xFFFF ∧ fld (wd ws 3) 15 8 < fld (wd ws 3) 7 0 ∧
      (s.isStaged .rxCfg (fld (wd ws 0) 0 0) = false)) ∧
    (∃ (h : CmdHdr) (ws : List Word) (s : State), h.async = false ∧ Runs 0x0114 s ∧ ws.length = 1 ∧ onlyBits (wd ws 0) 1 ∧
      ((s.ds (fld (wd ws 0) 0 0)).rxd = .scAcq ∨ (s.ds (fld (wd ws 0) 0 0)).rxd = .run) ∧ (s.isStaged .rxAcq (fld (wd ws 0) 0 0) = false)) ∧
    (∃ (h : CmdHdr) (ws : List Word) (s : State), h.async = false ∧ Runs 0x0115 s ∧ ws.length = 1 ∧ onlyBits (wd ws 0) 0x3F1 ∧ fld (wd ws 0) 9 8 < 3) ∧
    (∃ (h : CmdHdr) (ws : List Word) (s : State), h.async = false ∧ Runs 0x0120 s ∧ ws.length = 1 ∧ onlyBits (wd ws 0) 0xFFFFFFF1 ∧
      1024 ≤ fld (wd ws 0) 31 16 ∧ fld (wd ws 0) 31 16 ≤ 11520 ∧ 4 ≤ fld (wd ws 0) 15 8 ∧ fld (wd ws 0) 15 8 ≤ 32 ∧
      (fld (wd ws 0) 5 4 = (s.fr (fld (wd ws 0) 0 0)).txRate ∨ (s.cv (fld (wd ws 0) 0 0)).tx = .off) ∧
      (fld (wd ws 0) 7 6 = (s.fr (fld (wd ws 0) 0 0)).rxRate ∨ (s.cv (fld (wd ws 0) 0 0)).rx = .off) ∧
      (s.isStaged .fecCfg (fld (wd ws 0) 0 0) = false)) ∧
    (∃ (h : CmdHdr) (ws : List Word) (s : State), h.async = false ∧ Runs 0x0121 s ∧ ws.length = 17 ∧ onlyBits (wd ws 0) 1 ∧
      (s.isStaged .hdrMsg (fld (wd ws 0) 0 0) = false)) :=
  ⟨⟨{}, [0x11018100, 0x40], live, by decide⟩,
   ⟨{}, [0x10000, 4, 0, 0, 0, 0, 0, 0, 0, 0, 0, 0, 0, 0, 0, 0, 0], live, by decide⟩,
   ⟨{}, [0, 0, 0, 0, 0, 0, 0, 0, 0, 0, 0, 0, 0, 0, 0, 0, 0, 0, 0, 0, 0, 0, 0, 0, 0, 0, 0, 0, 0, 0, 0, 0, 0, 0, 0, 0, 0, 0, 0, 0, 0, 0, 0, 0, 0, 0, 0, 0, 0, 0, 0, 0, 0, 0, 0, 0, 0, 0, 0, 0, 0, 0, 0, 0, 0, 0, 0, 0, 0, 0, 0, 0, 0, 0, 0, 0, 0, 0, 0, 0, 0, 0, 0, 0, 0, 0, 0, 0, 0, 0, 0, 0, 0, 0, 0, 0, 0, 0, 0, 0, 0], live.onDsp 0 fun c => { c with rxd := .run }, by decide⟩,
   ⟨{}, [0xfa00400, 0, 0x4e200, 0x1e3c], live, by decide⟩,
   ⟨{}, [0], live.onDsp 0 fun c => { c with rxd := .run }, by decide⟩,
   ⟨{}, [0], live, by decide⟩,
   ⟨{}, [0x2d0014f0], live, by decide⟩,
   ⟨{}, [0, 0, 0, 0, 0, 0, 0, 0, 0, 0, 0, 0, 0, 0, 0, 0, 0], live, by decide⟩⟩

theorem witness_ClientCommandsComplete :
    (∃ (h : CmdHdr) (ws : List Word) (s : State), h.async = false ∧ Runs 0x0201 s ∧ ws.length = 2 ∧ onlyBits (wd ws 0) 0x3FFFF ∧
      onlyBits (wd ws 1) 0xFFFFFDE0 ∧ fld (wd ws 1) 27 23 ≤ 16 ∧ fld (wd ws 1) 22 18 ≤ 16 ∧ fld (wd ws 1) 17 16 ≠ 3 ∧ fld (wd ws 1) 15 10 ≤ 48 ∧
      (∀ x ∈ onesOf 18 (wd ws 0).toNat, (fld (s.lane x).cfg 8 5 = fld (wd ws 1) 8 5 ∨ laneOwner s x = none) ∧ s.isStaged .laneCfg x = false)) ∧
    (∃ (h : CmdHdr) (ws : List Word) (s : State), h.async = false ∧ Runs 0x0202 s ∧ ws.length = 1 ∧ onlyBits (wd ws 0) 0x7F0F0C73 ∧
      fld (wd ws 0) 11 10 ≠ 3 ∧ fld (wd ws 0) 6 4 ≤ 4 ∧ laneOwner s (fld (wd ws 0) 19 16) = none ∧ laneClaimed s (fld (wd ws 0) 19 16) = false ∧
      (s.isStaged .laneRaw (fld (wd ws 0) 19 16) = false)) ∧
    (∃ (h : CmdHdr) (ws : List Word) (s : State), h.async = false ∧ Runs 0x0203 s ∧ ws.length = 1 ∧ onlyBits (wd ws 0) 0x31F ∧ fld (wd ws 0) 4 0 ≤ 17 ∧
      fld (wd ws 0) 9 8 = 0) ∧
    (∃ (h : CmdHdr) (ws : List Word) (s : State), h.async = false ∧ Runs 0x0203 s ∧ ws.length = 1 ∧ onlyBits (wd ws 0) 0x31F ∧ fld (wd ws 0) 4 0 ≤ 15 ∧
      fld (wd ws 0) 9 8 = 1) ∧
    (∃ (h : CmdHdr) (ws : List Word) (s : State), h.async = false ∧ Runs 0x0210 s ∧ ws.length = 5 ∧ onlyBits (wd ws 0) 0xFFC00007 ∧
      fld (wd ws 0) 28 27 ≠ 3 ∧ fld (wd ws 0) 26 24 ≤ 5 ∧ (flag (wd ws 0) 31 = true → modeAllowed (fld (wd ws 0) 2 0) (fld (wd ws 0) 23 22) = true ∧
      ((s.port (fld (wd ws 0) 2 0)).enabled = true → (s.port (fld (wd ws 0) 2 0)).mode = fld (wd ws 0) 23 22)) ∧ (flag (wd ws 0) 31 = true →
      ∀ q < 8, q ≠ fld (wd ws 0) 2 0 → portEnabled (nextPortCfg s q) = true →
      ∀ x ∈ lanesOf q (portMode (nextPortCfg s q)), (lanesOf (fld (wd ws 0) 2 0) (fld (wd ws 0) 23 22)).contains x = false) ∧
      (flag (wd ws 0) 31 = true → ∀ x ∈ lanesOf (fld (wd ws 0) 2 0) (fld (wd ws 0) 23 22), (s.lane x).raw = false ∧ s.isStaged .laneRaw x = false) ∧
      onlyBits (wd ws 1) 0x1FFF1FFF ∧ (fld (wd ws 0) 28 27 = 1 → flowClass (s.flowE (fld (wd ws 1) 28 16)) = 7) ∧ onlyBits (wd ws 2) 0x3FFF ∧
      64 ≤ fld (wd ws 2) 13 0 ∧ fld (wd ws 2) 13 0 ≤ 16000 ∧ onlyBits (wd ws 4) 0xFFFF ∧ (s.isStaged .port (fld (wd ws 0) 2 0) = false)) ∧
    (∃ (h : CmdHdr) (ws : List Word) (s : State) (x : PortS), x = { s.port (fld (wd ws 0) 2 0) with pfc := ws } ∧ h.async = false ∧ Runs 0x0211 s ∧
      ws.length = 3 ∧ onlyBits (wd ws 0) 0x3FFFFF07 ∧ 1 ≤ fld (wd ws 0) 29 24 ∧ x.txEn (x.pri 7) = false ∧ x.rxEn (x.pri 7) = false ∧
      (x.mode = 0 ∨ fld (wd ws 0) 29 24 * bitsPerTick x.mode < x.quanta * 512) ∧ onlyBits (wd ws 1) 0xFFFF ∧ 1 ≤ x.quanta ∧
      onlyBits (wd ws 2) 0xFFFFFF ∧ (∀ q < 8, q ∈ (List.range 8).map x.pri) ∧ (s.isStaged .pfc (fld (wd ws 0) 2 0) = false)) ∧
    (∃ (h : CmdHdr) (ws : List Word) (s : State), h.async = false ∧ Runs 0x0212 s ∧ ws.length = 1 ∧ onlyBits (wd ws 0) 0x8F8F ∧
      (s.isStaged .refSel (0) = false)) ∧
    (∃ (h : CmdHdr) (ws : List Word) (s : State), h.async = false ∧ Runs 0x0213 s ∧ ws.length = 3 ∧ onlyBits (wd ws 0) 7 ∧ -20000 ≤ sword (wd ws 1) ∧
      sword (wd ws 1) ≤ 20000 ∧ -20000 ≤ sword (wd ws 2) ∧ sword (wd ws 2) ≤ 20000 ∧ (s.isStaged .tsAdj (fld (wd ws 0) 2 0) = false)) :=
  ⟨⟨{}, [0, 0], live, by decide⟩,
   ⟨{}, [0], live, by decide⟩,
   ⟨{}, [0], live, by decide⟩,
   ⟨{}, [0x100], live, by decide⟩,
   ⟨{}, [0, 0, 0x2600, 0, 0], live, by decide, by decide, by decide, by decide, by decide, by decide, by decide, fun h => absurd h (by decide), by decide⟩,
   ⟨{}, [0x2000000, 0xffff, 0xfac688], live, _, rfl, by decide⟩,
   ⟨{}, [0], live, by decide⟩,
   ⟨{}, [0, 0, 0], live, by decide⟩⟩

theorem witness_ClassifierCommandsComplete :
    (∃ (h : CmdHdr) (ws : List Word) (s : State) (k : BitVec 64), k = keyWord (fld (wd ws 0) 2 0) (fld (wd ws 0) 26 24) ((wd ws 1).toNat + 2 ^ 32 * fld (wd ws 2) 15 0) ∧
      h.async = false ∧ Runs 0x0220 s ∧ ws.length = 4 ∧ onlyBits (wd ws 0) 0x87000007 ∧ 1 ≤ fld (wd ws 0) 26 24 ∧ fld (wd ws 0) 26 24 ≤ 5 ∧
      (wd ws 1).toNat < 2 ^ keyWidth (fld (wd ws 0) 26 24) ∧ (wd ws 1).toNat + 2 ^ 32 * fld (wd ws 2) 15 0 < 2 ^ keyWidth (fld (wd ws 0) 26 24) ∧
      onlyBits (wd ws 2) 0xFFFF ∧ onlyBits (wd ws 3) 0x1FFF ∧ flag (wd ws 0) 31 = false ∧
      ((keyLookup s k).isSome = true ∨ bucketLoad s (bucketOf k) < 4) ∧ (s.isStaged .key (k.toNat) = false)) ∧
    (∃ (h : CmdHdr) (ws : List Word) (s : State) (k : BitVec 64), k = keyWord (fld (wd ws 0) 2 0) (fld (wd ws 0) 26 24) ((wd ws 1).toNat + 2 ^ 32 * fld (wd ws 2) 15 0) ∧
      h.async = false ∧ Runs 0x0220 s ∧ ws.length = 4 ∧ onlyBits (wd ws 0) 0x87000007 ∧ 1 ≤ fld (wd ws 0) 26 24 ∧ fld (wd ws 0) 26 24 ≤ 5 ∧
      (wd ws 1).toNat < 2 ^ keyWidth (fld (wd ws 0) 26 24) ∧ (wd ws 1).toNat + 2 ^ 32 * fld (wd ws 2) 15 0 < 2 ^ keyWidth (fld (wd ws 0) 26 24) ∧
      onlyBits (wd ws 2) 0xFFFF ∧ onlyBits (wd ws 3) 0x1FFF ∧ flag (wd ws 0) 31 = true ∧ (keyLookup s k).isSome = true ∧
      (s.isStaged .key (k.toNat) = false)) ∧
    (∃ (h : CmdHdr) (ws : List Word) (s : State), h.async = false ∧ Runs 0x0300 s ∧ ws.length = fld (wd ws 0) 28 16 + 1 ∧ onlyBits (wd ws 0) 0x1FFF1FFF ∧
      1 ≤ fld (wd ws 0) 28 16 ∧ fld (wd ws 0) 28 16 ≤ 1015 ∧ fld (wd ws 0) 12 0 + fld (wd ws 0) 28 16 ≤ 8192 ∧
      (∀ n < fld (wd ws 0) 28 16, flowWordOk s (fld (wd ws 0) 12 0 + n) (wd ws (n + 1)) = true ∧ s.isStaged .flow (fld (wd ws 0) 12 0 + n) = false)) ∧
    (∃ (h : CmdHdr) (ws : List Word) (s : State), h.async = false ∧ Runs 0x0301 s ∧ ws.length = 1 ∧ onlyBits (wd ws 0) 0x1FFF1FFF ∧
      1 ≤ fld (wd ws 0) 28 16 ∧ fld (wd ws 0) 28 16 ≤ 1015 ∧ fld (wd ws 0) 12 0 + fld (wd ws 0) 28 16 ≤ 8192) :=
  ⟨⟨{}, [0x1000000, 0, 0, 0], live, _, rfl, by decide⟩,
   ⟨{}, [0x81000000, 0, 0, 0], { live with cl := { live.cl with keys := live.cl.keys.set (4 * bucketOf (keyWord 0 1 0)) (some (keyWord 0 1 0, 0)) } }, _, rfl, by decide +kernel⟩,
   ⟨{}, [0x10000, 0x100], live, by decide⟩,
   ⟨{}, [0x10000], live, by decide⟩⟩

theorem witness_SecurityCommandsComplete :
    (∃ (h : CmdHdr) (ws : List Word) (s : State), h.async = false ∧ Runs 0x0310 s ∧ ws.length = fld (wd ws 0) 28 16 + 1 ∧ onlyBits (wd ws 0) 0x1FFF1FFF ∧
      1 ≤ fld (wd ws 0) 28 16 ∧ fld (wd ws 0) 28 16 ≤ 1015 ∧ fld (wd ws 0) 12 0 + fld (wd ws 0) 28 16 ≤ 8192 ∧
      (∀ k < fld (wd ws 0) 28 16, onlyBits (wd ws (k + 1)) 0xFFFF3F03 = true ∧ 10 ≤ saMark (wd ws (k + 1)) ∧ saMark (wd ws (k + 1)) ≤ 60000 ∧
      s.isStaged .sa (fld (wd ws 0) 12 0 + k) = false) ∧ s.nut.zeroising = none ∧ (s.nut.locked = true → s.cmd.accepting = false →
      ∀ w ∈ ws.drop 1, modeOk s.nut (saMode w) = true)) ∧
    (∃ (h : CmdHdr) (ws : List Word) (s : State), h.async = false ∧ Runs 0x0311 s ∧ ws.length = 1 ∧ onlyBits (wd ws 0) 0x1FFF ∧ s.nut.zeroising = none ∧
      (s.sa (fld (wd ws 0) 12 0)).txNxt.valid = true ∧ slotNow s (fld (wd ws 0) 12 0) = false ∧ (s.isStaged .sa (fld (wd ws 0) 12 0) = false)) ∧
    (∃ (h : CmdHdr) (ws : List Word) (s : State), h.async = false ∧ Runs 0x0312 s ∧ ws.length = 1 ∧ onlyBits (wd ws 0) 0x1FFF ∧ s.nut.zeroising = none ∧
      (s.sa (fld (wd ws 0) 12 0)).rxNxt.valid = true ∧ (s.isStaged .sa (fld (wd ws 0) 12 0) = false)) ∧
    (∃ (h : CmdHdr) (ws : List Word) (s : State), h.async = false ∧ Runs 0x0313 s ∧ ws.length = 1 ∧ onlyBits (wd ws 0) 0x31FFF ∧ fld (wd ws 0) 17 16 ≠ 3 ∧
      s.nut.zeroising = none ∧ (s.isStaged .sa (fld (wd ws 0) 12 0) = false)) ∧
    (∃ (h : CmdHdr) (ws : List Word) (s : State), h.async = false ∧ Runs 0x0314 s ∧ ws.length = 1 ∧ onlyBits (wd ws 0) 0x7F1FFF ∧
      1 ≤ fld (wd ws 0) 22 16 ∧ fld (wd ws 0) 12 0 + fld (wd ws 0) 22 16 ≤ 8192 ∧ s.nut.zeroising = none) ∧
    (∃ (h : CmdHdr) (ws : List Word) (s : State), h.async = false ∧ Runs 0x0315 s ∧ ws.length = 3 ∧ onlyBits (wd ws 0) 0x1FFF ∧ s.nut.zeroising = none ∧
      (s.sa (fld (wd ws 0) 12 0)).txCur.valid = true ∧ (s.sa (fld (wd ws 0) 12 0)).txCur.pn < ofLohi (wd ws 1) (wd ws 2) ∧
      (s.isStaged .sa (fld (wd ws 0) 12 0) = false)) ∧
    (∃ (h : CmdHdr) (ws : List Word) (s : State), h.async = false ∧ Runs 0x0316 s ∧ ws.length = 1 ∧ onlyBits (wd ws 0) 0xF01 ∧ s.nut.zeroising = none) ∧
    (∃ (h : CmdHdr) (ws : List Word) (s : State), HasRoom h s ∧ Runs 0x0317 s ∧ ws.length = 0 ∧ s.nut.zeroising = none) :=
  ⟨⟨{}, [0x10000, 0x3e80000], live, by decide⟩,
   ⟨{}, [0], live.onSa 0 fun c => { c with txNxt := { valid := true } }, by decide⟩,
   ⟨{}, [0], live.onSa 0 fun c => { c with rxNxt := { valid := true } }, by decide⟩,
   ⟨{}, [0], live, by decide⟩,
   ⟨{}, [0x10000], live, by decide⟩,
   ⟨{}, [0, 1, 0], live.onSa 0 fun c => { c with txCur := { valid := true } }, by decide⟩,
   ⟨{}, [0], live, by decide⟩,
   ⟨{}, [], live, by decide⟩⟩

theorem witness_SettCommandsComplete :
    (∃ (h : CmdHdr) (ws : List Word) (s : State), h.async = false ∧ Runs 0x0401 s ∧ ws.length = 2 ∧ onlyBits (wd ws 0) 0x0FFF0FFF ∧
      onlyBits (wd ws 1) 0x0FFF0FFF ∧ fld (wd ws 0) 27 16 + fld (wd ws 0) 11 0 + fld (wd ws 1) 27 16 + fld (wd ws 1) 11 0 = 2048 ∧
      fld (wd ws 1) 11 0 ≤ 512 ∧ (s.sett.st = .ready ∨ s.cmd.accepting = true) ∧ (∀ l < 2, (s.cv l).tx = .off ∧ (s.cv l).rx = .off) ∧
      (∀ f ∈ s.sett.merge.keys, (s.mg f).ringU = 0) ∧ (∀ g ∈ s.tick.staged, g.item = .merge → g.op ≠ 0) ∧ (s.isStaged .region (0) = false)) ∧
    (∃ (h : CmdHdr) (ws : List Word) (s : State) (size : Nat), size = regionSize s (if flag (wd ws 0) 8 then 2 else 1) / 2 ^ 20 ∧ h.async = false ∧
      Runs 0x0402 s ∧ ws.length = 5 ∧ onlyBits (wd ws 0) 0x107 ∧ (∀ k < 5, 1 ≤ k → onlyBits (wd ws k) 0xFFFFF = true) ∧
      (wd ws 1).toNat ≤ (wd ws 4).toNat ∧
      (((List.range 8).filter (· != fld (wd ws 0) 2 0)).map fun k => (wd (nextCls s (flag (wd ws 0) 8) k) 0).toNat).sum + (wd ws 1).toNat ≤ size ∧
      (wd ws 3).toNat ≤ (wd ws 2).toNat ∧ (wd ws 2).toNat ≤ size ∧ (wd ws 4).toNat < (wd ws 3).toNat ∧ (s.sett.st = .ready ∨ s.cmd.accepting = true) ∧
      (s.isStaged .cls (if flag (wd ws 0) 8 then 8 + fld (wd ws 0) 2 0 else fld (wd ws 0) 2 0) = false)) ∧
    (∃ h : CmdHdr, ∃ ws : List Word, ∃ s : State, ∃ b, h.async = false ∧ Runs 0x0403 s ∧ ws.length = 3 ∧ onlyBits (wd ws 0) 0xC0011FFF ∧
      fld (wd ws 0) 31 30 = 0 ∧ (s.mg (fld (wd ws 0) 12 0)).ringU = 0 ∧ onlyBits (wd ws 1) 0x3FFFFF ∧ fld (wd ws 1) 21 0 ≠ 0 ∧
      onlyBits (wd ws 2) 0xFFFF ∧ 3 ≤ fld (wd ws 2) 15 0 ∧ (s.sett.st = .ready ∨ s.cmd.accepting = true) ∧
      (s.isStaged .merge (fld (wd ws 0) 12 0) = false) ∧ firstFit s (fld (wd ws 1) 21 0) = some b) ∧
    (∃ (h : CmdHdr) (ws : List Word) (s : State), h.async = false ∧ Runs 0x0403 s ∧ ws.length = 3 ∧ onlyBits (wd ws 0) 0xC0011FFF ∧
      fld (wd ws 0) 31 30 ≠ 0 ∧ (s.mg (fld (wd ws 0) 12 0)).ringU ≠ 0 ∧ onlyBits (wd ws 1) 0x3FFFFF ∧ onlyBits (wd ws 2) 0xFFFF ∧
      (2 ≤ fld (wd ws 0) 31 30 ∨ 3 ≤ fld (wd ws 2) 15 0) ∧ (s.sett.st = .ready ∨ s.cmd.accepting = true) ∧
      (s.isStaged .merge (fld (wd ws 0) 12 0) = false)) ∧
    (∃ (h : CmdHdr) (ws : List Word) (s : State), h.async = false ∧ Runs 0x0404 s ∧ ws.length = 1 ∧ onlyBits (wd ws 0) 0x1FFF) ∧
    (∃ (h : CmdHdr) (ws : List Word) (s : State), h.async = false ∧ Runs 0x0405 s ∧ ws.length = 3 ∧ onlyBits (wd ws 0) 0x000F030F ∧
      fld (wd ws 0) 3 0 ≤ 8 ∧ 1 ≤ fld (wd ws 0) 19 16 ∧ (s.sett.st = .ready ∨ s.cmd.accepting = true) ∧
      (∀ c ∈ onesOf 64 (ofLohi (wd ws 1) (wd ws 2)), s.isStaged .arb (16 * c + fld (wd ws 0) 3 0) = false)) ∧
    (∃ (h : CmdHdr) (ws : List Word) (s : State), h.async = false ∧ Runs 0x0406 s ∧ ws.length = 5 ∧ onlyBits (wd ws 0) 0x1FFF000F ∧
      fld (wd ws 0) 2 0 ≤ 5 ∧ onlyBits (wd ws 1) 0x01FF0003 ∧ fld (wd ws 1) 1 0 ≤ 2 ∧ onlyBits (wd ws 4) 0x07FFFFFF ∧
      (s.sett.st = .ready ∨ s.cmd.accepting = true) ∧ (s.sett.cap = .idle ∨ s.sett.cap = .done) ∧ (s.isStaged .capCfg (0) = false)) ∧
    (∃ (h : CmdHdr) (ws : List Word) (s : State), h.async = false ∧ Runs 0x0407 s ∧ ws.length = 1 ∧ onlyBits (wd ws 0) 3 ∧
      (s.sett.st = .ready ∨ s.cmd.accepting = true) ∧ (s.isStaged .capArm (0) = false)) ∧
    (∃ (h : CmdHdr) (ws : List Word) (s : State) (at_ : Nat →
      Nat) (r : State × List Word), (∀ k, at_ k = regionBase s 3 + 320 * ((s.sett.recs - capHeld s + (wd ws 0).toNat + k) % capRoom s)) ∧
      r = (List.range (fld (wd ws 1) 3 0)).foldl (fun a k => readRecord (at_ k / 64) a) (s.each (List.range (fld (wd ws 1) 3 0)) fun s k => request 8 (granulePcs (at_ k) 5) s, []) ∧
      h.async = false ∧ Runs 0x0408 s ∧ ws.length = 2 ∧ onlyBits (wd ws 1) 0xF ∧ 1 ≤ fld (wd ws 1) 3 0 ∧ fld (wd ws 1) 3 0 ≤ 12 ∧
      (wd ws 0).toNat + fld (wd ws 1) 3 0 ≤ capHeld s ∧ (s.sett.st = .ready ∨ s.cmd.accepting = true) ∧ (s.sett.cap = .idle ∨ s.sett.cap = .done)) :=
  ⟨⟨{}, [0x60000c0, 0xc00080], live, by decide⟩,
   ⟨{}, [0, 0x200, 0xC00, 0xB00, 0x800], live, _, rfl, by decide⟩,
   ⟨{}, [0, 1, 3], live, 0, by decide⟩,
   ⟨{}, [0x40000000, 0, 3], live.onMg 0 fun c => { c with ringU := 1 }, by decide⟩,
   ⟨{}, [0], live, by decide⟩,
   ⟨{}, [0x10000, 0, 0], live, by decide⟩,
   ⟨{}, [0, 0, 0, 0, 0], live, by decide⟩,
   ⟨{}, [0], live, by decide⟩,
   ⟨{}, [0, 1], { live with sett := { live.sett with recs := 1 } }, _, _, fun _ => rfl, rfl, by decide⟩⟩

theorem witness_EccCommandsComplete :
    (∃ (h : CmdHdr) (ws : List Word) (s : State), h.async = false ∧ Runs 0x0501 s ∧ ws.length = 1 ∧ onlyBits (wd ws 0) 0x8001FFFF ∧
      14 ≤ fld (wd ws 0) 16 0 ∧ fld (wd ws 0) 16 0 ≤ 86400 ∧ (s.isStaged .scrub (0) = false)) ∧
    (∃ (h : CmdHdr) (ws : List Word) (s : State), h.async = false ∧ Runs 0x0502 s ∧ ws.length = 1 ∧ onlyBits (wd ws 0) 0xFFFF01FF ∧
      targets.contains (fld (wd ws 0) 7 0) = true ∧ 1 ≤ fld (wd ws 0) 31 26) ∧
    (∃ (h : CmdHdr) (ws : List Word) (s : State), HasRoom h s ∧ Runs 0x0503 s ∧ ws.length = 1 + 2 * fld (wd ws 0) 7 0 ∧ onlyBits (wd ws 0) 0xFF ∧
      1 ≤ fld (wd ws 0) 7 0 ∧ ((spareRecs (ws.drop 1)).findIdx fun r => !spareOk r) = fld (wd ws 0) 7 0 ∧ s.sett.st = .ready ∧ s.ecc.loading = []) ∧
    (∃ (h : CmdHdr) (ws : List Word) (s : State), h.async = false ∧ Runs 0x0504 s ∧ ws.length = 19 ∧ onlyBits (wd ws 0) 1 ∧ flag (wd ws 0) 0 = true ∧
      ofLohi (wd ws 1) (wd ws 2) % 64 = 0 ∧ regionBase s 3 ≤ ofLohi (wd ws 1) (wd ws 2) ∧
      ofLohi (wd ws 1) (wd ws 2) < regionBase s 3 + regionSize s 3 ∧ s.sett.st = .ready ∧ s.sett.cap = .idle) ∧
    (∃ (h : CmdHdr) (ws : List Word) (s : State) (r : State × List (BitVec 64 × BitVec 16)), r = settRead (ofLohi (wd ws 1) (wd ws 2) / 64) false (request 8 (granulePcs (ofLohi (wd ws 1) (wd ws 2)) 1) s) ∧
      h.async = false ∧ Runs 0x0504 s ∧ ws.length = 3 ∧ onlyBits (wd ws 0) 1 ∧ flag (wd ws 0) 0 = false ∧ ofLohi (wd ws 1) (wd ws 2) % 64 = 0 ∧
      regionBase s 3 ≤ ofLohi (wd ws 1) (wd ws 2) ∧ ofLohi (wd ws 1) (wd ws 2) < regionBase s 3 + regionSize s 3 ∧ s.sett.st = .ready ∧
      s.sett.cap = .idle) :=
  ⟨⟨{}, [0xe], live, by decide⟩,
   ⟨{}, [0x4000000], live, by decide⟩,
   ⟨{}, [1, 0, 0], live, by decide⟩,
   ⟨{}, [1, 0, 0x1e, 0, 0, 0, 0, 0, 0, 0, 0, 0, 0, 0, 0, 0, 0, 0, 0], live, by decide⟩,
   ⟨{}, [0, 0, 0x1e], live, _, rfl, by decide⟩⟩

theorem witness_TimingCommandsComplete :
    (∃ (h : CmdHdr) (ws : List Word) (s : State), h.async = false ∧ Runs 0x0601 s ∧ ws.length = 4 ∧ onlyBits (wd ws 0) 0xF07F0007 ∧ (refPps ws = true →
      fld (wd ws 0) 2 0 < 4) ∧ bwOk (refPps ws) (refBw ws) = true ∧ (refPrio ws = 0 → s.tim.mode = 1 ∨ s.tim.mode = 2 →
      fld (wd ws 0) 2 0 ≠ s.tim.selRef) ∧ onlyBits (wd ws 1) 0x3FFFFFFF ∧ (refPps ws = true ∨ 4 ≤ fld (wd ws 0) 2 0 ∨ 1000 ≤ refNom ws ∧
      refNom ws ≤ 800000000) ∧ -1000000 ≤ refDelay ws ∧ refDelay ws ≤ 1000000 ∧ onlyBits (wd ws 3) 0x3FFF ∧ 1 ≤ fld (wd ws 3) 13 0 ∧
      fld (wd ws 3) 13 0 ≤ 10000 ∧ (s.isStaged .ref (fld (wd ws 0) 2 0) = false)) ∧
    (∃ (h : CmdHdr) (ws : List Word) (s : State) (t : TimS), t = { s.tim with cfg := ws } ∧ h.async = false ∧ Runs 0x0602 s ∧ ws.length = 4 ∧
      onlyBits (wd ws 0) 0xC70003FF ∧ 1 ≤ t.wtr ∧ t.wtr ≤ 600 ∧ (t.mode = 1 ∨ t.mode = 2 → (s.ref t.selRef).prio ≠ 0) ∧ 10 ≤ fld (wd ws 1) 31 16 ∧
      fld (wd ws 1) 31 16 ≤ 5000 ∧ 10 ≤ fld (wd ws 1) 15 0 ∧ fld (wd ws 1) 15 0 ≤ 10000 ∧ 10 ≤ t.window ∧ t.window ≤ 900 ∧ t.guardSec ≤ 120 ∧
      onlyBits (wd ws 3) 0xFFFF01FF ∧ 1 ≤ t.slewRate ∧ t.slewRate ≤ 10000 ∧ t.xoPpm ≤ 50 ∧ (s.cmd.accepting = true ∨ t.ocxoEn = s.tim.ocxoEn) ∧
      (s.isStaged .dpll (0) = false)) ∧
    (∃ (h : CmdHdr) (ws : List Word) (s : State), h.async = false ∧ Runs 0x0603 s ∧ ws.length = 7 ∧ timeSetBad s ws = none ∧
      (fld (wd ws 0) 1 0 = 2 ∨ 8 ≤ s.tim.sel ∨ (s.ref s.tim.sel).pps = false ∨ (s.tim.st ≠ .acquire ∧ s.tim.st ≠ .locked ∧ s.tim.st ≠ .switch)) ∧
      (s.isStaged .timeSet (0) = false)) ∧
    (∃ (h : CmdHdr) (ws : List Word) (s : State), h.async = false ∧ Runs 0x0604 s ∧ ws.length = 5 ∧ onlyBits (wd ws 0) 0xE0070007 ∧
      fld (wd ws 0) 2 0 ≤ 5 ∧ outSquelch ws ≠ 3 ∧ (fld (wd ws 0) 2 0 < 4 ∨ outSrc ws ≤ 4 ∧ (outSrc ws = 0 ∨ (s.ref (outSrc ws - 1)).pps = true)) ∧
      -62500000000 ≤ signed 37 (fld (wd ws 1) 31 0 + 2 ^ 32 * fld (wd ws 2) 4 0) ∧
      signed 37 (fld (wd ws 1) 31 0 + 2 ^ 32 * fld (wd ws 2) 4 0) ≤ 62500000000 ∧ onlyBits (wd ws 2) 0xFFFFF01F ∧ 1 ≤ fld (wd ws 2) 31 12 ∧
      fld (wd ws 2) 31 12 ≤ 500000 ∧ onlyBits (wd ws 3) 0xFFFFFF ∧ onlyBits (wd ws 4) 0xFFFFFF ∧ fld (wd ws 4) 23 0 ≠ 0 ∧
      1000 * fld (wd ws 4) 23 0 ≤ 1600000000 * fld (wd ws 3) 23 0 ∧ 1600000000 * fld (wd ws 3) 23 0 ≤ 800000000 * fld (wd ws 4) 23 0 ∧
      (s.isStaged .out (fld (wd ws 0) 2 0) = false)) ∧
    (∃ (h : CmdHdr) (ws : List Word) (s : State), h.async = false ∧ Runs 0x0C01 s ∧ ws.length = 1 ∧ onlyBits (wd ws 0) 3 ∧
      fld (wd ws 0) 1 0 < s.cmd.devs ∧ s.tim.newMaster = none) ∧
    (∃ (h : CmdHdr) (ws : List Word) (s : State), h.async = false ∧ Runs 0x0C02 s ∧ ws.length = 2 ∧ (sword (wd ws 0)).natAbs ≤ 100000 ∧
      (sword (wd ws 1)).natAbs ≤ 100000 ∧ (s.isStaged .chainAsym (0) = false)) :=
  ⟨⟨{}, [0x10040000, 0x989680, 0, 0x64], live, by decide⟩,
   ⟨{}, [0xa, 0x1cc03e8, 0x12c003c, 0x3e80032], live, _, rfl, by decide⟩,
   ⟨{}, [0, 0, 0, 0, 0, 0, 0], live, by decide⟩,
   ⟨{}, [0x20000000, 0, 0x64000, 1, 0xa0], live, by decide⟩,
   ⟨{}, [0], live, by decide⟩,
   ⟨{}, [0, 0], live, by decide⟩⟩

theorem witness_MartenCommandsComplete :
    (∃ (h : CmdHdr) (ws : List Word) (s : State) (m : MartenL), m = { cfg := ws } ∧ h.async = false ∧ Runs 0x0701 s ∧ ws.length = 7 ∧
      onlyBits (wd ws 0) 0x1FFFF031 ∧ 125 ≤ m.ttAvg ∧ m.ttAvg ≤ 125000 ∧ m.mode ≠ 3 ∧ (m.fTx = 0 ∨ 185000000 ≤ m.fTx ∧ m.fTx ≤ 200000000) ∧
      onlyBits (wd ws 2) 0x3FFFF ∧ m.txPath ≤ 200000 ∧ onlyBits (wd ws 3) 0x3FFFF ∧ m.rxPath ≤ 200000 ∧ m.asymCal.natAbs ≤ 100000000 ∧
      onlyBits (wd ws 5) 0xFFFF0FFF ∧ 16 ≤ m.driftAvg ∧ onlyBits (wd ws 6) 0xFFFF ∧ 10 ≤ m.jumpThr ∧ m.jumpThr ≤ 10000 ∧
      (s.isStaged .martenLine (fld (wd ws 0) 0 0) = false)) ∧
    (∃ (h : CmdHdr) (ws : List Word) (s : State), h.async = false ∧ Runs 0x0702 s ∧ (ws.length = 2 ∨ ws.length = 4) ∧ onlyBits (wd ws 0) 1 ∧
      (sword (wd ws 1)).natAbs ≤ 100000000 ∧ (ws.getD 2 0x80000000 = 0x80000000 ↔ ws.getD 3 0x80000000 = 0x80000000) ∧
      ((s.ml (fld (wd ws 0) 0 0)).mode = 2 ∨ ws.getD 2 0x80000000 = 0x80000000) ∧ (s.isStaged .martenLine (fld (wd ws 0) 0 0) = false)) ∧
    (∃ (h : CmdHdr) (ws : List Word) (s : State), h.async = false ∧ Runs 0x0703 s ∧ ws.length = 1 ∧ onlyBits (wd ws 0) 0x00FF0107 ∧
      steerSrc (wd ws 0) ≤ 5 ∧ deadBand (wd ws 0) ≤ 100 ∧ (s.isStaged .steer (0) = false)) ∧
    (∃ (h : CmdHdr) (ws : List Word) (s : State), h.async = false ∧ Runs 0x0704 s ∧ ws.length = 1 ∧ onlyBits (wd ws 0) 0xFCFF3307 ∧
      -7 ≤ sfld (wd ws 0) 31 28 ∧ sfld (wd ws 0) 31 28 ≤ 0 ∧ fld (wd ws 0) 27 26 ≠ 3 ∧ fld (wd ws 0) 13 12 ≤ 1 ∧
      (s.isStaged .ptp (fld (wd ws 0) 2 0) = false)) ∧
    (∃ (h : CmdHdr) (ws : List Word) (s : State) (m : MartenL), m = { mc := ws } ∧ h.async = false ∧ Runs 0x0705 s ∧ ws.length = 2 ∧
      onlyBits (wd ws 0) 0x00FFFF31 ∧ 10 ≤ m.capMargin ∧ m.capMargin ≤ 200 ∧ (m.role = 0 ∨ (s.ds (fld (wd ws 0) 0 0)).mcEn = true ∧
      (s.ml (fld (wd ws 0) 0 0)).role = 0) ∧ 1 ≤ m.mcAvg ∧ m.mcAvg ≤ 1024 ∧ 8 ≤ m.period ∧ m.period ≤ 12500 ∧ (m.role = 3 →
      (s.cv (fld (wd ws 0) 0 0)).tx = .off) ∧ (s.isStaged .mc (fld (wd ws 0) 0 0) = false)) ∧
    (∃ (h : CmdHdr) (ws : List Word) (s : State), h.async = false ∧ Runs 0x0706 s ∧ ws.length = 1 + (fld (wd ws 0) 26 16 + 3) / 4 ∧
      onlyBits (wd ws 0) 0x07FFFF01 ∧ 1 ≤ fld (wd ws 0) 26 16 ∧ fld (wd ws 0) 26 16 ≤ 1024 ∧
      ((s.ml (fld (wd ws 0) 0 0)).role ≤ 1 ∨ fld (wd ws 0) 26 16 ≤ 64) ∧ (s.ml (fld (wd ws 0) 0 0)).sendQ.length < 16) ∧
    (∃ (h : CmdHdr) (ws : List Word) (s : State), h.async = false ∧ Runs 0x0707 s ∧ ws.length = 1 ∧ onlyBits (wd ws 0) 0x301 ∧ fld (wd ws 0) 9 8 = 1) ∧
    (∃ h : CmdHdr, ∃ ws : List Word, ∃ s : State, ∃ src, ∃ pw, ∃ bs, ∃ q, h.async = false ∧ Runs 0x0707 s ∧ ws.length = 1 ∧ onlyBits (wd ws 0) 0x301 ∧
      fld (wd ws 0) 9 8 = 0 ∧ (s.ml (fld (wd ws 0) 0 0)).mail = (src, pw, bs) :: q) :=
  ⟨⟨{}, [0x30d4000, 0, 0, 0, 0, 0xf7040e10, 0x64], live, _, rfl, by decide⟩,
   ⟨{}, [0, 0], live, by decide⟩,
   ⟨{}, [0], live, by decide⟩,
   ⟨{}, [0], live, by decide⟩,
   ⟨{}, [0x3c0000, 0x64007d], live, _, rfl, by decide⟩,
   ⟨{}, [0x10000, 0], live, by decide⟩,
   ⟨{}, [0x100], live, by decide⟩,
   ⟨{}, [0], live.onMar 0 fun c => { c with mail := [(0, 0, [])] }, 0, 0, [], [], by decide⟩⟩

theorem witness_CloveCommandsComplete :
    (∃ (h : CmdHdr) (ws : List Word) (s : State), h.async = false ∧ Runs 0x0801 s ∧ ws.length = 1 ∧ onlyBits (wd ws 0) 0x31F ∧
      (s.isStaged .chan (fld (wd ws 0) 4 0) = false)) ∧
    (∃ (h : CmdHdr) (ws : List Word) (s : State), h.async = false ∧ Runs 0x0802 s ∧ ws.length = 10 ∧ seqOk ws ∧
      (s.isStaged .seq (fld (wd ws 0) 31 31) = false)) ∧
    (∃ (h : CmdHdr) (ws : List Word) (s : State), h.async = false ∧ Runs 0x0803 s ∧ ws.length = 0) ∧
    (∃ (h : CmdHdr) (ws : List Word) (s : State), h.async = false ∧ Runs 0x0804 s ∧ ws.length = 0 ∧ seqMode s.clv.inj ≠ 0) ∧
    (∃ (h : CmdHdr) (ws : List Word) (s : State), h.async = false ∧ Runs 0x0805 s ∧ ws.length = 3 ∧ onlyBits (wd ws 0) 0xFFFFFF3F ∧
      fld (wd ws 0) 31 16 ≠ 0 ∧ fld (wd ws 0) 13 8 < 48 ∧ onlyBits (wd ws 1) 0x0FFFFFFF ∧ onlyBits (wd ws 2) 0x00FFFFFF ∧
      (s.isStaged .det (fld (wd ws 0) 3 0) = false)) ∧
    (∃ (h : CmdHdr) (ws : List Word) (s : State), h.async = false ∧ Runs 0x0806 s ∧ ws.length = 1 ∧ onlyBits (wd ws 0) 0x1FF30FFF ∧
      fld (wd ws 0) 17 16 ≠ 3 ∧ (s.isStaged .tdac (0) = false)) ∧
    (∃ (h : CmdHdr) (ws : List Word) (s : State), h.async = false ∧ Runs 0x0807 s ∧ ws.length = 6 ∧ biasOk ws ∧
      (s.isStaged .bias (fld (wd ws 0) 3 0) = false)) ∧
    (∃ (h : CmdHdr) (ws : List Word) (s : State), h.async = false ∧ Runs 0x0808 s ∧ ws.length = 1 ∧ onlyBits (wd ws 0) 0xFFFF000F ∧
      (s.clv.bias.get (fld (wd ws 0) 3 0)).min ≤ fld (wd ws 0) 31 16 ∧ fld (wd ws 0) 31 16 ≤ (s.clv.bias.get (fld (wd ws 0) 3 0)).max ∧
      (s.clv.bias.get (fld (wd ws 0) 3 0)).target = 0 ∧ (s.isStaged .bias (fld (wd ws 0) 3 0) = false)) ∧
    (∃ (h : CmdHdr) (ws : List Word) (s : State), h.async = false ∧ Runs 0x0809 s ∧ ws.length = 1 ∧ onlyBits (wd ws 0) 0x800F3FFF ∧
      125 ≤ fld (wd ws 0) 13 0 ∧ fld (wd ws 0) 13 0 ≤ 12500 ∧ (s.isStaged .cloveCal (0) = false)) :=
  ⟨⟨{}, [0], live, by decide⟩,
   ⟨{}, [0, 0, 0, 0, 0, 0, 0, 0, 0, 0], live, by decide⟩,
   ⟨{}, [], live, by decide⟩,
   ⟨{}, [], { live with clv := { live.clv with inj := [0x90000000, 0] } }, by decide⟩,
   ⟨{}, [0x10000, 0, 0], live, by decide⟩,
   ⟨{}, [0], live, by decide⟩,
   ⟨{}, [0x400, 0xffff0000, 0x8000, 0x800000, 0x1000010, 0], live, by decide⟩,
   ⟨{}, [0], live, by decide⟩,
   ⟨{}, [0x800404e2], live, by decide⟩⟩

theorem witness_CollectorAndCounterCommandsComplete :
    (∃ (h : CmdHdr) (ws : List Word) (s : State), h.async = false ∧ Runs 0x0901 s ∧ ws.length = 1 + fld (wd ws 0) 24 16 ∧ onlyBits (wd ws 0) 0x01FF01FF ∧
      1 ≤ fld (wd ws 0) 24 16 ∧ fld (wd ws 0) 8 0 + fld (wd ws 0) 24 16 ≤ 512 ∧ (∀ w ∈ ws.drop 1, onlyBits w 0x37F = true ∧ fld w 6 4 ≠ 7) ∧
      (∀ k < fld (wd ws 0) 24 16, s.flt.locked = true → fltChangeOk (s.flt.word (fld (wd ws 0) 8 0 + k)) (wd (ws.drop 1) k) = true) ∧
      (∀ k < fld (wd ws 0) 24 16, s.isStaged .fltCfg (fld (wd ws 0) 8 0 + k) = false)) ∧
    (∃ (h : CmdHdr) (ws : List Word) (s : State), h.async = false ∧ Runs 0x0902 s ∧ ws.length = 5 ∧ (∀ k < 4, onlyBits (wd ws k) 0xFFFFFF = true ∧
      125 ≤ fld (wd ws k) 23 0) ∧ onlyBits (wd ws 4) 0x3FFF ∧ 10 ≤ fld (wd ws 4) 13 0 ∧ fld (wd ws 4) 13 0 ≤ 10000 ∧ s.flt.locked = false ∧
      (s.isStaged .fltGlobal (0) = false)) ∧
    (∃ (h : CmdHdr) (ws : List Word) (s : State), h.async = false ∧ Runs 0x0903 s ∧ ws.length = 1 ∧ onlyBits (wd ws 0) 0x301FF ∧
      fsAssigned (fld (wd ws 0) 8 0) = true ∧ fld (wd ws 0) 17 16 = 0 ∧ 8 ≤ fld (wd ws 0) 8 0) ∧
    (∃ (h : CmdHdr) (ws : List Word) (s : State), h.async = false ∧ Runs 0x0903 s ∧ ws.length = 1 ∧ onlyBits (wd ws 0) 0x301FF ∧
      fsAssigned (fld (wd ws 0) 8 0) = true ∧ fld (wd ws 0) 17 16 = 0 ∧ fld (wd ws 0) 8 0 < 8) ∧
    (∃ (h : CmdHdr) (ws : List Word) (s : State), h.async = false ∧ Runs 0x0903 s ∧ ws.length = 1 ∧ onlyBits (wd ws 0) 0x301FF ∧
      fsAssigned (fld (wd ws 0) 8 0) = true ∧ fld (wd ws 0) 17 16 = 1 ∧ 8 ≤ fld (wd ws 0) 8 0) ∧
    (∃ (h : CmdHdr) (ws : List Word) (s : State), h.async = false ∧ Runs 0x0A01 s ∧ ws.length = 1 + fld (wd ws 0) 28 16 ∧ cntRange (wd ws 0) 1015 ∧
      (∀ n ∈ cntSpan (wd ws 0), cntWordOk n (wd ws (1 + n - fld (wd ws 0) 11 0)) = true ∧ s.isStaged .cnt n = false)) ∧
    (∃ (h : CmdHdr) (ws : List Word) (s : State), h.async = false ∧ Runs 0x0A02 s ∧ ws.length = 1 + 2 * fld (wd ws 0) 28 16 ∧ cntRange (wd ws 0) 507 ∧
      (∀ n ∈ cntSpan (wd ws 0), onlyBits (wd ws (2 + 2 * (n - fld (wd ws 0) 11 0))) 0xFFFF = true ∧ s.isStaged .cnt n = false)) ∧
    (∃ (h : CmdHdr) (ws : List Word) (s : State), h.async = false ∧ Runs 0x0A03 s ∧ ws.length = 1 ∧ cntRange (wd ws 0) 500) ∧
    (∃ (h : CmdHdr) (ws : List Word) (s : State) (c : CntS), c = { dumpCfg := ws } ∧ h.async = false ∧ Runs 0x0A04 s ∧ ws.length = 5 ∧
      onlyBits (wd ws 0) 0x80FF0000 ∧ 2 ≤ c.nbuf ∧ onlyBits (wd ws 1) 0x00FFFFFF ∧ 16 ≤ c.period ∧ onlyBits (wd ws 2) 0x1FFF0FFF ∧ 1 ≤ c.count ∧
      c.count ≤ 4096 ∧ c.first + c.count ≤ 4096 ∧ fld (wd ws 3) 11 0 = 0 ∧ (s.isStaged .dumpCfg (0) = false)) ∧
    (∃ (h : CmdHdr) (ws : List Word) (s : State), h.async = false ∧ Runs 0x0A05 s ∧ ws.length = 1 + fld (wd ws 0) 16 8 ∧ onlyBits (wd ws 0) 0x8001FFFF ∧
      1 ≤ fld (wd ws 0) 16 8 ∧ fld (wd ws 0) 7 0 + fld (wd ws 0) 16 8 ≤ 256 ∧ (∀ k < fld (wd ws 0) 16 8, onlyBits (wd ws (1 + k)) 0x80000FFF = true) ∧
      (s.isStaged .uwin (0) = false)) :=
  ⟨⟨{}, [0x10008, 0], live, by decide, by decide, by decide, by decide, by decide, by decide, @of_decide_eq_true _ (List.decidableBAll _ _) rfl, by decide⟩,
   ⟨{}, [0x7d, 0x7d, 0x7d, 0x7d, 0xa], live, by decide⟩,
   ⟨{}, [8], live, by decide⟩,
   ⟨{}, [0], live, by decide⟩,
   ⟨{}, [0x10008], live, by decide⟩,
   ⟨{}, [0x10000, 0], live, by decide⟩,
   ⟨{}, [0x10000, 0, 0], live, by decide⟩,
   ⟨{}, [0x10000], live, by decide⟩,
   ⟨{}, [0x80020000, 0x10, 0x10000, 0, 0], live, _, rfl, by decide⟩,
   ⟨{}, [0x100, 0], live, by decide⟩⟩

theorem witness_PowerCommandsComplete :
    (∃ (h : CmdHdr) (ws : List Word) (s : State), h.async = false ∧ Runs 0x0B01 s ∧ ws.length = 1 ∧ onlyBits (wd ws 0) 0x13 ∧ s.pwr.changing = false ∧
      (pwrOf (fld (wd ws 0) 1 0) ≠ s.pwr.st ∨ pwrOf (fld (wd ws 0) 1 0) = .p1 ∧ fld (wd ws 0) 4 4 ≠ s.pwr.p1Line) ∧ s.pwr.st ≠ .p3 ∧
      (s.isStaged .pwrState (0) = false)) ∧
    (∃ (h : CmdHdr) (ws : List Word) (s : State), h.async = false ∧ Runs 0x0B01 s ∧ ws.length = 1 ∧ onlyBits (wd ws 0) 0x13 ∧ s.pwr.changing = false ∧
      s.pwr.st = .p3 ∧ pwrOf (fld (wd ws 0) 1 0) ≠ .p3) ∧
    (∃ (h : CmdHdr) (ws : List Word) (s : State), h.async = false ∧ Runs 0x0B01 s ∧ ws.length = 1 ∧ onlyBits (wd ws 0) 0x13 ∧ s.pwr.changing = false ∧
      pwrOf (fld (wd ws 0) 1 0) = s.pwr.st ∧ (pwrOf (fld (wd ws 0) 1 0) ≠ .p1 ∨ fld (wd ws 0) 4 4 = s.pwr.p1Line)) ∧
    (∃ (h : CmdHdr) (ws : List Word) (s : State) (g : RegS), g = { cfg := ws } ∧ h.async = false ∧ Runs 0x0B02 s ∧ ws.length = 2 ∧
      s.cmd.accepting = true ∧ onlyBits (wd ws 0) 0x3FFFFF07 ∧ g.rail < 6 ∧ (g.isAvs = true → g.rail = 0 ∧ ∀ r < 8, (s.pwr.reg.get r).isAvs = false) ∧
      (g.offP3 = true → g.rail = 2 ∨ g.rail = 3) ∧ (∀ r < 8, (s.pwr.reg.get r).cfg ≠ [0, 0x4E2] → (s.pwr.reg.get r).place ≠ g.place) ∧
      onlyBits (wd ws 1) 0xFFFF ∧ 125 ≤ g.poll) ∧
    (∃ (h : CmdHdr) (ws : List Word) (s : State), h.async = false ∧ Runs 0x0B03 s ∧ ws.length = 1 ∧ onlyBits (wd ws 0) 0xF ∧ -5 ≤ sfld (wd ws 0) 3 0 ∧
      sfld (wd ws 0) 3 0 ≤ 5 ∧ (s.isStaged .avs (0) = false)) ∧
    (∃ (h : CmdHdr) (ws : List Word) (s : State), h.async = false ∧ Runs 0x0B04 s ∧ ws.length = 2 ∧ onlyBits (wd ws 0) 0x8000FFFF ∧
      80 ≤ fld (wd ws 0) 7 0 ∧ fld (wd ws 0) 7 0 ≤ 105 ∧ 100 ≤ fld (wd ws 0) 15 8 ∧ fld (wd ws 0) 15 8 ≤ 115 ∧ onlyBits (wd ws 1) 0xFFFF ∧
      100 ≤ fld (wd ws 1) 15 0 ∧ fld (wd ws 1) 15 0 ≤ 1500 ∧ (s.isStaged .policy (0) = false)) ∧
    (∃ (h : CmdHdr) (ws : List Word) (s : State), h.async = false ∧ Runs 0x0B05 s ∧ ws.length = 1 ∧ onlyBits (wd ws 0) 0xF0F ∧
      (s.isStaged .pin (0) = false)) :=
  ⟨⟨{}, [1], live, by decide⟩,
   ⟨{}, [0], { live with pwr := { live.pwr with st := .p3 } }, by decide⟩,
   ⟨{}, [0], live, by decide⟩,
   ⟨{}, [0x10000, 0x4e2], { live with cmd := { live.cmd with accepting := true } }, _, rfl, by decide⟩,
   ⟨{}, [0], live, by decide⟩,
   ⟨{}, [0x80006e64, 0x398], live, by decide⟩,
   ⟨{}, [0], live, by decide⟩⟩

theorem witness_ConverterEventsComplete :
    (∃ (l : Fin 2) (a : Fin 4) (m : SliceMeas) (s : State), dwellOver s l a = true ∧ slicePasses m = true) ∧
    (∃ (l : Fin 2) (a : Fin 4) (m : SliceMeas) (s : State), dwellOver s l a = true ∧ slicePasses m = false ∧
      (saturated m = true ∨ 4 * ((s.cv l).adc.get a).dwellLen ≤ ((s.cv l).adc.get a).dwellTicks + 1)) ∧
    (∃ (l : Fin 2) (a : Fin 4) (m : SliceMeas) (s : State), dwellOver s l a = true ∧ slicePasses m = false ∧ saturated m = false ∧
      ((s.cv l).adc.get a).dwellTicks + 1 < 4 * ((s.cv l).adc.get a).dwellLen) ∧
    (∃ (l : Fin 2) (a : Fin 4) (p : Fin 64) (s : State), s.up = true ∧ ((s.cv l).adc.get a).on = true ∧ 16 ≤ ((s.cv l).adc.get a).devCount.get p ∧
      ((s.cv l).adc.get a).suspects.contains p.val = false) ∧
    (∃ (l : Fin 2) (a : Fin 4) (p : Nat) (ps : List Nat) (s : State), s.up = true ∧ ((s.cv l).adc.get a).on = true ∧
      ((s.cv l).adc.get a).suspects = p :: ps ∧ ((s.cv l).adc.get a).spareOk = true) ∧
    (∃ (l : Fin 2) (a : Fin 4) (s : State), s.up = true ∧ ((s.cv l).adc.get a).on = true ∧
      (2 ≤ ((s.cv l).adc.get a).retiredCount ∨ ((s.cv l).adc.get a).spareOk = false ∧ 256 ≤ ((s.cv l).adc.get a).suspectTicks)) ∧
    (∃ (l : Fin 2) (s : State), s.up = true ∧ (s.cv l).startIn = some 0 ∧ (s.cv l).optics ≠ 0 ∧ s.lineAllowed l = true) ∧
    (∃ (l : Fin 2) (meas : List (Fin 4 × Fin 65 × SliceMeas)) (s : State), calAt s l 1625 = true ∧ (s.cv l).rx = .cal) ∧
    (∃ (l : Fin 2) (bad : List (Fin 4)) (trims : List DacMeas) (s : State), calAt s l 3250 = true ∧ (s.cv l).tx = .cal ∧ bad = [] ∧ (s.ml l).role ≠ 3) ∧
    (∃ (l : Fin 2) (bad : List (Fin 4)) (trims : List DacMeas) (s : State), calAt s l 3250 = true ∧ (s.cv l).tx = .cal ∧ bad = [] ∧ (s.ml l).role = 3) ∧
    (∃ (l : Fin 2) (bad : List (Fin 4)) (trims : List DacMeas) (s : State), calAt s l 3250 = true ∧ (s.cv l).tx = .cal ∧ bad ≠ []) ∧
    (∃ (l : Fin 2) (s : State), calAt s l 6250 = true ∧ (s.cv l).tx = .cal) ∧
    (∃ (l : Fin 2) (s : State), calAt s l 6250 = true ∧ (s.cv l).rx = .cal) ∧
    (∃ (l : Fin 2) (s : State), s.up = true ∧ (s.cv l).pll = true ∧ (s.cv l).powered = true) ∧
    (∃ (l : Fin 2) (locks : Bool) (k : Nat) (s : State), s.up = true ∧ (s.cv l).relock = some k ∧ (s.cv l).pll = false ∧ (s.cv l).failDue = false ∧
      (s.cv l).calTick = none ∧ k < 3) :=
  ⟨⟨0, 0, {}, (live.onConv 0 fun c => { c with rx := .ready, tx := .ready }).onAdc 0 0 fun c => { c with on := true, rotating := true, dwellTicks := 127 }, by decide⟩,
   ⟨0, 0, { offset := 256 }, (live.onConv 0 fun c => { c with rx := .ready, tx := .ready }).onAdc 0 0 fun c => { c with on := true, rotating := true, dwellTicks := 127 }, by decide⟩,
   ⟨0, 0, { offRes := 26 }, (live.onConv 0 fun c => { c with rx := .ready, tx := .ready }).onAdc 0 0 fun c => { c with on := true, rotating := true, dwellTicks := 127 }, by decide⟩,
   ⟨0, 0, 0, (live.onConv 0 fun c => { c with rx := .ready, tx := .ready }).onAdc 0 0 fun c => { c with on := true, devCount := c.devCount.set 0 16 }, by decide⟩,
   ⟨0, 0, 0, [], (live.onConv 0 fun c => { c with rx := .ready, tx := .ready }).onAdc 0 0 fun c => { c with on := true, suspects := [0], spareOk := true }, by decide⟩,
   ⟨0, 0, (live.onConv 0 fun c => { c with rx := .ready, tx := .ready }).onAdc 0 0 fun c => { c with on := true, slices := (c.slices.set 0 { retired := true }).set 1 { retired := true } }, by decide⟩,
   ⟨0, live.onConv 0 fun c => { c with startIn := some 0, entry := [1] }, by decide⟩,
   ⟨0, {}, live.onConv 0 fun c => { c with calTick := some 1625, rx := .cal }, by decide⟩,
   ⟨0, _, {}, live.onConv 0 fun c => { c with calTick := some 3250, tx := .cal }, by decide, by decide, rfl, by decide⟩,
   ⟨0, _, {}, (live.onConv 0 fun c => { c with calTick := some 3250, tx := .cal }).onMar 0 fun c => { c with mc := [0x003C0030, 0x0064007D] }, by decide, by decide, rfl, by decide⟩,
   ⟨0, [0], {}, live.onConv 0 fun c => { c with calTick := some 3250, tx := .cal }, by decide⟩,
   ⟨0, live.onConv 0 fun c => { c with calTick := some 6250, tx := .cal }, by decide⟩,
   ⟨0, live.onConv 0 fun c => { c with calTick := some 6250, rx := .cal }, by decide⟩,
   ⟨0, live.onConv 0 fun c => { c with pll := true, powered := true }, by decide⟩,
   ⟨0, false, 2, live.onConv 0 fun c => { c with relock := some 2 }, by decide⟩⟩

theorem witness_SubcarrierEventsComplete :
    (∃ (l : Fin 2) (k : Fin 16) (s : State), s.up = true ∧ ((s.ds l).sc.get k).warming = true ∧ ((s.ds l).sc.get k).warm ≤ 1) ∧
    (∃ (l : Fin 2) (k : Fin 16) (s : State), s.up = true ∧ ((s.ds l).sc.get k).closing = true) ∧
    (∃ (l : Fin 2) (k : Fin 16) (s : State), s.up = true ∧ ((s.ds l).sc.get k).fade ≤ 1 ∧
      (((s.ds l).sc.get k).slot = .fading ∨ ((s.ds l).sc.get k).slot = .pending)) ∧
    (∃ (l : Fin 2) (k : Fin 16) (s : State), s.up = true ∧ ((s.ds l).rxd = .scAcq ∨ (s.ds l).rxd = .run) ∧ ((s.ds l).sc.get k).rx = .off) ∧
    (∃ (l : Fin 2) (k : Fin 16) (x : AcqIn) (s : State), s.up = true ∧ (s.ds l).rxd = .run ∧ ((s.ds l).sc.get k).rx = .acq ∧
      1 ≤ ((s.ds l).sc.get k).acqTicks ∧ ((s.ds l).sc.get k).acqTicks ≤ 64 ∧ x.sync = true ∧ x.ann = true ∧
      (firstBank x.bank ((s.ds l).sc.get k)).applied = true ∧ 10 * (s.ds l).lockThr ≤ x.snr) ∧
    (∃ (l : Fin 2) (k : Fin 16) (x : AcqIn) (s : State), s.up = true ∧ (s.ds l).rxd = .scAcq ∧ (s.ds l).rxdTicks ≤ 64 ∧ ((s.ds l).sc.get k).rx = .acq ∧
      1 ≤ ((s.ds l).sc.get k).acqTicks ∧ ((s.ds l).sc.get k).acqTicks ≤ 64 ∧ x.sync = true ∧ x.ann = true ∧
      (firstBank x.bank ((s.ds l).sc.get k)).applied = true ∧ 10 * (s.ds l).lockThr ≤ x.snr) ∧
    (∃ (l : Fin 2) (k : Fin 16) (s : State), s.up = true ∧ ((s.ds l).sc.get k).rx = .acq ∧ 64 ≤ ((s.ds l).sc.get k).acqTicks) ∧
    (∃ (l : Fin 2) (k : Fin 16) (s : State), s.up = true ∧ ((s.ds l).sc.get k).rx = .track ∧
      (4 ≤ ((s.ds l).sc.get k).lowTicks ∨ 16 ≤ ((s.ds l).sc.get k).annBad)) :=
  ⟨⟨0, 0, (live).onSc 0 0 fun c => { c with lit := true, codeTx := 0 }, by decide⟩,
   ⟨0, 0, (live).onSc 0 0 fun c => { c with closing := true }, by decide⟩,
   ⟨0, 0, (live).onSc 0 0 fun c => { c with slot := .pending }, by decide⟩,
   ⟨0, 0, live.onDsp 0 fun c => { c with rxd := .run }, by decide⟩,
   ⟨0, 0, { snr := 100000, bank := some [] }, (live.onDsp 0 fun c => { c with rxd := .run }).onSc 0 0 fun c => { c with rx := .acq, acqTicks := 1 }, by decide⟩,
   ⟨0, 0, { snr := 100000, bank := some [] }, (live.onDsp 0 fun c => { c with rxd := .scAcq }).onSc 0 0 fun c => { c with rx := .acq, acqTicks := 64 }, by decide⟩,
   ⟨0, 0, (live.onDsp 0 fun c => { c with rxd := .run }).onSc 0 0 fun c => { c with rx := .acq, acqTicks := 64 }, by decide⟩,
   ⟨0, 0, (live.onDsp 0 fun c => { c with rxd := .run }).onSc 0 0 fun c => { c with rx := .track, lowTicks := 4 }, by decide⟩⟩

theorem witness_LineAcquisitionEventsComplete :
    (∃ (l : Fin 2) (cd : Int) (s : State), s.up = true ∧ (s.ds l).rxd = .cdSearch ∧ inScan (s.ds l) cd = true ∧ (s.ds l).scanTicks ≤ scanLength (s.ds l)) ∧
    (∃ (l : Fin 2) (s : State), s.up = true ∧ (s.ds l).rxd = .cdSearch ∧ scanLength (s.ds l) ≤ (s.ds l).scanTicks ∧ (s.ds l).narrow = true) ∧
    (∃ (l : Fin 2) (s : State), s.up = true ∧ (s.ds l).rxd = .cdSearch ∧ scanLength (s.ds l) ≤ (s.ds l).scanTicks ∧ (s.ds l).narrow = false ∧
      (s.ds l).failedScans = 2 ∧ (s.ds l).acqFailed = false) ∧
    (∃ (l : Fin 2) (s : State), s.up = true ∧ (s.ds l).rxd = .cdSearch ∧ scanLength (s.ds l) ≤ (s.ds l).scanTicks ∧ (s.ds l).narrow = false ∧
      ((s.ds l).failedScans ≠ 2 ∨ (s.ds l).acqFailed = true)) ∧
    (∃ (l : Fin 2) (kHz : Int) (s : State), s.up = true ∧ (s.ds l).rxd = .freqAcq ∧ (s.ds l).rxdTicks ≤ 8) ∧
    (∃ (l : Fin 2) (s : State), s.up = true ∧ (s.ds l).rxd = .freqAcq ∧ 8 ≤ (s.ds l).rxdTicks) ∧
    (∃ (l : Fin 2) (s : State), s.up = true ∧ (s.ds l).rxd = .scAcq ∧ 64 ≤ (s.ds l).rxdTicks ∧ anyTrack (s.ds l) = false) ∧
    (∃ (l : Fin 2) (s : State), s.up = true ∧ (s.ds l).rxd = .run ∧ 64 ≤ (s.ds l).noTrack) ∧
    (∃ (l : Fin 2) (s : State), s.up = true ∧ (s.cv l).rxChanged = true ∧ ((s.cv l).rx = .cal ∨ (s.cv l).rx = .failed) ∧
      ((s.ds l).rxd ≠ .off ∨ (s.cv l).powered = true)) ∧
    (∃ (l : Fin 2) (s : State), s.up = true ∧ (s.cv l).rxChanged = true ∧ (s.cv l).rx = .off) ∧
    (∃ (l : Fin 2) (s : State), s.up = true ∧ 1000 ≤ (s.ds l).residTicks) ∧
    (∃ (l : Fin 2) (q : QualMeas) (s : State), s.up = true ∧ (s.ds l).winDue = true) :=
  ⟨⟨0, 0, live.onDsp 0 fun c => { c with rxd := .cdSearch }, by decide⟩,
   ⟨0, live.onDsp 0 fun c => { c with rxd := .cdSearch, narrow := true, scanTicks := 1000 }, by decide⟩,
   ⟨0, live.onDsp 0 fun c => { c with rxd := .cdSearch, failedScans := 2, scanTicks := 1000 }, by decide⟩,
   ⟨0, live.onDsp 0 fun c => { c with rxd := .cdSearch, scanTicks := 1000 }, by decide⟩,
   ⟨0, 0, live.onDsp 0 fun c => { c with rxd := .freqAcq }, by decide⟩,
   ⟨0, live.onDsp 0 fun c => { c with rxd := .freqAcq, rxdTicks := 8 }, by decide⟩,
   ⟨0, live.onDsp 0 fun c => { c with rxd := .scAcq, rxdTicks := 64 }, by decide⟩,
   ⟨0, live.onDsp 0 fun c => { c with rxd := .run, noTrack := 64 }, by decide⟩,
   ⟨0, live.onConv 0 fun c => { c with rxChanged := true, rx := .cal, powered := true }, by decide⟩,
   ⟨0, live.onConv 0 fun c => { c with rxChanged := true }, by decide⟩,
   ⟨0, live.onDsp 0 fun c => { c with residTicks := 1000 }, by decide⟩,
   ⟨0, {}, live.onDsp 0 fun c => { c with winDue := true }, by decide⟩⟩

theorem witness_LaneAndPortEventsComplete :
    (∃ (x : Fin 18) (s : State), s.up = true ∧ (s.lane x).rx = .sigWait ∧ 15 ≤ (s.lane x).ticks) ∧
    (∃ (x : Fin 18) (ctle : Fin 49) (dfe : List Int) (s : State), s.up = true ∧ (s.lane x).rx = .adapt ∧ (s.lane x).ticks ≤ 2499) ∧
    (∃ (x : Fin 18) (s : State), s.up = true ∧ (s.lane x).rx = .adapt ∧ 2499 ≤ (s.lane x).ticks ∧ (s.lane x).due = none) ∧
    (∃ (x : Fin 18) (s : State), s.up = true ∧ ((s.lane x).rx = .adapt ∨ (s.lane x).rx = .ready)) ∧
    (∃ (x : Fin 18) (s : State), s.up = true ∧ ((s.lane x).rx = .los ∨ (s.lane x).rx = .failed ∧ 124 ≤ (s.lane x).ticks)) ∧
    (∃ (x : Fin 16) (s : State), s.up = true ∧ (s.lane x).raw = true ∧ (fld (s.lane x).rawCfg 6 4 = 1 ∨ fld (s.lane x).rawCfg 6 4 = 2) ∧
      (s.lane x).rx = .ready ∧ (s.lane x).lock = false) ∧
    (∃ (p : Fin 8) (s : State), s.up = true ∧ (s.port p).st = .align ∧ (s.port p).aligned = true ∧ 3 ≤ (s.port p).ticks ∧ lanesReady s p = true) ∧
    (∃ (p : Fin 8) (s : State), s.up = true) ∧
    (∃ (p : Fin 8) (remote : Bool) (s : State), s.up = true ∧ (s.port p).st = .up) ∧
    (∃ (p : Fin 8) (remote : Bool) (s : State), s.up = true ∧ (s.port p).st = .fault) ∧
    (∃ (p : Fin 8) (s : State), s.up = true ∧ (s.port p).st = .fault ∧ 3 ≤ (s.port p).ticks ∧ (s.port p).faultTick = false) ∧
    (∃ (p : Fin 8) (s : State), s.up = true ∧ (s.port p).enabled = true ∧ flag (wd (s.port p).cfg 0) 30 = true ∧ 5 ≤ (s.port p).noLine) :=
  ⟨⟨0, live.onLane 0 fun c => { c with rx := .sigWait, ticks := 16 }, by decide⟩,
   ⟨0, 0, {}, live.onLane 0 fun c => { c with rx := .adapt }, by decide⟩,
   ⟨0, live.onLane 0 fun c => { c with rx := .adapt, ticks := 2500 }, by decide⟩,
   ⟨0, live.onLane 0 fun c => { c with rx := .ready }, by decide⟩,
   ⟨0, live.onLane 0 fun c => { c with rx := .los, ticks := 1 }, by decide⟩,
   ⟨0, live.onLane 0 fun c => { c with raw := true, rawCfg := 0x10, rx := .ready }, by decide⟩,
   ⟨0, (live).onPort 0 fun c => { c with st := .align, ticks := 3, aligned := true }, by decide⟩,
   ⟨0, (live).onPort 0 fun c => { c with st := .up }, by decide⟩,
   ⟨0, false, (live).onPort 0 fun c => { c with st := .up }, by decide⟩,
   ⟨0, false, (live).onPort 0 fun c => { c with st := .fault }, by decide⟩,
   ⟨0, (live).onPort 0 fun c => { c with st := .fault, ticks := 4 }, by decide⟩,
   ⟨0, (live).onPort 0 fun c => { c with cfg := [0xC0000000, 0, 0x2600, 0, 0], noLine := 5 }, by decide⟩⟩

theorem witness_ClientFrameEventsComplete :
    (∃ (p : Fin 8) (f : EthFrame) (sub : Nat) (cwErrs : List Nat) (rmOvf : Bool) (s : State), s.up = true ∧ (s.port p).enabled = true ∧ rmOvf = true) ∧
    (∃ (p : Fin 8) (f : EthFrame) (sub : Nat) (cwErrs : List Nat) (rmOvf : Bool) (s : State), s.up = true ∧ (s.port p).enabled = true ∧ rmOvf = false ∧
      (fecFails cwErrs = true ∨ f.fcsOk = false)) ∧
    (∃ (p : Fin 8) (f : EthFrame) (sub : Nat) (cwErrs : List Nat) (rmOvf : Bool) (s : State), s.up = true ∧ (s.port p).enabled = true ∧ rmOvf = false ∧
      fecFails cwErrs = false ∧ f.fcsOk = true ∧ f.data.length < 60) ∧
    (∃ (p : Fin 8) (f : EthFrame) (sub : Nat) (cwErrs : List Nat) (rmOvf : Bool) (s : State), s.up = true ∧ (s.port p).enabled = true ∧ rmOvf = false ∧
      fecFails cwErrs = false ∧ f.fcsOk = true ∧ 60 ≤ f.data.length ∧ fld (wd (s.port p).cfg 2) 13 0 < f.data.length + 4) ∧
    (∃ (p : Fin 8) (f : EthFrame) (sub : Nat) (cwErrs : List Nat) (rmOvf : Bool) (s : State), s.up = true ∧ (s.port p).enabled = true ∧
      fecFails cwErrs = false ∧ rmOvf = false ∧ f.fcsOk = true ∧ 60 ≤ f.data.length ∧ f.data.length + 4 ≤ fld (wd (s.port p).cfg 2) 13 0 ∧
      (s.port p).st ≠ .up) ∧
    (∃ (p : Fin 8) (f : EthFrame) (sub : Nat) (cwErrs : List Nat) (rmOvf : Bool) (s : State), s.up = true ∧ (s.port p).enabled = true ∧
      fecFails cwErrs = false ∧ rmOvf = false ∧ f.fcsOk = true ∧ 60 ≤ f.data.length ∧ f.data.length + 4 ≤ fld (wd (s.port p).cfg 2) 13 0 ∧
      (s.port p).st = .up ∧ etherType f.data = 0x8808) ∧
    (∃ (p : Fin 8) (f : EthFrame) (sub : Nat) (cwErrs : List Nat) (rmOvf : Bool) (s : State), s.up = true ∧ (s.port p).enabled = true ∧
      fecFails cwErrs = false ∧ rmOvf = false ∧ f.fcsOk = true ∧ 60 ≤ f.data.length ∧ f.data.length + 4 ≤ fld (wd (s.port p).cfg 2) 13 0 ∧
      (s.port p).st = .up ∧ etherType f.data ≠ 0x8808) ∧
    (∃ (p : Fin 8) (en : BitVec 8) (quanta : List (BitVec 16)) (s : State), s.up = true ∧ (s.port p).st = .up) ∧
    (∃ (p : Fin 8) (q : Fin 8) (s : State), s.up = true ∧ (s.port p).paused.getLsbD q = true ∧ (s.port p).pause.get q ≤ bitsPerTick (s.port p).mode) ∧
    (∃ (p : Fin 8) (c : Fin 8) (s : State), s.up = true ∧ (s.port p).st = .up ∧ (s.port p).xoff.getLsbD ((s.port p).pri c) = true ∧
      (s.port p).refreshTicks ≤ (s.port p).refresh.get ((s.port p).pri c)) ∧
    (∃ (p : Fin 8) (sub : Nat) (f : EgrFrame) (s : State), s.up = true ∧ (s.port p).sends = true ∧ nextEgress (s.port p) = some f ∧
      (s.port p).ptpMode = 0 ∧ (s.port p).tcEn = false) ∧
    (∃ (f : Fin 8192) (s : State), s.up = true ∧ (s.cl.stream.get f).open_ ≠ [] ∧ flowFlush (s.flowE f) ≤ (s.cl.stream.get f).age + 1) :=
  ⟨⟨0, {}, 0, {}, true, (live).onPort 0 fun c => { c with cfg := [0x80000000, 0, 0x2600, 0, 0] }, by decide⟩,
   ⟨0, {}, 0, [16], _, (live).onPort 0 fun c => { c with cfg := [0x80000000, 0, 0x2600, 0, 0] }, by decide, by decide, rfl, by decide⟩,
   ⟨0, { data := [], fcs := fcs32 ([]) }, 0, {}, _, (live).onPort 0 fun c => { c with cfg := [0x80000000, 0, 0x2600, 0, 0] }, by decide, by decide, rfl, by decide⟩,
   ⟨0, { data := List.replicate 61 0, fcs := fcs32 (List.replicate 61 0) }, 0, {}, _, (live).onPort 0 fun c => { c with cfg := [0x80000000, 0, 0x40, 0, 0] }, by decide +kernel, by decide +kernel, rfl, by decide +kernel⟩,
   ⟨0, { data := List.replicate 60 0, fcs := fcs32 (List.replicate 60 0) }, 0, {}, _, (live).onPort 0 fun c => { c with cfg := [0x80000000, 0, 0x2600, 0, 0] }, by decide +kernel, by decide +kernel, by decide +kernel, rfl, by decide +kernel⟩,
   ⟨0, { data := List.replicate 12 0 ++ [0x88, 0x08] ++ List.replicate 46 0, fcs := fcs32 (List.replicate 12 0 ++ [0x88, 0x08] ++ List.replicate 46 0) }, 0, {}, _, (live).onPort 0 fun c => { c with cfg := [0x80000000, 0, 0x2600, 0, 0], st := .up }, by decide +kernel, by decide +kernel, by decide +kernel, rfl, by decide +kernel⟩,
   ⟨0, { data := List.replicate 60 0, fcs := fcs32 (List.replicate 60 0) }, 0, {}, _, (live).onPort 0 fun c => { c with cfg := [0x80000000, 0, 0x2600, 0, 0], st := .up }, by decide +kernel, by decide +kernel, by decide +kernel, rfl, by decide +kernel⟩,
   ⟨0, 0, {}, (live).onPort 0 fun c => { c with st := .up }, by decide⟩,
   ⟨0, 0, (live).onPort 0 fun c => { c with paused := 1 }, by decide⟩,
   ⟨0, 0, live.onPort 0 fun c => { c with st := .up, xoff := 0x1, refresh := c.refresh.set 0 2 }, by decide⟩,
   ⟨0, 0, {}, (live).onPort 0 fun c => { c with st := .up, egr := [{}] }, by decide⟩,
   ⟨0, live.onFlow 0 fun c => { c with open_ := [0] }, by decide⟩⟩

theorem witness_NutmegFramesComplete :
    (∃ (x : NutRun) (f : NutFrame) (s : State), mayRun s.nut.txQ x.idx = some f ∧ s.up = true ∧ s.nut.txD = .failed) ∧
    (∃ (x : NutRun) (f : NutFrame) (s : State), mayRun s.nut.txQ x.idx = some f ∧ s.up = true ∧ s.nut.txD ≠ .failed ∧ overloaded s false x f = true) ∧
    (∃ (x : NutRun) (f : NutFrame) (s : State), mayRun s.nut.txQ x.idx = some f ∧ s.up = true ∧ s.nut.txD ≠ .failed ∧ overloaded s false x f = false ∧
      saMode (s.sa f.flow).cfg = 0) ∧
    (∃ (x : NutRun) (f : NutFrame) (s : State), mayRun s.nut.txQ x.idx = some f ∧ s.up = true ∧ s.nut.txD ≠ .failed ∧ overloaded s false x f = false ∧
      saMode (s.sa f.flow).cfg = 1) ∧
    (∃ (x : NutRun) (f : NutFrame) (s : State), mayRun s.nut.txQ x.idx = some f ∧ s.up = true ∧ s.nut.txD ≠ .failed ∧ overloaded s false x f = false ∧
      2 ≤ saMode (s.sa f.flow).cfg ∧ (s.sa f.flow).exhausted = true) ∧
    (∃ (x : NutRun) (f : NutFrame) (s : State), mayRun s.nut.txQ x.idx = some f ∧ s.up = true ∧ s.nut.txD ≠ .failed ∧ overloaded s false x f = false ∧
      2 ≤ saMode (s.sa f.flow).cfg ∧ (s.sa f.flow).exhausted = false ∧ ((readHalf f.flow 0 (takeFrame false x f s)).sa f.flow).txCur.valid = false) ∧
    (∃ (x : NutRun) (f : NutFrame) (s : State), mayRun s.nut.txQ x.idx = some f ∧ s.up = true ∧ s.nut.txD ≠ .failed ∧ overloaded s false x f = false ∧
      2 ≤ saMode (s.sa f.flow).cfg ∧ (s.sa f.flow).exhausted = false ∧ ((readHalf f.flow 0 (takeFrame false x f s)).sa f.flow).txCur.valid = true ∧
      x.mismatch = true) ∧
    (∃ (x : NutRun) (f : NutFrame) (s : State), mayRun s.nut.txQ x.idx = some f ∧ s.up = true ∧ s.nut.txD ≠ .failed ∧ overloaded s false x f = false ∧
      2 ≤ saMode (s.sa f.flow).cfg ∧ (s.sa f.flow).exhausted = false ∧ ((readHalf f.flow 0 (takeFrame false x f s)).sa f.flow).txCur.valid = true ∧
      x.mismatch = false) ∧
    (∃ (x : NutRun) (f : NutFrame) (s : State), mayRun s.nut.rxQ x.idx = some f ∧ s.up = true ∧ s.nut.rxD = .failed) ∧
    (∃ (x : NutRun) (f : NutFrame) (s : State), mayRun s.nut.rxQ x.idx = some f ∧ s.up = true ∧ s.nut.rxD ≠ .failed ∧ overloaded s true x f = true) ∧
    (∃ (x : NutRun) (f : NutFrame) (s : State), mayRun s.nut.rxQ x.idx = some f ∧ s.up = true ∧ s.nut.rxD ≠ .failed ∧ overloaded s true x f = false ∧
      (f.data.length < 4 ∨ beAt f.data 0 4 / 2 ^ 28 ≠ 1 ∨ beAt f.data 0 4 % 8192 ≠ f.flow)) ∧
    (∃ (x : NutRun) (f : NutFrame) (s : State), mayRun s.nut.rxQ x.idx = some f ∧ s.up = true ∧ s.nut.rxD ≠ .failed ∧ overloaded s true x f = false ∧
      4 ≤ f.data.length ∧ beAt f.data 0 4 / 2 ^ 28 = 1 ∧ beAt f.data 0 4 % 8192 = f.flow ∧
      (beAt f.data 0 4 / 2 ^ 26 % 4 ≠ saMode (s.sa f.flow).cfg ∨ saMode (s.sa f.flow).cfg = 0)) ∧
    (∃ (x : NutRun) (f : NutFrame) (s : State), mayRun s.nut.rxQ x.idx = some f ∧ s.up = true ∧ s.nut.rxD ≠ .failed ∧ overloaded s true x f = false ∧
      4 ≤ f.data.length ∧ beAt f.data 0 4 / 2 ^ 28 = 1 ∧ beAt f.data 0 4 % 8192 = f.flow ∧ beAt f.data 0 4 / 2 ^ 26 % 4 = saMode (s.sa f.flow).cfg ∧
      saMode (s.sa f.flow).cfg = 1) ∧
    (∃ (x : NutRun) (f : NutFrame) (s : State), mayRun s.nut.rxQ x.idx = some f ∧ s.up = true ∧ s.nut.rxD ≠ .failed ∧ overloaded s true x f = false ∧
      4 ≤ f.data.length ∧ beAt f.data 0 4 / 2 ^ 28 = 1 ∧ beAt f.data 0 4 % 8192 = f.flow ∧ beAt f.data 0 4 / 2 ^ 26 % 4 = saMode (s.sa f.flow).cfg ∧
      2 ≤ saMode (s.sa f.flow).cfg ∧
      (rxHalf ((readHalf f.flow (if f.slot && !(s.sa f.flow).alias_ then 3 else 2) (takeFrame true x f s)).sa f.flow) f.slot).1.valid = false) ∧
    (∃ (x : NutRun) (f : NutFrame) (s : State), mayRun s.nut.rxQ x.idx = some f ∧ s.up = true ∧ s.nut.rxD ≠ .failed ∧ overloaded s true x f = false ∧
      4 ≤ f.data.length ∧ beAt f.data 0 4 / 2 ^ 28 = 1 ∧ beAt f.data 0 4 % 8192 = f.flow ∧ beAt f.data 0 4 / 2 ^ 26 % 4 = saMode (s.sa f.flow).cfg ∧
      2 ≤ saMode (s.sa f.flow).cfg ∧
      (rxHalf ((readHalf f.flow (if f.slot && !(s.sa f.flow).alias_ then 3 else 2) (takeFrame true x f s)).sa f.flow) f.slot).1.valid = true ∧
      pnFresh (saWin ((readHalf f.flow (if f.slot && !(s.sa f.flow).alias_ then 3 else 2) (takeFrame true x f s)).sa f.flow).cfg) (rxHalf ((readHalf f.flow (if f.slot && !(s.sa f.flow).alias_ then 3 else 2) (takeFrame true x f s)).sa f.flow) f.slot).1 (beAt f.data 4 8) = false) ∧
    (∃ (x : NutRun) (f : NutFrame) (s : State), mayRun s.nut.rxQ x.idx = some f ∧ s.up = true ∧ s.nut.rxD ≠ .failed ∧ overloaded s true x f = false ∧
      4 ≤ f.data.length ∧ beAt f.data 0 4 / 2 ^ 28 = 1 ∧ beAt f.data 0 4 % 8192 = f.flow ∧ beAt f.data 0 4 / 2 ^ 26 % 4 = saMode (s.sa f.flow).cfg ∧
      2 ≤ saMode (s.sa f.flow).cfg ∧
      (rxHalf ((readHalf f.flow (if f.slot && !(s.sa f.flow).alias_ then 3 else 2) (takeFrame true x f s)).sa f.flow) f.slot).1.valid = true ∧
      pnFresh (saWin ((readHalf f.flow (if f.slot && !(s.sa f.flow).alias_ then 3 else 2) (takeFrame true x f s)).sa f.flow).cfg) (rxHalf ((readHalf f.flow (if f.slot && !(s.sa f.flow).alias_ then 3 else 2) (takeFrame true x f s)).sa f.flow) f.slot).1 (beAt f.data 4 8) = true ∧
      x.mismatch = true) ∧
    (∃ (x : NutRun) (f : NutFrame) (s : State), mayRun s.nut.rxQ x.idx = some f ∧ s.up = true ∧ s.nut.rxD ≠ .failed ∧ overloaded s true x f = false ∧
      4 ≤ f.data.length ∧ beAt f.data 0 4 / 2 ^ 28 = 1 ∧ beAt f.data 0 4 % 8192 = f.flow ∧ beAt f.data 0 4 / 2 ^ 26 % 4 = saMode (s.sa f.flow).cfg ∧
      2 ≤ saMode (s.sa f.flow).cfg ∧
      (rxHalf ((readHalf f.flow (if f.slot && !(s.sa f.flow).alias_ then 3 else 2) (takeFrame true x f s)).sa f.flow) f.slot).1.valid = true ∧
      pnFresh (saWin ((readHalf f.flow (if f.slot && !(s.sa f.flow).alias_ then 3 else 2) (takeFrame true x f s)).sa f.flow).cfg) (rxHalf ((readHalf f.flow (if f.slot && !(s.sa f.flow).alias_ then 3 else 2) (takeFrame true x f s)).sa f.flow) f.slot).1 (beAt f.data 4 8) = true ∧
      x.mismatch = false ∧
      (f.data.length < 28 ∨ tagOk (saMode (s.sa f.flow).cfg) (rxHalf ((readHalf f.flow (if f.slot && !(s.sa f.flow).alias_ then 3 else 2) (takeFrame true x f s)).sa f.flow) f.slot).1 (beAt f.data 4 8) f.data = false)) ∧
    (∃ (x : NutRun) (f : NutFrame) (s : State), mayRun s.nut.rxQ x.idx = some f ∧ s.up = true ∧ s.nut.rxD ≠ .failed ∧ overloaded s true x f = false ∧
      4 ≤ f.data.length ∧ beAt f.data 0 4 / 2 ^ 28 = 1 ∧ beAt f.data 0 4 % 8192 = f.flow ∧ beAt f.data 0 4 / 2 ^ 26 % 4 = saMode (s.sa f.flow).cfg ∧
      2 ≤ saMode (s.sa f.flow).cfg ∧
      (rxHalf ((readHalf f.flow (if f.slot && !(s.sa f.flow).alias_ then 3 else 2) (takeFrame true x f s)).sa f.flow) f.slot).1.valid = true ∧
      pnFresh (saWin ((readHalf f.flow (if f.slot && !(s.sa f.flow).alias_ then 3 else 2) (takeFrame true x f s)).sa f.flow).cfg) (rxHalf ((readHalf f.flow (if f.slot && !(s.sa f.flow).alias_ then 3 else 2) (takeFrame true x f s)).sa f.flow) f.slot).1 (beAt f.data 4 8) = true ∧
      x.mismatch = false ∧ 28 ≤ f.data.length ∧
      tagOk (saMode (s.sa f.flow).cfg) (rxHalf ((readHalf f.flow (if f.slot && !(s.sa f.flow).alias_ then 3 else 2) (takeFrame true x f s)).sa f.flow) f.slot).1 (beAt f.data 4 8) f.data = true) :=
  ⟨⟨{}, { flow := 0, data := [] }, { live with nut := { live.nut with txQ := [{ flow := 0, data := [] }], txD := .failed } }, by decide⟩,
   ⟨{ overload := true }, { flow := 0, data := [] }, { live with nut := { live.nut with txQ := [{ flow := 0, data := [] }], txD := .degraded, fenceTx := 0xF } }, by decide⟩,
   ⟨{}, { flow := 0, data := [] }, ({ live with nut := { live.nut with txQ := [{ flow := 0, data := [] }], txD := .run } }).onSa 0 fun c => { c with cfg := 0 }, by decide⟩,
   ⟨{}, { flow := 0, data := [] }, ({ live with nut := { live.nut with txQ := [{ flow := 0, data := [] }], txD := .run } }).onSa 0 fun c => { c with cfg := 1 }, by decide⟩,
   ⟨{}, { flow := 0, data := [] }, ({ live with nut := { live.nut with txQ := [{ flow := 0, data := [] }], txD := .run } }).onSa 0 fun c => { c with cfg := 2, exhausted := true }, by decide⟩,
   ⟨{}, { flow := 0, data := [] }, ({ live with nut := { live.nut with txQ := [{ flow := 0, data := [] }], txD := .run } }).onSa 0 fun c => { c with cfg := 2 }, by decide⟩,
   ⟨{ mismatch := true }, { flow := 0, data := [] }, ({ live with nut := { live.nut with txQ := [{ flow := 0, data := [] }], txD := .run } }).onSa 0 fun c => { c with cfg := 2, txCur := { valid := true } }, by decide⟩,
   ⟨{}, { flow := 0, data := [] }, ({ live with nut := { live.nut with txQ := [{ flow := 0, data := [] }], txD := .run } }).onSa 0 fun c => { c with cfg := 2, txCur := { valid := true } }, by decide⟩,
   ⟨{}, { flow := 0, data := [] }, { live with nut := { live.nut with rxQ := [{ flow := 0, data := [] }], rxD := .failed } }, by decide⟩,
   ⟨{ overload := true }, { flow := 0, data := [] }, { live with nut := { live.nut with rxQ := [{ flow := 0, data := [] }], rxD := .degraded, fenceRx := 0xF } }, by decide⟩,
   ⟨{}, { flow := 0, data := [] }, { live with nut := { live.nut with rxQ := [{ flow := 0, data := [] }], rxD := .run } }, by decide⟩,
   ⟨{}, { flow := 0, data := [0x14, 0, 0, 0] }, { live with nut := { live.nut with rxQ := [{ flow := 0, data := [0x14, 0, 0, 0] }], rxD := .run } }, by decide⟩,
   ⟨{}, { flow := 0, data := [0x14, 0, 0, 0] }, ({ live with nut := { live.nut with rxQ := [{ flow := 0, data := [0x14, 0, 0, 0] }], rxD := .run } }).onSa 0 fun c => { c with cfg := 1 }, by decide⟩,
   ⟨{}, { flow := 0, data := [0x18, 0, 0, 0] }, ({ live with nut := { live.nut with rxQ := [{ flow := 0, data := [0x18, 0, 0, 0] }], rxD := .run } }).onSa 0 fun c => { c with cfg := 2 }, by decide⟩,
   ⟨{}, { flow := 0, data := [0x18, 0, 0, 0, 0, 0, 0, 0, 0, 0, 0, 0] }, ({ live with nut := { live.nut with rxQ := [{ flow := 0, data := [0x18, 0, 0, 0, 0, 0, 0, 0, 0, 0, 0, 0] }], rxD := .run } }).onSa 0 fun c => { c with cfg := 2, rxCur := { valid := true } }, by decide⟩,
   ⟨{ mismatch := true }, { flow := 0, data := [0x18, 0, 0, 0, 0, 0, 0, 0, 0, 0, 0, 1] }, ({ live with nut := { live.nut with rxQ := [{ flow := 0, data := [0x18, 0, 0, 0, 0, 0, 0, 0, 0, 0, 0, 1] }], rxD := .run } }).onSa 0 fun c => { c with cfg := 2, rxCur := { valid := true } }, by decide⟩,
   ⟨{}, { flow := 0, data := [0x18, 0, 0, 0, 0, 0, 0, 0, 0, 0, 0, 1] }, ({ live with nut := { live.nut with rxQ := [{ flow := 0, data := [0x18, 0, 0, 0, 0, 0, 0, 0, 0, 0, 0, 1] }], rxD := .run } }).onSa 0 fun c => { c with cfg := 2, rxCur := { valid := true } }, by decide⟩,
   ⟨{}, { flow := 0, data := [0x18, 0, 0, 0, 0, 0, 0, 0, 0, 0, 0, 1] ++ beBytes 16 (gcmTag 0 (gcmIv { valid := true } 1) [0x18, 0, 0, 0, 0, 0, 0, 0, 0, 0, 0, 1] []) }, ({ live with nut := { live.nut with rxQ := [{ flow := 0, data := [0x18, 0, 0, 0, 0, 0, 0, 0, 0, 0, 0, 1] ++ beBytes 16 (gcmTag 0 (gcmIv { valid := true } 1) [0x18, 0, 0, 0, 0, 0, 0, 0, 0, 0, 0, 1] []) }], rxD := .run } }).onSa 0 fun c => { c with cfg := 2, rxCur := { valid := true } }, by decide +kernel⟩⟩

theorem witness_NutmegEventsComplete :
    (∃ (rx : Bool) (red : Bool) (n : Fin 16) (s : State), s.up = true ∧ s.nut.fenceDue.contains (pipeNo rx red n) = true) ∧
    (∃ (rx : Bool) (jobs : List LaneJob) (j : LaneJob) (s : State), s.up = true ∧ ((if rx then s.nut.rxQ else s.nut.txQ).any fun f => f.cls == 7) = true ∧
      lanesIn s.nut rx ≤ jobs.length ∧ victim s rx jobs = some j) ∧
    (∃ (n : Fin 8192) (s : State), s.up = true ∧ (s.sa n).markLeft = 1) ∧
    (∃ (s : State), s.up = true ∧ s.nut.wrMask ≠ 0 ∧ 125 ≤ s.nut.stageTicks) ∧
    (∃ (badTx : BitVec 32) (badRx : BitVec 32) (s : State), s.up = true ∧ s.nut.txD = .selftest ∧ 8 ≤ s.tick.count ∧ badTx = 0 ∧ badRx = 0) ∧
    (∃ (badTx : BitVec 32) (badRx : BitVec 32) (s : State), s.up = true ∧ s.nut.txD = .selftest ∧ 8 ≤ s.tick.count ∧ (badTx ≠ 0 ∨ badRx ≠ 0)) ∧
    (∃ (s : State), s.up = true ∧ s.nut.zeroising ≠ none) :=
  ⟨⟨false, false, 0, { live with nut := { live.nut with fenceDue := [0] } }, by decide⟩,
   ⟨false, (List.range 16).map fun i => { lane := Fin.ofNat 16 i, cls := 0, left := i + 1 }, { lane := 15, cls := 0, left := 16 }, { live with nut := { live.nut with txQ := [{ cls := 7 }] } }, by decide⟩,
   ⟨0, live.onSa 0 fun c => { c with markLeft := 1 }, by decide⟩,
   ⟨{ live with nut := { live.nut with wrMask := 1, stageTicks := 125 } }, by decide⟩,
   ⟨_, _, { live with tick := { live.tick with count := 8 } }, by decide, by decide, by decide, rfl, rfl⟩,
   ⟨1, 0, { live with tick := { live.tick with count := 8 } }, by decide⟩,
   ⟨{ live with nut := { live.nut with zeroising := some 0 } }, by decide⟩⟩

theorem witness_SettEventsComplete :
    (∃ (s : State), s.up = true ∧ s.sett.st = .train ∧ s.sett.ticks ≤ 2500) ∧
    (∃ (untrained : BitVec 4) (s : State), s.up = true ∧ s.sett.st = .train ∧ 2500 ≤ s.sett.ticks ∧ untrained ≠ 0) ∧
    (∃ (s : State), s.up = true ∧ s.sett.st = .clear) ∧
    (∃ (st : Fin 4) (s : State), s.up = true ∧ s.sett.st = .ready) ∧
    (∃ (st : Fin 4) (temp : BitVec 8) (s : State), s.up = true ∧ s.sett.st ≠ .off ∧ temp.toInt < 95) ∧
    (∃ (st : Fin 4) (temp : BitVec 8) (s : State), s.up = true ∧ s.sett.st ≠ .off ∧ 95 ≤ temp.toInt ∧ temp.toInt < 105) ∧
    (∃ (st : Fin 4) (temp : BitVec 8) (s : State), s.up = true ∧ s.sett.st ≠ .off ∧ s.sett.st ≠ .failed ∧ 105 ≤ temp.toInt) ∧
    (∃ (c : Copy) (cs : List Copy) (s : State), s.sett.inQ = c :: cs ∧ s.up = true ∧ isDirect s c.cell.flow = true) ∧
    (∃ (c : Copy) (cs : List Copy) (s : State), s.sett.inQ = c :: cs ∧ s.up = true ∧ isDirect s c.cell.flow = false ∧ delayValid s c.line = false) ∧
    (∃ (c : Copy) (cs : List Copy) (s : State), s.sett.inQ = c :: cs ∧ s.up = true ∧ isDirect s c.cell.flow = false ∧ delayValid s c.line = true) ∧
    (∃ (x : ElCell) (xs : List ElCell) (s : State), s.sett.elQ = x :: xs ∧ s.up = true ∧ s.sett.st ≠ .ready) ∧
    (∃ (x : ElCell) (xs : List ElCell) (s : State), s.sett.elQ = x :: xs ∧ s.up = true ∧ s.sett.st = .ready ∧ admits s x.rx x.cls = true) ∧
    (∃ (x : ElCell) (xs : List ElCell) (s : State), s.sett.elQ = x :: xs ∧ s.up = true ∧ s.sett.st = .ready ∧ admits s x.rx x.cls = false) ∧
    (∃ (fs : Fin 512) (s : State), s.up = true ∧ s.sett.cap = .armed ∧ capTrig s = 1 ∧ fld (wd s.sett.capCfg 1) 24 16 = fs.val ∧
      s.flt.pend.getLsbD fs = true) ∧
    (∃ (fs : Fin 512) (s : State), s.up = true ∧ s.sett.cap = .armed ∧ capTrig s = 2 ∧ ofLohi (wd s.sett.capCfg 2) (wd s.sett.capCfg 3) = s.tick.num) ∧
    (∃ (s : State), s.up = true ∧ s.sett.cap = .triggered ∧ s.sett.capLeft = 0) :=
  ⟨⟨{ live with sett := { live.sett with st := .train } }, by decide⟩,
   ⟨1, { live with sett := { live.sett with st := .train, ticks := 2500 } }, by decide⟩,
   ⟨{ live with sett := { live.sett with st := .clear } }, by decide⟩,
   ⟨0, live, by decide⟩,
   ⟨0, 0, live, by decide⟩,
   ⟨0, 95, live, by decide⟩,
   ⟨0, 105, live, by decide⟩,
   ⟨{}, [], { live with sett := { live.sett with inQ := [{}] } }, by decide⟩,
   ⟨{}, [], (({ live with sett := { live.sett with inQ := [{}], dlyValid := live.sett.dlyValid.set 1 true } }).onFrm 1 fun c => { c with fr := .inFrame }).onMg 0 fun c => { c with ringU := 1 }, by decide⟩,
   ⟨{}, [], (({ live with sett := { live.sett with inQ := [{}], dlyValid := live.sett.dlyValid.set 0 true } }).onFrm 0 fun c => { c with fr := .inFrame }).onMg 0 fun c => { c with ringU := 1 }, by decide⟩,
   ⟨{}, [], { live with sett := { live.sett with st := .failed, elQ := [{}] } }, by decide⟩,
   ⟨{}, [], { live with sett := { live.sett with elQ := [{}] } }, by decide⟩,
   ⟨{}, [], { live with sett := { live.sett with elQ := [{}], clsTx := live.sett.clsTx.set 0 [0, 0, 0, 0], region := [0, 0] } }, by decide⟩,
   ⟨0, { { live with sett := { live.sett with cap := .armed, capCfg := [0, 1, 0, 0, 0] } } with flt := { live.flt with pend := 1 } }, by decide +kernel⟩,
   ⟨0, { live with sett := { live.sett with cap := .armed, capCfg := [0, 2, 0, 0, 0] } }, by decide⟩,
   ⟨{ live with sett := { live.sett with cap := .triggered } }, by decide⟩⟩

theorem witness_StoredDataEventsComplete :
    (∃ (target : Fin 20) (w : WbS) (ws : List WbS) (s : State), s.up = true ∧ target.val < 16 ∧ (s.tgt target.val).wb = w :: ws) ∧
    (∃ (target : Fin 20) (w : WbS) (s : State), s.up = true ∧ 16 ≤ target.val ∧ s.sett.st = .ready ∧
      ((s.tgt target.val).wb.find? fun w => w.held && decide (s.ecc.used.get w.pc < eccCycles)) = some w) ∧
    (∃ (target : Fin 20) (addr : Nat) (up : List Upset) (s : State), s.up = true ∧ target.val < 8 ∧ (s.tgt target.val).pos ≤ addr ∧
      addr + 1 < sramWords target.val ∧
      s.ecc.scrubbed.get (64 + target.val) + (addr + 1 - (s.tgt target.val).pos) ≤ s.ecc.sramTicks * sramPace target.val) ∧
    (∃ (target : Fin 20) (addr : Nat) (up : List Upset) (s : State), s.up = true ∧ target.val < 8 ∧ (s.tgt target.val).pos ≤ addr ∧
      addr + 1 = sramWords target.val ∧
      s.ecc.scrubbed.get (64 + target.val) + (addr + 1 - (s.tgt target.val).pos) ≤ s.ecc.sramTicks * sramPace target.val) ∧
    (∃ (target : Fin 20) (addr : Nat) (up : List Upset) (s : State), s.up = true ∧ 16 ≤ target.val ∧ scrubRuns s = true ∧ (s.tgt target.val).pos ≤ addr ∧
      addr ≤ scrubEnd ∧ (granules ≤ addr ∨ granuleTarget addr = target.val) ∧ scrubFits s target.val (s.tgt target.val).pos addr = true) ∧
    (∃ (target : Fin 20) (s : State), s.up = true ∧ targets.contains target.val = true) ∧
    (∃ (target : Fin 20) (n : Nat) (r : SpareS) (s : State), s.up = true ∧ target.val < 16 ∧ (s.tgt target.val).copying = some n ∧
      (s.tgt target.val).spares.getLast? = some r ∧ (s.tgt target.val).copyDone = false) ∧
    (∃ (target : Fin 20) (n : Nat) (r : SpareS) (s : State), s.up = true ∧ 16 ≤ target.val ∧ s.sett.st = .ready ∧ (s.tgt target.val).copying = some n ∧
      1 ≤ n ∧ (s.tgt target.val).spares.getLast? = some r ∧ (s.tgt target.val).copyDone = false) :=
  ⟨⟨0, {}, [], live.onTgt 0 fun c => { c with wb := [{}] }, by decide⟩,
   ⟨16, { held := true }, live.onTgt 16 fun c => { c with wb := [{ held := true }] }, by decide⟩,
   ⟨0, 0, {}, { live with ecc := { live.ecc with sramTicks := 1 } }, by decide⟩,
   ⟨0, 147455, {}, { (live.onTgt 0 fun c => { c with pos := 147455 }) with ecc := { (live.onTgt 0 fun c => { c with pos := 147455 }).ecc with sramTicks := 1 } }, by decide⟩,
   ⟨16, 0, {}, { live with ecc := { live.ecc with started := true, enable := true, quota := 1 } }, by decide⟩,
   ⟨0, live, by decide⟩,
   ⟨0, 0, {}, live.onTgt 0 fun c => { c with copying := some 0, spares := [{}] }, by decide⟩,
   ⟨16, 1, {}, live.onTgt 16 fun c => { c with copying := some 1, spares := [{}] }, by decide⟩⟩

theorem witness_TimingEventsComplete :
    (∃ (k : Fin 4) (sub : Nat) (s : State), s.up = true ∧ (s.ref k).pps = true ∧ (s.ref k).expect = none) ∧
    (∃ (k : Fin 4) (sub : Nat) (e : Nat) (s : State), s.up = true ∧ (s.ref k).pps = true ∧ (s.ref k).expect = some e ∧
      e ≤ addPs (s.atSub sub).now (-(refDelay (s.ref k).cfg)) + (s.ref k).window ∧
      addPs (s.atSub sub).now (-(refDelay (s.ref k).cfg)) ≤ e + (s.ref k).window) ∧
    (∃ (k : Fin 8) (s : State), s.up = true ∧ (s.ref k).st = .wait ∧ (s.ref k).wtrLeft = 0) ∧
    (∃ (s : State), s.up = true ∧ s.tim.st = .acquire ∧ (if (s.ref s.tim.sel).pps then 8 ≤ s.tim.lockRun else 125000 ≤ s.tim.lockRun)) ∧
    (∃ (s : State), s.up = true ∧ s.tim.st = .acquire ∧ (if (s.ref s.tim.sel).pps then 37500000 ≤ s.tim.ticks else 1250000 ≤ s.tim.ticks)) ∧
    (∃ (phase : Int) (s : State), s.up = true ∧ s.tim.st = .switch ∧ (if (s.ref s.tim.target).pps then 2 ≤ s.tim.meas else 16 ≤ s.tim.meas)) ∧
    (∃ (s : State), s.up = true ∧ s.atSecond = true ∧ s.tim.fcwCnt ≠ 0) ∧
    (∃ (active : Bool) (dev : Int) (n : Nat) (s : State), s.up = true ∧ s.tim.ocxoMeas = some n ∧ 125000 ≤ n ∧ active = true ∧
      dev.natAbs ≤ s.tim.ocxoLimit) ∧
    (∃ (active : Bool) (dev : Int) (n : Nat) (s : State), s.up = true ∧ s.tim.ocxoMeas = some n ∧ 125000 ≤ n ∧
      (active = false ∨ s.tim.ocxoLimit < dev.natAbs)) ∧
    (∃ (s : State), s.up = true ∧ s.tim.ocxo = true ∧ (s.tim.ocxoDead = true ∨ s.tim.ocxoLimit < s.tim.ocxoOfs.natAbs)) ∧
    (∃ (s : State), s.up = true ∧ s.tim.xoActive = true) ∧
    (∃ (s : State), s.up = true ∧ s.tim.disagree = true ∧ 125000 * s.tim.wtr ≤ s.tim.agreeTicks) ∧
    (∃ (s : State), s.up = true ∧ s.tim.slewing = true ∧ s.tim.slew = 0) ∧
    (∃ (o : Fin 6) (s : State), s.up = true ∧ s.atSecond = true ∧ (s.tim.out.get o).due = true) ∧
    (∃ (n : Fin 2) (s : State), s.up = true ∧ (s.tim.out.get (4 + n.val)).on = true ∧ outSrc (s.tim.out.get (4 + n.val)).cfg ≠ 0 ∧
      (s.tim.out.get (4 + n.val)).missed = true) :=
  ⟨⟨0, 0, live.onRef 0 fun c => { c with cfg := [0x10010000, 0, 0, 0x64] }, by decide⟩,
   ⟨0, 0, 0, live.onRef 0 fun c => { c with cfg := [0x10010000, 0, 0, 0x64], expect := some 0 }, by decide⟩,
   ⟨0, live.onRef 0 fun c => { c with st := .wait }, by decide⟩,
   ⟨{ live with tim := { live.tim with st := .acquire, lockRun := 125000 } }, by decide⟩,
   ⟨{ live with tim := { live.tim with st := .acquire, ticks := 1250000 } }, by decide⟩,
   ⟨0, { live with tim := { live.tim with st := .switch, meas := 16 } }, by decide⟩,
   ⟨{ live with tim := { live.tim with fcwCnt := 1 } }, by decide⟩,
   ⟨_, 0, 125000, { live with tim := { live.tim with ocxoMeas := some 125000 } }, by decide, by decide, by decide, rfl, by decide⟩,
   ⟨false, 0, 125000, { live with tim := { live.tim with ocxoMeas := some 125000 } }, by decide⟩,
   ⟨{ live with tim := { live.tim with ocxo := true, ocxoDead := true } }, by decide⟩,
   ⟨live, by decide⟩,
   ⟨{ live with tim := { live.tim with disagree := true, agreeTicks := 75000000 } }, by decide⟩,
   ⟨{ live with tim := { live.tim with slewing := true } }, by decide⟩,
   ⟨0, live.onOut 0 fun c => { c with due := true }, by decide⟩,
   ⟨0, live.onOut 4 fun _ => { on := true, cfg := [0x00010000, 0, 0, 1, 0xA0], missed := true }, by decide⟩⟩

theorem witness_ChainEventsComplete :
    (∃ (x : LinkAlign) (s : State), s.up = true ∧ s.chained = true ∧ (s.link x.linkB).st = .align) ∧
    (∃ (b : Bool) (s : State), s.up = true ∧ linkUp s b = true) ∧
    (∃ (b : Bool) (w : ChainWord) (stamp : Nat) (s : State), s.up = true ∧ linkUp s b = true ∧ chainType w = some 2) ∧
    (∃ (b : Bool) (w : ChainWord) (t3 : Nat) (t4 : Nat) (s : State), s.up = true ∧ linkUp s b = true ∧ chainType w = some 3 ∧ (s.link b).skip = 0 ∧
      (s.link b).t3 = some t3 ∧ (s.link b).t4 = some t4) ∧
    (∃ (b : Bool) (d : Int) (s : State), s.up = true ∧ viaLink s = some b ∧ (s.link b).theta = some d ∧ s.tim.st = .chain ∧ s.tim.chainOnce = false) ∧
    (∃ (m : Nat) (s : State), s.up = true ∧ s.tim.newMaster = some (m, 1)) ∧
    (∃ (b : Bool) (w : ChainWord) (s : State), s.up = true ∧ s.chained = true ∧ (s.link b).st = .up ∧ chainType w = some 4 ∧
      bitsOf w.toNat 117 116 = s.cmd.id) ∧
    (∃ (b : Bool) (w : ChainWord) (s : State), s.up = true ∧ s.chained = true ∧ (s.link b).st = .up ∧ chainType w = some 4 ∧
      bitsOf w.toNat 117 116 ≠ s.cmd.id ∧ bitsOf w.toNat 115 114 = 3) ∧
    (∃ (b : Bool) (w : ChainWord) (s : State), s.up = true ∧ s.chained = true ∧ (s.link b).st = .up ∧ chainType w = some 4 ∧
      bitsOf w.toNat 117 116 ≠ s.cmd.id ∧ bitsOf w.toNat 115 114 ≠ 3) ∧
    (∃ (b : Bool) (w : ChainWord) (n : Nat) (s : State), s.up = true ∧ linkUp s b = true ∧ (s.link b).st = .up ∧ chainType w = some n ∧ 5 ≤ n) ∧
    (∃ (b : Bool) (w : ChainWord) (s : State), s.up = true ∧ s.chained = true ∧ (s.link b).st = .up ∧ chainType w = some 1 ∧
      bitsOf w.toNat 119 118 ≠ s.cmd.id ∧ s.flt.seen.contains (bitsOf w.toNat 119 118, bitsOf w.toNat 99 92) = false) ∧
    (∃ (b : Bool) (w : ChainWord) (s : State), s.up = true ∧ s.chained = true ∧ (s.link b).st = .up ∧ chainType w = some 1 ∧
      bitsOf w.toNat 119 118 ≠ s.cmd.id ∧ s.flt.seen.contains (bitsOf w.toNat 119 118, bitsOf w.toNat 99 92) = true) ∧
    (∃ (src : Fin 4) (msg : BitVec 16) (reply : Bool) (m : FwdMsg) (s : State), s.live = true ∧
      (s.cmd.fwdIn.find? fun m => m.src == src.val && m.msg == msg.toNat && m.reply == reply && decide (125 ≤ m.age)) = some m) ∧
    (∃ (msg : BitVec 16) (s : State), s.live = true ∧ (∃ m ∈ s.cmd.fwdOut, m.1 = msg.toNat ∧ 1250 ≤ m.2)) :=
  ⟨⟨{}, { live.onLink false fun c => { c with st := .align } with cmd := { live.cmd with devs := 2 } }, by decide⟩,
   ⟨false, live.onLink false fun c => { c with st := .up }, by decide⟩,
   ⟨false, (chainWord 2 0 0 0 0), 0, { live.onLink false fun c => { c with st := .up } with cmd := { live.cmd with devs := 2 } }, by decide⟩,
   ⟨false, (chainWord 3 0 0 0 0), 0, 0, live.onLink false fun c => { c with st := .up, t3 := some 0, t4 := some 0 }, by decide⟩,
   ⟨false, 0, { live.onLink false fun c => { c with st := .up, theta := some 0 } with tim := { (live.onLink false fun c => { c with st := .up, theta := some 0 }).tim with st := .chain } }, by decide⟩,
   ⟨1, { live with cmd := { live.cmd with devs := 2 }, tim := { live.tim with newMaster := some (1, 1) } }, by decide⟩,
   ⟨false, (chainWord 4 0 0 0 0), { live.onLink false fun c => { c with st := .up } with cmd := { live.cmd with devs := 2 } }, by decide⟩,
   ⟨false, (chainWord 4 0 1 3 0), { live.onLink false fun c => { c with st := .up } with cmd := { live.cmd with devs := 2 } }, by decide⟩,
   ⟨false, (chainWord 4 0 1 2 0), { live.onLink false fun c => { c with st := .up } with cmd := { live.cmd with devs := 2 } }, by decide⟩,
   ⟨false, (chainWord 5 0 0 0 0), 5, { live.onLink false fun c => { c with st := .up } with cmd := { live.cmd with devs := 2 } }, by decide⟩,
   ⟨false, (chainWord 1 1 0 0 0), { live.onLink false fun c => { c with st := .up } with cmd := { live.cmd with devs := 2 } }, by decide⟩,
   ⟨false, (chainWord 1 1 0 0 0), { { live.onLink false fun c => { c with st := .up } with cmd := { live.cmd with devs := 2 } } with flt := { live.flt with seen := [(1, 0)] } }, by decide⟩,
   ⟨0, 0, false, { src := 0, msg := 0, reply := false, next := 0, bytes := [], linkB := false, age := 125 }, { live with cmd := { live.cmd with fwdIn := [{ src := 0, msg := 0, reply := false, next := 0, bytes := [], linkB := false, age := 125 }] } }, by decide⟩,
   ⟨0, { live with cmd := { live.cmd with fwdOut := [(0, 1250)] } }, by decide⟩⟩

theorem witness_MartenEventsComplete :
    (∃ (l : Fin 2) (s : State), marRuns s = true ∧ (s.ml l).due = true ∧ s.lineAllowed l = true) ∧
    (∃ (l : Fin 2) (s : State), marRuns s = true ∧ s.atSecond = true ∧ (s.ds l).rxd = .run) ∧
    (∃ (l : Fin 2) (s : State), marRuns s = true ∧ (s.ml l).calPend = true ∧ (s.ml l).avgIn.isSome = true ∧ (s.ml l).avgOut.isSome = true) ∧
    (∃ (l : Fin 2) (s : State), mayBurst s l 1 = true ∧ s.tick.num % (s.ml l).period = 0) ∧
    (∃ (l : Fin 2) (s : State), mayBurst s l 2 = true ∧ superTick s < 16) ∧
    (∃ (l : Fin 2) (e : Nat × Nat × Nat × Int) (s : State), mayBurst s l 2 = true ∧ 16 ≤ superTick s ∧ superTick s ≤ 31 ∧
      ((s.ml l).leafEcho.find? fun e => e.1 == superTick s - 16) = some e) ∧
    (∃ (l : Fin 2) (s : State), mayBurst s l 3 = true ∧ (s.ml l).timed = true ∧ (s.ml l).ranged = false ∧ (s.ml l).sentDisc = false ∧ 625 ≤ superTick s ∧
      superTick s ≤ 936) ∧
    (∃ (l : Fin 2) (s : State), mayBurst s l 3 = true ∧ (s.ml l).ranged = true ∧ superTick s = leafSendTime (s.ml l) / tickUnits) ∧
    (∃ (l : Fin 2) (peak : Nat) (x : McPeak) (s : State), mcHears s l = true ∧
      (((s.ml l).synced x.sync).mcSt = .search ∨ (((s.ml l).synced x.sync).mcSt = .pre ∨ ((s.ml l).synced x.sync).mcSt = .sync) ∧
      ((s.ml l).synced x.sync).mcPeak < peak)) ∧
    (∃ (l : Fin 2) (peak : Nat) (x : McPeak) (s : State), mcHears s l = true ∧
      (((s.ml l).synced x.sync).mcSt = .pre ∨ ((s.ml l).synced x.sync).mcSt = .sync) ∧ peak ≤ ((s.ml l).synced x.sync).mcPeak) ∧
    (∃ (l : Fin 2) (peak : Nat) (x : McPeak) (v : Int) (s : State), mcHears s l = true ∧ ((s.ml l).synced x.sync).mcSt = .body ∧
      ((s.ml l).synced x.sync).strength = some v ∧ v + ((s.ml l).synced x.sync).capMargin < x.power) ∧
    (∃ (l : Fin 2) (s : State), mcHears s l = true ∧ ((s.ml l).mcSt = .pre ∨ (s.ml l).mcSt = .sync)) ∧
    (∃ (l : Fin 2) (b : Burst) (s : State), mcHears s l = true ∧ (s.ml l).mcSt ≠ .search ∧ (b.hdrOk = false ∨ burstFld b.hdr 31 0 ≠ burstCrc b.hdr.toNat)) ∧
    (∃ (l : Fin 2) (b : Burst) (s : State), mcHears s l = true ∧ (s.ml l).mcSt ≠ .search ∧ b.hdrOk = true ∧ burstFld b.hdr 31 0 = burstCrc b.hdr.toNat) ∧
    (∃ (l : Fin 2) (s : State), marRuns s = true ∧ (s.ml l).role ≠ 0 ∧ (steerSrc s.mar.steer ≠ 4 ∨ (s.ml l).role ≠ 3) ∧ (s.ml l).mcAvg ≤ (s.ml l).mcCnt ∧
      (s.ml l).mcCnt ≠ 0) ∧
    (∃ (l : Fin 2) (s : State), marRuns s = true ∧ (s.ml l).role = 3 ∧ (s.ml l).ranged = true ∧ 16 < (s.ml l).noEcho) ∧
    (∃ (l : Fin 2) (j : Fin 16) (s : State), marRuns s = true ∧ (s.ml l).role = 2 ∧ ((s.ml l).leaf.get j).ranged = true ∧
      16 < ((s.ml l).leaf.get j).empty) :=
  ⟨⟨0, (live).onMar 0 fun c => { c with due := true }, by decide⟩,
   ⟨0, live.onDsp 0 fun c => { c with rxd := .run }, by decide⟩,
   ⟨0, (live).onMar 0 fun c => { c with calPend := true, cdIn := List.replicate 3600 0, cdOut := List.replicate 3600 0 }, by decide +kernel⟩,
   ⟨0, ({ (live.onConv 0 fun c => { c with tx := .ready, rx := .ready }).onDsp 0 fun c => { c with rxd := .run, scCfg := [0x100] } with tick := { live.tick with num := 0 } }).onMar 0 fun c => { c with mc := [0x003C0010, 0x0064007D] }, by decide⟩,
   ⟨0, ({ (live.onConv 0 fun c => { c with tx := .ready, rx := .ready }).onDsp 0 fun c => { c with rxd := .run, scCfg := [0x100] } with tick := { live.tick with num := 0 } }).onMar 0 fun c => { c with mc := [0x003C0020, 0x0064007D] }, by decide⟩,
   ⟨0, (0, 0, 0, 0), ({ (live.onConv 0 fun c => { c with tx := .ready, rx := .ready }).onDsp 0 fun c => { c with rxd := .run, scCfg := [0x100] } with tick := { live.tick with num := 16 } }).onMar 0 fun c => { c with mc := [0x003C0020, 0x0064007D], leafEcho := [(0, 0, 0, 0)] }, by decide⟩,
   ⟨0, ({ (live.onConv 0 fun c => { c with tx := .ready, rx := .ready }).onDsp 0 fun c => { c with rxd := .run, scCfg := [0x100] } with tick := { live.tick with num := 625 } }).onMar 0 fun c => { c with mc := [0x003C0030, 0x0064007D], timed := true }, by decide⟩,
   ⟨0, ({ (live.onConv 0 fun c => { c with tx := .ready, rx := .ready }).onDsp 0 fun c => { c with rxd := .run, scCfg := [0x100] } with tick := { live.tick with num := 0 } }).onMar 0 fun c => { c with mc := [0x003C0030, 0x0064007D], ranged := true }, by decide⟩,
   ⟨0, 0, {}, ({ (live.onConv 0 fun c => { c with tx := .ready, rx := .ready }).onDsp 0 fun c => { c with rxd := .run, scCfg := [0x100] } with tick := { live.tick with num := 0 } }).onMar 0 fun c => { c with mc := [0x003C0010, 0x0064007D] }, by decide⟩,
   ⟨0, 0, {}, ({ (live.onConv 0 fun c => { c with tx := .ready, rx := .ready }).onDsp 0 fun c => { c with rxd := .run, scCfg := [0x100] } with tick := { live.tick with num := 0 } }).onMar 0 fun c => { c with mc := [0x003C0010, 0x0064007D], mcSt := .pre }, by decide⟩,
   ⟨0, 0, { power := 100 }, 0, ({ (live.onConv 0 fun c => { c with tx := .ready, rx := .ready }).onDsp 0 fun c => { c with rxd := .run, scCfg := [0x100] } with tick := { live.tick with num := 0 } }).onMar 0 fun c => { c with mc := [0x003C0010, 0x0064007D], mcSt := .body, strength := some 0 }, by decide⟩,
   ⟨0, ({ (live.onConv 0 fun c => { c with tx := .ready, rx := .ready }).onDsp 0 fun c => { c with rxd := .run, scCfg := [0x100] } with tick := { live.tick with num := 0 } }).onMar 0 fun c => { c with mc := [0x003C0010, 0x0064007D], mcSt := .pre }, by decide⟩,
   ⟨0, { hdrOk := false }, ({ (live.onConv 0 fun c => { c with tx := .ready, rx := .ready }).onDsp 0 fun c => { c with rxd := .run, scCfg := [0x100] } with tick := { live.tick with num := 0 } }).onMar 0 fun c => { c with mc := [0x003C0010, 0x0064007D], mcSt := .body }, by decide⟩,
   ⟨0, { hdr := BitVec.ofNat 512 (burstCrc 0) }, ({ (live.onConv 0 fun c => { c with tx := .ready, rx := .ready }).onDsp 0 fun c => { c with rxd := .run, scCfg := [0x100] } with tick := { live.tick with num := 0 } }).onMar 0 fun c => { c with mc := [0x003C0010, 0x0064007D], mcSt := .body }, by decide +kernel⟩,
   ⟨0, ({ (live.onConv 0 fun c => { c with tx := .ready, rx := .ready }).onDsp 0 fun c => { c with rxd := .run, scCfg := [0x100] } with tick := { live.tick with num := 0 } }).onMar 0 fun c => { c with mc := [0x003C0010, 0x0001007D], mcCnt := 1 }, by decide⟩,
   ⟨0, ({ (live.onConv 0 fun c => { c with tx := .ready, rx := .ready }).onDsp 0 fun c => { c with rxd := .run, scCfg := [0x100] } with tick := { live.tick with num := 0 } }).onMar 0 fun c => { c with mc := [0x003C0030, 0x0064007D], ranged := true, noEcho := 17 }, by decide⟩,
   ⟨0, 0, ({ (live.onConv 0 fun c => { c with tx := .ready, rx := .ready }).onDsp 0 fun c => { c with rxd := .run, scCfg := [0x100] } with tick := { live.tick with num := 0 } }).onMar 0 fun c => { c with mc := [0x003C0020, 0x0064007D], leaf := c.leaf.set 0 { ranged := true, empty := 17 } }, by decide⟩⟩

theorem witness_CloveEventsComplete :
    (∃ (bad : List (Fin 5)) (fbBad : Bool) (s : State), s.live = true ∧ s.clv.st = .cal ∧ 249 ≤ s.clv.ticks) ∧
    (∃ (slice : Fin 5) (offset : Int) (gain : Int) (offRes : Nat) (gainRes : Nat) (s : State), s.up = true ∧ s.clv.st = .run ∧ s.clv.rotEn = true ∧
      s.clv.offline = slice.val ∧ s.clv.dwellLen ≤ s.clv.dwell + 1 ∧ offRes ≤ 2 ∧ gainRes ≤ 5 ∧ clvSaturated offset gain = false) ∧
    (∃ (slice : Fin 5) (offset : Int) (gain : Int) (offRes : Nat) (gainRes : Nat) (s : State), s.up = true ∧ s.clv.st = .run ∧ s.clv.rotEn = true ∧
      s.clv.offline = slice.val ∧ s.clv.dwellLen ≤ s.clv.dwell + 1 ∧ (clvSaturated offset gain = true ∨ (2 < offRes ∨ 5 < gainRes) ∧
      4 * s.clv.dwellLen ≤ s.clv.dwell + 1)) ∧
    (∃ (slice : Fin 5) (offset : Int) (gain : Int) (offRes : Nat) (gainRes : Nat) (s : State), s.up = true ∧ s.clv.st = .run ∧ s.clv.rotEn = true ∧
      s.clv.offline = slice.val ∧ s.clv.dwellLen ≤ s.clv.dwell + 1 ∧ clvSaturated offset gain = false ∧ (2 < offRes ∨ 5 < gainRes) ∧
      s.clv.dwell + 1 < 4 * s.clv.dwellLen) ∧
    (∃ (res : List Int) (s : State), s.up = true ∧ s.clv.st.runs = true ∧ s.clv.xstep = some 0 ∧ s.clv.injStep = none ∧
      s.clv.xclk + s.clv.xleft < s.clkBoundary + 160) ∧
    (∃ (res : List ConvOut) (s : State), s.up = true ∧ s.clv.st.runs = true ∧ s.clv.xstep = some 1 ∧ s.clv.injStep = none ∧
      s.clv.xclk + s.clv.xleft < s.clkBoundary + 160) ∧
    (∃ (res : List ConvOut) (j : Nat) (s : State), s.up = true ∧ s.clv.st.runs = true ∧ s.clv.injStep = some j ∧
      s.clv.run.clk + seqClocks s.clv.inj < s.clkBoundary + 160) ∧
    (∃ (res : List ConvOut) (j : Nat) (s : State), s.up = true ∧ s.clv.st.runs = true ∧ s.clv.injStep = none ∧ s.clv.xstep = none ∧ s.clv.step = some j ∧
      s.clv.reg.clk + seqClocks s.clv.seq < s.clkBoundary + 160) ∧
    (∃ (s : State), s.up = true ∧ s.clv.st.runs = true ∧ s.clv.paceDue = true ∧ s.clv.step = none ∧ s.clv.injStep = none) ∧
    (∃ (s : State), s.up = true ∧ s.clv.st.runs = true ∧ s.clv.paceDue = true ∧ (s.clv.step ≠ none ∨ s.clv.injStep ≠ none)) ∧
    (∃ (rising : Bool) (sub : Nat) (s : State), s.up = true ∧ s.clv.edge.testBit (if rising then 0 else 1) = true) ∧
    (∃ (rising : Bool) (sub : Nat) (s : State), s.up = true ∧ s.clv.edge.testBit (if rising then 0 else 1) = false) ∧
    (∃ (srcs : BitVec 6) (s : State), s.up = true ∧ (srcs &&& s.clv.trig).toNat &&& s.clv.srcMask ≠ 0) ∧
    (∃ (s : State), s.up = true ∧ s.clv.injDone = true) ∧
    (∃ (s : State), s.up = true) ∧
    (∃ (s : State), s.up = true ∧ s.clv.syncDue = true ∧ s.clv.injStep = none) ∧
    (∃ (k : Fin 16) (s : State), s.up = true ∧ (s.clv.det.get k.val).kind ≠ 0) ∧
    (∃ (k : Fin 16) (s : State), s.up = true ∧ s.fwRuns = true ∧ (s.clv.bias.get k.val).en = true ∧ (s.clv.bias.get k.val).target ≠ 0) :=
  ⟨⟨{}, false, { live with clv := { live.clv with ticks := 250 } }, by decide⟩,
   ⟨4, 0, 0, 0, 0, { live with clv := { live.clv with st := .run, dwell := 1249 } }, by decide⟩,
   ⟨4, 2000, 0, 0, 0, { live with clv := { live.clv with st := .run, dwell := 1249 } }, by decide⟩,
   ⟨4, 0, 0, 3, 0, { live with clv := { live.clv with st := .run, dwell := 1249 } }, by decide⟩,
   ⟨{}, { live with clv := { live.clv with st := .run, xstep := some 0 } }, by decide⟩,
   ⟨{}, { live with clv := { live.clv with st := .run, xstep := some 1 } }, by decide⟩,
   ⟨{}, 0, { { live with clv := { live.clv with st := .run, injStep := some 0 } } with tick := { live.tick with count := 1000 } }, by decide⟩,
   ⟨{}, 0, { { live with clv := { live.clv with st := .run, step := some 0 } } with tick := { live.tick with count := 1000 } }, by decide⟩,
   ⟨{ live with clv := { live.clv with st := .run, step := none, paceDue := true } }, by decide⟩,
   ⟨{ live with clv := { live.clv with st := .run, paceDue := true, step := some 0 } }, by decide⟩,
   ⟨true, 0, { live with clv := { live.clv with inj := [0x80000000, 1] } }, by decide⟩,
   ⟨false, 0, { live with clv := { live.clv with inj := [0x80000000, 1] } }, by decide⟩,
   ⟨1, { live with clv := { live.clv with inj := [0x80000000, 0x400], trig := 1 } }, by decide⟩,
   ⟨{ live with clv := { live.clv with injDone := true } }, by decide⟩,
   ⟨live, by decide⟩,
   ⟨{ live with clv := { live.clv with syncDue := true } }, by decide⟩,
   ⟨0, live.onDet 0 fun c => { c with cfg := [0x007D0010, 0x087FFFFF, 0x00800000] }, by decide⟩,
   ⟨0, live.onBias 0 fun c => { c with cfg := [0x90000100, 0xFFFF0000, 0x00008000, 0x00800000, 0x01000010, 0] }, by decide⟩⟩

theorem witness_RegisterAccessesComplete :
    (∃ (addr : BitVec 26) (val : Word) (s : State), s.live = true) ∧
    (∃ (addr : BitVec 26) (val : Word) (s : State), s.live = true) ∧
    (∃ (val : Word) (s : State), s.live = true) ∧
    (∃ (k : Fin 4) (val : Word) (s : State), s.live = true) ∧
    (∃ (pf1 : Bool) (addr : BitVec 26) (s : State), s.live = true) ∧
    (∃ (x : Fin 9) (val : Word) (s : State), s.up = true) ∧
    (∃ (val : Word) (s : State), s.up = true ∧ flag val 31 = true ∧ goResult s (fld val 12 0) (flag val 16) = 0) ∧
    (∃ (val : Word) (r : Nat) (s : State), s.up = true ∧ flag val 31 = true ∧ goResult s (fld val 12 0) (flag val 16) = r ∧ r ≠ 0) ∧
    (∃ (val : Word) (img : DlImage) (s : State), s.live = true ∧ s.cmd.boot = .waitPcie ∧ flag val 0 = true ∧ img.dmaErr = false ∧
      imageCheck (img.bytes.take s.cmd.dlLen.toNat) img.sigOk s.cmd = 0) ∧
    (∃ (val : Word) (img : DlImage) (s : State), s.live = true ∧ s.cmd.boot = .waitPcie ∧ flag val 0 = true ∧ img.dmaErr = false ∧
      imageCheck (img.bytes.take s.cmd.dlLen.toNat) img.sigOk s.cmd ≠ 0) ∧
    (∃ (val : Word) (img : DlImage) (s : State), s.live = true ∧ s.cmd.boot = .waitPcie ∧ flag val 0 = true ∧ img.dmaErr = true) ∧
    (∃ (val : Word) (s : State), s.up = true) ∧
    (∃ (val : Word) (s : State), s.up = true) ∧
    (∃ (j : Fin 16) (val : Word) (s : State), s.live = true) ∧
    (∃ (val : Word) (s : State), s.live = true) ∧
    (∃ (val : Word) (s : State), s.live = true) :=
  ⟨⟨0, 0, live, by decide⟩,
   ⟨0, 0, live, by decide⟩,
   ⟨0, live, by decide⟩,
   ⟨0, 0, live, by decide⟩,
   ⟨false, 0, live, by decide⟩,
   ⟨0, 0, live, by decide⟩,
   ⟨0x80000000, { live with nut := { live.nut with wrMask := 0x1FF } }, by decide⟩,
   ⟨0x80000000, 1, live, by decide⟩,
   ⟨1, { bytes := (bytesOf [0x5746574B, 1, 0, 0, 0] ++ List.replicate 44 0 ++ sha384 [] ++ List.replicate 144 0), sigOk := true }, { live with cmd := { live.cmd with boot := .waitPcie, dlLen := 256 } }, by decide +kernel⟩,
   ⟨1, { bytes := [], sigOk := true }, { live with cmd := { live.cmd with boot := .waitPcie } }, by decide⟩,
   ⟨1, { dmaErr := true }, { live with cmd := { live.cmd with boot := .waitPcie } }, by decide⟩,
   ⟨0, live, by decide⟩,
   ⟨0, live, by decide⟩,
   ⟨0, 0, live, by decide⟩,
   ⟨0, live, by decide⟩,
   ⟨0, live, by decide⟩⟩

theorem witness_RingEventsComplete :
    (∃ (r : Fin 16) (val : Word) (s : State), s.live = true ∧ flag val 31 = true ∧ fld val 3 0 ≤ 10 ∧ fld val 11 8 ≤ 10 ∧ (s.ring r).en = false ∧
      (s.ring r).st ≠ .drain) ∧
    (∃ (r : Fin 16) (val : Word) (s : State), s.live = true ∧ flag val 31 = false ∧ fld val 3 0 ≤ 10 ∧ fld val 11 8 ≤ 10 ∧ (s.ring r).en = true ∧
      ((s.ring r).st ≠ .halted ∨ (s.ring r).flight.isSome = true)) ∧
    (∃ (r : Fin 16) (val : Word) (s : State), s.live = true ∧ flag val 31 = false ∧ fld val 3 0 ≤ 10 ∧ fld val 11 8 ≤ 10 ∧ (s.ring r).en = false) ∧
    (∃ (r : Fin 16) (val : Word) (s : State), s.live = true ∧ fld val 15 0 < slotsOf (s.ring r).sqSize) ∧
    (∃ (r : Fin 16) (val : Word) (s : State), s.live = true ∧ (s.ring r).en = true ∧ (s.ring r).st = .run ∧ slotsOf (s.ring r).sqSize ≤ fld val 15 0) ∧
    (∃ (r : Fin 16) (val : Word) (s : State), s.live = true ∧ ((s.ring r).en = false ∨ (s.ring r).st ≠ .run)) ∧
    (∃ (r : Fin 16) (val : Word) (s : State), s.live = true ∧ fld val 15 0 < slotsOf (s.ring r).cqSize ∧
      (fld val 15 0 + slotsOf (s.ring r).cqSize - (s.ring r).cqHead) % slotsOf (s.ring r).cqSize ≤ (s.ring r).cqUsed) ∧
    (∃ (r : Fin 16) (val : Word) (s : State), s.live = true ∧ (s.ring r).en = true ∧ (s.ring r).st = .run ∧
      (slotsOf (s.ring r).cqSize ≤ fld val 15 0 ∨ (s.ring r).cqUsed < (fld val 15 0 + slotsOf (s.ring r).cqSize - (s.ring r).cqHead) % slotsOf (s.ring r).cqSize)) ∧
    (∃ (r : Fin 16) (val : Word) (s : State), s.live = true ∧ ((s.ring r).en = false ∨ (s.ring r).st ≠ .run) ∧
      (slotsOf (s.ring r).cqSize ≤ fld val 15 0 ∨ (s.ring r).cqUsed < (fld val 15 0 + slotsOf (s.ring r).cqSize - (s.ring r).cqHead) % slotsOf (s.ring r).cqSize)) ∧
    (∃ (r : Fin 16) (p : Packet) (s : State), s.fwRuns = true ∧ nextRing s = some r.val ∧ p.dmaErr = false ∧ fld (wd p.hdr 1) 11 0 ≤ 4064 ∧
      fld (wd p.hdr 1) 11 0 % 4 = 0 ∧ cmdSlots (fld (wd p.hdr 1) 11 0) < slotsOf (s.ring r).sqSize ∧
      cmdSlots (fld (wd p.hdr 1) 11 0) ≤ (s.ring r).sqUsed) ∧
    (∃ (c : RemoteCmd) (cs : List RemoteCmd) (p : Packet) (s : State), s.fwRuns = true ∧ nextRing s = some 16 ∧ s.cmd.remote = c :: cs) ∧
    (∃ (r : Fin 16) (p : Packet) (s : State), s.fwRuns = true ∧ nextRing s = some r.val ∧ p.dmaErr = true) ∧
    (∃ (r : Fin 16) (p : Packet) (s : State), s.fwRuns = true ∧ nextRing s = some r.val ∧ p.dmaErr = false ∧
      (4064 < fld (wd p.hdr 1) 11 0 ∨ fld (wd p.hdr 1) 11 0 % 4 ≠ 0)) ∧
    (∃ (r : Fin 16) (rep : Reply) (s : State), s.fwRuns = true ∧ (s.ring r).late = 0 ∧ (s.ring r).flight = some rep ∧ (s.ring r).noFw = false ∧
      rep.cap = none ∧ (s.ring r).room (replySlots rep) = true) ∧
    (∃ (r : Fin 16) (rep : Reply) (s : State), s.fwRuns = true ∧ (s.ring r).late = 0 ∧ (s.ring r).flight = some rep ∧ (s.ring r).noFw = false ∧
      rep.cap = none) ∧
    (∃ (r : Fin 17) (e : Bool) (s : State), s.fwRuns = true ∧ 0 < (s.ring r).late) ∧
    (∃ (r : Fin 16) (rep : Reply) (s : State), s.live = true ∧ (s.ring r).flight = some rep ∧ (1250 ≤ (s.ring r).age ∨ s.tick.running = false) ∧
      (s.ring r).room 1 = true) ∧
    (∃ (r : Fin 16) (s : State), s.live = true ∧ (s.ring r).st = .drain ∧ (s.ring r).flight = none) :=
  ⟨⟨0, 0x80000000, live, by decide⟩,
   ⟨0, 0, live.onRing 0 fun c => { c with en := true }, by decide⟩,
   ⟨0, 0, live, by decide⟩,
   ⟨0, 0, live, by decide⟩,
   ⟨0, 64, live.onRing 0 fun c => { c with en := true, st := .run }, by decide⟩,
   ⟨0, 0, live, by decide⟩,
   ⟨0, 0, live, by decide⟩,
   ⟨0, 64, live.onRing 0 fun c => { c with en := true, st := .run }, by decide⟩,
   ⟨0, 64, live, by decide⟩,
   ⟨1, { hdr := [0, 0] }, live.onRing 1 fun c => { c with en := true, st := .run, sqTail := 1 }, by decide⟩,
   ⟨{ src := 0, msg := 0, linkB := false, bytes := [] }, [], {}, { live with cmd := { live.cmd with remote := [{ src := 0, msg := 0, linkB := false, bytes := [] }] } }, by decide⟩,
   ⟨1, { dmaErr := true }, live.onRing 1 fun c => { c with en := true, st := .run, sqTail := 1 }, by decide⟩,
   ⟨1, { hdr := [0, 1] }, live.onRing 1 fun c => { c with en := true, st := .run, sqTail := 1 }, by decide⟩,
   ⟨0, {}, live.onRing 0 fun c => { c with flight := some {} }, by decide⟩,
   ⟨0, {}, live.onRing 0 fun c => { c with flight := some {} }, by decide⟩,
   ⟨0, false, live.onRing 0 fun c => { c with late := 1 }, by decide⟩,
   ⟨0, {}, live.onRing 0 fun c => { c with flight := some {}, age := 1250 }, by decide⟩,
   ⟨0, live.onRing 0 fun c => { c with st := .drain }, by decide⟩⟩

theorem witness_FirmwareEventsComplete :
    (∃ (x : BootIn) (s : State), s.live = true ∧ s.cmd.boot = .rom ∧ s.cmd.bootSel = true) ∧
    (∃ (x : BootIn) (s : State), s.live = true ∧ s.cmd.boot = .rom ∧ s.cmd.bootSel = false ∧ imageCheck s.cmd.slotA x.sigA s.cmd = 0 ∧
      imageCheck s.cmd.slotB x.sigB s.cmd ≠ 0) ∧
    (∃ (x : BootIn) (s : State), s.live = true ∧ s.cmd.boot = .rom ∧ s.cmd.bootSel = false ∧ imageCheck s.cmd.slotA x.sigA s.cmd ≠ 0 ∧
      imageCheck s.cmd.slotB x.sigB s.cmd = 0) ∧
    (∃ (x : BootIn) (e : Nat) (s : State), s.live = true ∧ s.cmd.boot = .rom ∧ s.cmd.bootSel = false ∧ imageCheck s.cmd.slotA x.sigA s.cmd ≠ 0 ∧
      imageCheck s.cmd.slotB x.sigB s.cmd = e ∧ e ≠ 0) ∧
    (∃ (vout : List (Fin 8 × BitVec 8)) (s : State), s.fwRuns = true ∧ s.cmd.acceptDue = true ∧ s.cmd.accepted = false ∧
      tableOutsideOk (if s.cmd.fromHost then s.cmd.table else s.cmd.flashTable) s.cmd.fromHost = false) ∧
    (∃ (r : Fin 17) (tag : BitVec 16) (sigOk : Bool) (e : ResEnt) (s : State), s.fwRuns = true ∧
      (s.cmd.store.find? fun e => e.ring == r.val && e.tag == tag && !e.done) = some e ∧ e.kind = .plain ∧ e.final.cap = none) ∧
    (∃ (r : Fin 17) (tag : BitVec 16) (sigOk : Bool) (e : ResEnt) (m : Nat) (s : State), s.fwRuns = true ∧
      (s.cmd.store.find? fun e => e.ring == r.val && e.tag == tag && !e.done) = some e ∧ e.kind = .fwActivate m) ∧
    (∃ (s : State), s.live = true) ∧
    (∃ (s : State), s.live = true ∧ s.cmd.boot = .restart ∧ s.cmd.accepted = true) ∧
    (∃ (e : LogEnt) (q : List LogEnt) (s : State), s.live = true ∧ s.cmd.logQ = e :: q ∧ s.cmd.log.length < 4096) ∧
    (∃ (n : Nat) (s : State), s.live = true ∧ s.flt.wdLeft = some n ∧ (n = 0 ∨ s.tick.running = false)) ∧
    (∃ (s : State), s.live = true) ∧
    (∃ (s : State), s.live = true) ∧
    (∃ (s : State), s.live = true) ∧
    (∃ (s : State), s.live = true) ∧
    (∃ (s : State), s.live = true ∧ s.pci.link = true) ∧
    (∃ (vec : Fin 32) (s : State), s.live = true ∧ s.pci.pend0.getLsbD vec = true) ∧
    (∃ (vec : Fin 32) (s : State), s.live = true ∧ s.pci.pend0.getLsbD vec = false) :=
  ⟨⟨{}, { live with cmd := { live.cmd with boot := .rom, bootSel := true } }, by decide⟩,
   ⟨{ sigA := true }, { live with cmd := { live.cmd with boot := .rom, slotA := (bytesOf [0x5746574B, 1, 0, 0, 0] ++ List.replicate 44 0 ++ sha384 [] ++ List.replicate 144 0) } }, by decide +kernel⟩,
   ⟨{ sigB := true }, { live with cmd := { live.cmd with boot := .rom, slotB := (bytesOf [0x5746574B, 1, 0, 0, 0] ++ List.replicate 44 0 ++ sha384 [] ++ List.replicate 144 0) } }, by decide +kernel⟩,
   ⟨{}, 1, { live with cmd := { live.cmd with boot := .rom } }, by decide⟩,
   ⟨{}, { live with cmd := { live.cmd with accepted := false, acceptDue := true } }, by decide⟩,
   ⟨0, 0, false, { ring := 0, tag := 0, kind := .plain, final := {} }, { live with cmd := { live.cmd with store := [{ ring := 0, tag := 0, kind := .plain, final := {} }] } }, by decide⟩,
   ⟨0, 0, false, { ring := 0, tag := 0, kind := .fwActivate 0, final := {} }, 0, { live with cmd := { live.cmd with store := [{ ring := 0, tag := 0, kind := .fwActivate 0, final := {} }] } }, by decide⟩,
   ⟨live, by decide⟩,
   ⟨{ live with cmd := { live.cmd with boot := .restart } }, by decide⟩,
   ⟨{}, [], { live with cmd := { live.cmd with logQ := [{}] } }, by decide⟩,
   ⟨0, { live with flt := { live.flt with wdLeft := some 0 } }, by decide⟩,
   ⟨live, by decide⟩,
   ⟨live, by decide⟩,
   ⟨live, by decide⟩,
   ⟨live, by decide⟩,
   ⟨live, by decide⟩,
   ⟨0, { live with pci := { live.pci with pend0 := 1 } }, by decide⟩,
   ⟨0, live, by decide⟩⟩

theorem witness_FaultAndDumpEventsComplete :
    (∃ (x : TickIn) (s : State), s.up = true ∧ s.tick.running = true ∧ s.tick.stopDue = false ∧ (boundaryApply x s).inP3 = false) ∧
    (∃ (x : TickIn) (s : State), s.up = true ∧ s.tick.running = true ∧ s.tick.stopDue = false ∧ (boundaryApply x s).inP3 = true) ∧
    (∃ (x : TickIn) (s : State), s.live = true ∧ s.tick.stopDue = true) ∧
    (∃ (u : Fin 6) (s : State), s.live = true ∧ s.tick.carryDue.getLsbD u = true) ∧
    (∃ (l : Fin 2) (f : RxFrame) (s : State), mayDecode s l = true) ∧
    (∃ (fs : Fin 512) (s : State), s.live = true ∧ fsAssigned fs = true ∧ fs.val ≠ 176 ∧ fs.val ≠ 208) ∧
    (∃ (x : RailPair) (s : State), s.live = true ∧ fsAssigned x.fs = true ∧ 8 ≤ x.fs.val ∧ s.flt.broken.getLsbD x.fs = true) ∧
    (∃ (x : RailPair) (s : State), s.live = true ∧ fsAssigned x.fs = true ∧ 8 ≤ x.fs.val ∧ s.flt.broken.getLsbD x.fs = false) ∧
    (∃ (m : Msg) (s : State), s.live = true ∧ (s.flt.msg.get m.m).q.length < 16) ∧
    (∃ (m : Msg) (s : State), s.live = true ∧ 16 ≤ (s.flt.msg.get m.m).q.length) ∧
    (∃ (fs : Fin 512) (n : Nat) (s : State), s.live = true ∧ s.flt.win.get fs = some n ∧ (n = 0 ∨ s.tick.running = false) ∧ s.flt.pend.getLsbD fs = true) ∧
    (∃ (ws : List Word) (s : State), s.up = true ∧ s.cnt.buf = some ws) ∧
    (∃ (s : State), s.up = true ∧ s.cnt.buf.isSome = true) :=
  ⟨⟨{}, live, by decide +kernel⟩,
   ⟨{}, { { live with pwr := { live.pwr with st := .p2 } } with tick := { live.tick with staged := [{ item := .pwrState, ws := [3] }] } }, by decide +kernel⟩,
   ⟨{}, { live with tick := { live.tick with stopDue := true } }, by decide⟩,
   ⟨0, { live with tick := { live.tick with carryDue := 1 } }, by decide⟩,
   ⟨0, {}, live.onFrm 0 fun c => { c with fr := .hunt }, by decide⟩,
   ⟨0, live, by decide⟩,
   ⟨{ fs := 8 }, { live with flt := { live.flt with broken := 0x100 } }, by decide +kernel⟩,
   ⟨{ fs := 8 }, live, by decide +kernel⟩,
   ⟨{ m := 0, kind := 0 }, live, by decide⟩,
   ⟨{ m := 0, kind := 0 }, { live with flt := { live.flt with msg := live.flt.msg.set 0 { q := List.replicate 16 ({ m := 0, kind := 0 }, false) } } }, by decide⟩,
   ⟨0, 0, { live with flt := { live.flt with win := live.flt.win.set 0 (some 0), pend := 1 } }, by decide +kernel⟩,
   ⟨[0], { live with cnt := { live.cnt with buf := some [0] } }, by decide⟩,
   ⟨{ live with cnt := { live.cnt with buf := some [0] } }, by decide⟩⟩

theorem witness_PowerEventsComplete :
    (∃ (r : Fin 8) (p : RegPoll) (rest : List (Option RegPoll)) (s : State), s.live = true ∧ (s.pwr.reg.get r).en = true ∧
      ((s.pwr.reg.get r).poll ≤ (s.pwr.reg.get r).age ∨ s.tick.running = false)) ∧
    (∃ (r : Fin 8) (s : State), s.live = true ∧ (s.pwr.reg.get r).en = true ∧ ((s.pwr.reg.get r).poll ≤ (s.pwr.reg.get r).age ∨ s.tick.running = false)) ∧
    (∃ (status : List (Fin 8 × BitVec 16)) (s : State), s.live = true) ∧
    (∃ (s : State), s.live = true) ∧
    (∃ (s : State) (sum : Int) (n : Nat), s.up = true ∧ s.pwr.avsDue = true ∧ s.pwr.supLost = false ∧ hottest s.pwr = some (sum, n) ∧
      (avsReg s).isSome = true ∧ s.cmd.accepted = true ∧ avsRaw s.pwr sum n ≤ 850000) ∧
    (∃ (r : Nat) (s : State), s.live = true ∧ avsReg s = some r ∧ s.cmd.accepted = true ∧ s.pwr.vcmd < s.pwr.avs ∧
      (125 ≤ s.pwr.avsTicks ∨ s.tick.running = false)) ∧
    (∃ (r : Nat) (s : State), s.live = true ∧ avsReg s = some r ∧ s.cmd.accepted = true ∧ s.pwr.avs < s.pwr.vcmd ∧
      (125 ≤ s.pwr.avsTicks ∨ s.tick.running = false)) ∧
    (∃ (s : State), s.up = true ∧ 5000 ≤ s.pwr.supAge ∧ s.pwr.supLost = false) ∧
    (∃ (s : State), s.up = true ∧ s.pwr.p2Step.isSome = true) ∧
    (∃ (s : State), s.live = true ∧ s.pwr.p3Exit = true) ∧
    (∃ (s : State), s.live = true ∧ s.pwr.p3Exit = true) :=
  ⟨⟨0, {}, [], live.onReg 0 fun c => { c with cfg := [0x8000, 0x4E2], age := 0x4E2 }, by decide⟩,
   ⟨0, live.onReg 0 fun c => { c with cfg := [0x8000, 0x4E2], age := 0x4E2 }, by decide⟩,
   ⟨{}, live, by decide⟩,
   ⟨live, by decide⟩,
   ⟨{ live with pwr := { live.pwr with avsDue := true, tSum := live.pwr.tSum.set 0 (50, 1), reg := live.pwr.reg.set 0 { cfg := [0x20008000, 0x4E2] } } }, 50, 1, by decide⟩,
   ⟨0, { live with pwr := { live.pwr with avs := 755, reg := live.pwr.reg.set 0 { cfg := [0x20008000, 0x4E2] } } }, by decide⟩,
   ⟨0, { live with pwr := { live.pwr with avs := 745, reg := live.pwr.reg.set 0 { cfg := [0x20008000, 0x4E2] } } }, by decide⟩,
   ⟨{ live with pwr := { live.pwr with supAge := 5000 } }, by decide⟩,
   ⟨{ live with pwr := { live.pwr with p2Step := some 0, p2Due := true } }, by decide⟩,
   ⟨{ live with pwr := { live.pwr with p3Exit := true } }, by decide⟩,
   ⟨{ live with pwr := { live.pwr with p3Exit := true } }, by decide⟩⟩

theorem witness_ResetEventsComplete :
    (∃ (ns : Nat) (s : State), s.rst.unpowered = false ∧ 1000 ≤ ns) ∧
    (∃ (ns : Nat) (s : State), ns < 200) ∧
    (∃ (s : State), s.live = true ∧ s.cmd.resetDue = true) ∧
    (∃ (st : Straps) (s : State), s.rst.held = true ∧ st.testMode = false) ∧
    (∃ (s : State), s.rst.unpowered = false) ∧
    (∃ (s : State), s.rst.unpowered = false) ∧
    (∃ (s : State), s.rst.unpowered = false) ∧
    (∃ (pins : Nat) (shift : Nat) (s : State), s.rst.unpowered = false) ∧
    (∃ (s : State), s.rst.unpowered = false) ∧
    (∃ (s : State), s.rst.unpowered = false) ∧
    (∃ (code : BitVec 8) (s : State), s.rst.unpowered = false ∧ 4 < code.toNat ∧ code ≠ 0x10) ∧
    (∃ (s : State), s.rst.unpowered = false) :=
  ⟨⟨1000, live, by decide⟩,
   ⟨0, live, by decide⟩,
   ⟨{ live with cmd := { live.cmd with resetDue := true } }, by decide⟩,
   ⟨{ bootSel := true }, { live with rst := { live.rst with held := true } }, by decide⟩,
   ⟨live, by decide⟩,
   ⟨live, by decide⟩,
   ⟨live, by decide⟩,
   ⟨0, 0, live, by decide⟩,
   ⟨live, by decide⟩,
   ⟨live, by decide⟩,
   ⟨5, live, by decide⟩,
   ⟨live, by decide⟩⟩

theorem witness_StepRunsFrontCommand :
    (∃ (c : Instr) (q : List Instr) (s : State), s.pending = c :: q) ∧
    (∃ (s : State), s.pending = []) :=
  ⟨⟨.sysNop {} [], [], { live with pending := [.sysNop {} []] }, by decide⟩,
   ⟨live, by decide⟩⟩

theorem witness_BusyUntilTableAccepted :
    ∃ (c : Instr) (op : Nat) (h : CmdHdr) (ws : List Word) (s : State), ringOp c = some (op, h, ws) ∧ s.fwRuns = true ∧ s.cmd.accepted = false ∧
      s.cmd.accepting = false ∧ op / 256 ≠ 0 :=
  ⟨.lineFecCfg {} [0], 0x120, {}, [0], { live with cmd := { live.cmd with accepted := false } }, by decide⟩

theorem witness_NothingRunsWithoutFirmware :
    ∃ (c : Instr) (op : Nat) (h : CmdHdr) (ws : List Word) (s : State), ringOp c = some (op, h, ws) ∧ s.fwRuns = false :=
  ⟨.lineFecCfg {} [0], 0x120, {}, [0], { live with cmd := { live.cmd with boot := .rom } }, by decide⟩

theorem witness_PowerStateP3TurnsCommandsAway :
    ∃ (c : Instr) (op : Nat) (h : CmdHdr) (ws : List Word) (s : State), ringOp c = some (op, h, ws) ∧ s.fwRuns = true ∧ s.cmd.accepted = true ∧
      s.inP3 = true ∧ op / 256 ≠ 0 ∧ op / 256 ≠ 9 ∧ op / 256 ≠ 0xB :=
  ⟨.lineFecCfg {} [0], 0x120, {}, [0], { live with pwr := { live.pwr with st := .p3 } }, by decide⟩

theorem witness_OtherStatusChangesNothing :
    ∃ (c : Instr) (op : Nat) (h : CmdHdr) (ws : List Word) (s : State), ringOp c = some (op, h, ws) ∧ op ≠ 2 ∧ s.fwRuns = true :=
  ⟨.lineFecCfg {} [0], 0x120, {}, [0], live, by decide⟩

theorem witness_LongRunningChecksInOrder :
    ∃ (c : Instr) (op : Nat) (h : CmdHdr) (ws : List Word) (s : State) (sy : State) (rep : Reply) (d : Instr), ringOp c = some (op, h, ws) ∧ op ≠ 2 ∧
      Runs op s ∧ h.async = true ∧ ringOp d = some (op, { h with async := false }, ws) ∧ exec d s = .next sy ∧ sy.cmd.last = some rep :=
  ⟨.sysNop { async := true } [], 0, { async := true }, [], live, _, _, .sysNop {} [], by decide, by decide, by decide, by decide, by decide, rfl, rfl⟩

theorem witness_StagingChangesNothingInForce :
    ∃ (c : Instr) (op : Nat) (h : CmdHdr) (ws : List Word) (s : State) (t : State), ringOp c = some (op, h, ws) ∧ op ∈ stagingOps ∧ exec c s = .next t :=
  ⟨.lineFecCfg {} [0], 0x120, {}, [0], live, _, by decide, by decide, rfl⟩

theorem witness_ReadingCommandsChangeNothing :
    ∃ (c : Instr) (op : Nat) (h : CmdHdr) (ws : List Word) (s : State) (t : State), ringOp c = some (op, h, ws) ∧ op ∈ readingOps ∧ exec c s = .next t :=
  ⟨.sysNop {} [], 0, {}, [], live, _, by decide, by decide, rfl⟩

theorem witness_StagedItemIsBusy :
    (∃ (h : CmdHdr) (ws : List Word) (s : State), h.async = false ∧ Runs 0x0981 s ∧ ws.length = 1 ∧ onlyBits (wd ws 0) 0xF3 ∧
      (s.isStaged .logCfg (0) = true)) ∧
    (∃ (h : CmdHdr) (ws : List Word) (s : State), h.async = false ∧ Runs 0x0101 s ∧ ws.length = 9 ∧ onlyBits (wd ws 0) 1 ∧ opticsValid (ws.drop 1) ∧
      (s.cv (fld (wd ws 0) 0 0)).tx = .off ∧ (s.cv (fld (wd ws 0) 0 0)).rx = .off ∧ (s.isStaged .convEntry (fld (wd ws 0) 0 0) = true)) ∧
    (∃ (h : CmdHdr) (ws : List Word) (s : State), h.async = false ∧ Runs 0x0105 s ∧ ws.length = 1 ∧ onlyBits (wd ws 0) 0x17F31 ∧ fld (wd ws 0) 14 8 ≤ 64 ∧
      flag (wd ws 0) 16 = true ∧ (s.cv (fld (wd ws 0) 0 0)).rx = .off ∧ (s.isStaged .slice (adcQual (fld (wd ws 0) 0 0) (fld (wd ws 0) 5 4)) = true)) ∧
    (∃ (h : CmdHdr) (ws : List Word) (s : State), h.async = false ∧ Runs 0x0110 s ∧ ws.length = 2 ∧ onlyBits (wd ws 0) 0xFF03F301 ∧
      fld (wd ws 0) 31 24 ≤ 17 ∧ 11 ≤ fld (wd ws 0) 17 12 ∧ fld (wd ws 0) 17 12 ≤ 40 ∧ 2197 + 128 * fld (wd ws 0) 31 24 ≤ 200 * fld (wd ws 0) 17 12 ∧
      onlyBits (wd ws 1) 0xFFFF ∧ 32 ≤ fld (wd ws 1) 15 0 ∧ fld (wd ws 1) 15 0 ≤ 1024 ∧ (s.cv (fld (wd ws 0) 0 0)).tx = .off ∧
      (s.cv (fld (wd ws 0) 0 0)).rx = .off ∧ (s.isStaged .scCfg (fld (wd ws 0) 0 0) = true)) ∧
    (∃ (h : CmdHdr) (ws : List Word) (s : State), h.async = false ∧ Runs 0x0113 s ∧ ws.length = 4 ∧ onlyBits (wd ws 0) 0xFFFF3F01 ∧
      1 ≤ fld (wd ws 0) 31 21 ∧ fld (wd ws 0) 31 21 ≤ 1024 ∧ 1 ≤ fld (wd ws 0) 13 8 ∧ -320000 ≤ sword (wd ws 1) ∧ sword (wd ws 1) ≤ 320000 ∧
      1000 ≤ (wd ws 2).toNat ∧ (wd ws 2).toNat ≤ 320000 ∧ onlyBits (wd ws 3) 0xFFFF ∧ fld (wd ws 3) 15 8 < fld (wd ws 3) 7 0 ∧
      (s.isStaged .rxCfg (fld (wd ws 0) 0 0) = true)) ∧
    (∃ (h : CmdHdr) (ws : List Word) (s : State), h.async = false ∧ Runs 0x0114 s ∧ ws.length = 1 ∧ onlyBits (wd ws 0) 1 ∧
      ((s.ds (fld (wd ws 0) 0 0)).rxd = .scAcq ∨ (s.ds (fld (wd ws 0) 0 0)).rxd = .run) ∧ (s.isStaged .rxAcq (fld (wd ws 0) 0 0) = true)) ∧
    (∃ (h : CmdHdr) (ws : List Word) (s : State), h.async = false ∧ Runs 0x0120 s ∧ ws.length = 1 ∧ onlyBits (wd ws 0) 0xFFFFFFF1 ∧
      1024 ≤ fld (wd ws 0) 31 16 ∧ fld (wd ws 0) 31 16 ≤ 11520 ∧ 4 ≤ fld (wd ws 0) 15 8 ∧ fld (wd ws 0) 15 8 ≤ 32 ∧
      (fld (wd ws 0) 5 4 = (s.fr (fld (wd ws 0) 0 0)).txRate ∨ (s.cv (fld (wd ws 0) 0 0)).tx = .off) ∧
      (fld (wd ws 0) 7 6 = (s.fr (fld (wd ws 0) 0 0)).rxRate ∨ (s.cv (fld (wd ws 0) 0 0)).rx = .off) ∧
      (s.isStaged .fecCfg (fld (wd ws 0) 0 0) = true)) ∧
    (∃ (h : CmdHdr) (ws : List Word) (s : State), h.async = false ∧ Runs 0x0121 s ∧ ws.length = 17 ∧ onlyBits (wd ws 0) 1 ∧
      (s.isStaged .hdrMsg (fld (wd ws 0) 0 0) = true)) ∧
    (∃ (h : CmdHdr) (ws : List Word) (s : State), h.async = false ∧ Runs 0x0202 s ∧ ws.length = 1 ∧ onlyBits (wd ws 0) 0x7F0F0C73 ∧
      fld (wd ws 0) 11 10 ≠ 3 ∧ fld (wd ws 0) 6 4 ≤ 4 ∧ laneOwner s (fld (wd ws 0) 19 16) = none ∧ laneClaimed s (fld (wd ws 0) 19 16) = false ∧
      (s.isStaged .laneRaw (fld (wd ws 0) 19 16) = true)) ∧
    (∃ (h : CmdHdr) (ws : List Word) (s : State), h.async = false ∧ Runs 0x0212 s ∧ ws.length = 1 ∧ onlyBits (wd ws 0) 0x8F8F ∧
      (s.isStaged .refSel (0) = true)) ∧
    (∃ (h : CmdHdr) (ws : List Word) (s : State), h.async = false ∧ Runs 0x0213 s ∧ ws.length = 3 ∧ onlyBits (wd ws 0) 7 ∧ -20000 ≤ sword (wd ws 1) ∧
      sword (wd ws 1) ≤ 20000 ∧ -20000 ≤ sword (wd ws 2) ∧ sword (wd ws 2) ≤ 20000 ∧ (s.isStaged .tsAdj (fld (wd ws 0) 2 0) = true)) ∧
    (∃ (h : CmdHdr) (ws : List Word) (s : State) (k : BitVec 64), k = keyWord (fld (wd ws 0) 2 0) (fld (wd ws 0) 26 24) ((wd ws 1).toNat + 2 ^ 32 * fld (wd ws 2) 15 0) ∧
      h.async = false ∧ Runs 0x0220 s ∧ ws.length = 4 ∧ onlyBits (wd ws 0) 0x87000007 ∧ 1 ≤ fld (wd ws 0) 26 24 ∧ fld (wd ws 0) 26 24 ≤ 5 ∧
      (wd ws 1).toNat < 2 ^ keyWidth (fld (wd ws 0) 26 24) ∧ (wd ws 1).toNat + 2 ^ 32 * fld (wd ws 2) 15 0 < 2 ^ keyWidth (fld (wd ws 0) 26 24) ∧
      onlyBits (wd ws 2) 0xFFFF ∧ onlyBits (wd ws 3) 0x1FFF ∧ flag (wd ws 0) 31 = false ∧
      ((keyLookup s k).isSome = true ∨ bucketLoad s (bucketOf k) < 4) ∧ (s.isStaged .key (k.toNat) = true)) ∧
    (∃ (h : CmdHdr) (ws : List Word) (s : State), h.async = false ∧ Runs 0x0311 s ∧ ws.length = 1 ∧ onlyBits (wd ws 0) 0x1FFF ∧ s.nut.zeroising = none ∧
      (s.sa (fld (wd ws 0) 12 0)).txNxt.valid = true ∧ slotNow s (fld (wd ws 0) 12 0) = false ∧ (s.isStaged .sa (fld (wd ws 0) 12 0) = true)) ∧
    (∃ (h : CmdHdr) (ws : List Word) (s : State), h.async = false ∧ Runs 0x0312 s ∧ ws.length = 1 ∧ onlyBits (wd ws 0) 0x1FFF ∧ s.nut.zeroising = none ∧
      (s.sa (fld (wd ws 0) 12 0)).rxNxt.valid = true ∧ (s.isStaged .sa (fld (wd ws 0) 12 0) = true)) ∧
    (∃ (h : CmdHdr) (ws : List Word) (s : State), h.async = false ∧ Runs 0x0313 s ∧ ws.length = 1 ∧ onlyBits (wd ws 0) 0x31FFF ∧ fld (wd ws 0) 17 16 ≠ 3 ∧
      s.nut.zeroising = none ∧ (s.isStaged .sa (fld (wd ws 0) 12 0) = true)) ∧
    (∃ (h : CmdHdr) (ws : List Word) (s : State), h.async = false ∧ Runs 0x0315 s ∧ ws.length = 3 ∧ onlyBits (wd ws 0) 0x1FFF ∧ s.nut.zeroising = none ∧
      (s.sa (fld (wd ws 0) 12 0)).txCur.valid = true ∧ (s.sa (fld (wd ws 0) 12 0)).txCur.pn < ofLohi (wd ws 1) (wd ws 2) ∧
      (s.isStaged .sa (fld (wd ws 0) 12 0) = true)) ∧
    (∃ h : CmdHdr, ∃ ws : List Word, ∃ s : State, ∃ b, h.async = false ∧ Runs 0x0403 s ∧ ws.length = 3 ∧ onlyBits (wd ws 0) 0xC0011FFF ∧
      fld (wd ws 0) 31 30 = 0 ∧ (s.mg (fld (wd ws 0) 12 0)).ringU = 0 ∧ onlyBits (wd ws 1) 0x3FFFFF ∧ fld (wd ws 1) 21 0 ≠ 0 ∧
      onlyBits (wd ws 2) 0xFFFF ∧ 3 ≤ fld (wd ws 2) 15 0 ∧ (s.sett.st = .ready ∨ s.cmd.accepting = true) ∧
      (s.isStaged .merge (fld (wd ws 0) 12 0) = true) ∧ firstFit s (fld (wd ws 1) 21 0) = some b) ∧
    (∃ (h : CmdHdr) (ws : List Word) (s : State), h.async = false ∧ Runs 0x0406 s ∧ ws.length = 5 ∧ onlyBits (wd ws 0) 0x1FFF000F ∧
      fld (wd ws 0) 2 0 ≤ 5 ∧ onlyBits (wd ws 1) 0x01FF0003 ∧ fld (wd ws 1) 1 0 ≤ 2 ∧ onlyBits (wd ws 4) 0x07FFFFFF ∧
      (s.sett.st = .ready ∨ s.cmd.accepting = true) ∧ (s.sett.cap = .idle ∨ s.sett.cap = .done) ∧ (s.isStaged .capCfg (0) = true)) ∧
    (∃ (h : CmdHdr) (ws : List Word) (s : State), h.async = false ∧ Runs 0x0407 s ∧ ws.length = 1 ∧ onlyBits (wd ws 0) 3 ∧
      (s.sett.st = .ready ∨ s.cmd.accepting = true) ∧ (s.isStaged .capArm (0) = true)) ∧
    (∃ (h : CmdHdr) (ws : List Word) (s : State), h.async = false ∧ Runs 0x0501 s ∧ ws.length = 1 ∧ onlyBits (wd ws 0) 0x8001FFFF ∧
      14 ≤ fld (wd ws 0) 16 0 ∧ fld (wd ws 0) 16 0 ≤ 86400 ∧ (s.isStaged .scrub (0) = true)) ∧
    (∃ (h : CmdHdr) (ws : List Word) (s : State), h.async = false ∧ Runs 0x0601 s ∧ ws.length = 4 ∧ onlyBits (wd ws 0) 0xF07F0007 ∧ (refPps ws = true →
      fld (wd ws 0) 2 0 < 4) ∧ bwOk (refPps ws) (refBw ws) = true ∧ (refPrio ws = 0 → s.tim.mode = 1 ∨ s.tim.mode = 2 →
      fld (wd ws 0) 2 0 ≠ s.tim.selRef) ∧ onlyBits (wd ws 1) 0x3FFFFFFF ∧ (refPps ws = true ∨ 4 ≤ fld (wd ws 0) 2 0 ∨ 1000 ≤ refNom ws ∧
      refNom ws ≤ 800000000) ∧ -1000000 ≤ refDelay ws ∧ refDelay ws ≤ 1000000 ∧ onlyBits (wd ws 3) 0x3FFF ∧ 1 ≤ fld (wd ws 3) 13 0 ∧
      fld (wd ws 3) 13 0 ≤ 10000 ∧ (s.isStaged .ref (fld (wd ws 0) 2 0) = true)) ∧
    (∃ (h : CmdHdr) (ws : List Word) (s : State) (t : TimS), t = { s.tim with cfg := ws } ∧ h.async = false ∧ Runs 0x0602 s ∧ ws.length = 4 ∧
      onlyBits (wd ws 0) 0xC70003FF ∧ 1 ≤ t.wtr ∧ t.wtr ≤ 600 ∧ (t.mode = 1 ∨ t.mode = 2 → (s.ref t.selRef).prio ≠ 0) ∧ 10 ≤ fld (wd ws 1) 31 16 ∧
      fld (wd ws 1) 31 16 ≤ 5000 ∧ 10 ≤ fld (wd ws 1) 15 0 ∧ fld (wd ws 1) 15 0 ≤ 10000 ∧ 10 ≤ t.window ∧ t.window ≤ 900 ∧ t.guardSec ≤ 120 ∧
      onlyBits (wd ws 3) 0xFFFF01FF ∧ 1 ≤ t.slewRate ∧ t.slewRate ≤ 10000 ∧ t.xoPpm ≤ 50 ∧ (s.cmd.accepting = true ∨ t.ocxoEn = s.tim.ocxoEn) ∧
      (s.isStaged .dpll (0) = true)) ∧
    (∃ (h : CmdHdr) (ws : List Word) (s : State), h.async = false ∧ Runs 0x0603 s ∧ ws.length = 7 ∧ timeSetBad s ws = none ∧
      (fld (wd ws 0) 1 0 = 2 ∨ 8 ≤ s.tim.sel ∨ (s.ref s.tim.sel).pps = false ∨ (s.tim.st ≠ .acquire ∧ s.tim.st ≠ .locked ∧ s.tim.st ≠ .switch)) ∧
      (s.isStaged .timeSet (0) = true)) ∧
    (∃ (h : CmdHdr) (ws : List Word) (s : State), h.async = false ∧ Runs 0x0604 s ∧ ws.length = 5 ∧ onlyBits (wd ws 0) 0xE0070007 ∧
      fld (wd ws 0) 2 0 ≤ 5 ∧ outSquelch ws ≠ 3 ∧ (fld (wd ws 0) 2 0 < 4 ∨ outSrc ws ≤ 4 ∧ (outSrc ws = 0 ∨ (s.ref (outSrc ws - 1)).pps = true)) ∧
      -62500000000 ≤ signed 37 (fld (wd ws 1) 31 0 + 2 ^ 32 * fld (wd ws 2) 4 0) ∧
      signed 37 (fld (wd ws 1) 31 0 + 2 ^ 32 * fld (wd ws 2) 4 0) ≤ 62500000000 ∧ onlyBits (wd ws 2) 0xFFFFF01F ∧ 1 ≤ fld (wd ws 2) 31 12 ∧
      fld (wd ws 2) 31 12 ≤ 500000 ∧ onlyBits (wd ws 3) 0xFFFFFF ∧ onlyBits (wd ws 4) 0xFFFFFF ∧ fld (wd ws 4) 23 0 ≠ 0 ∧
      1000 * fld (wd ws 4) 23 0 ≤ 1600000000 * fld (wd ws 3) 23 0 ∧ 1600000000 * fld (wd ws 3) 23 0 ≤ 800000000 * fld (wd ws 4) 23 0 ∧
      (s.isStaged .out (fld (wd ws 0) 2 0) = true)) ∧
    (∃ (h : CmdHdr) (ws : List Word) (s : State), h.async = false ∧ Runs 0x0C02 s ∧ ws.length = 2 ∧ (sword (wd ws 0)).natAbs ≤ 100000 ∧
      (sword (wd ws 1)).natAbs ≤ 100000 ∧ (s.isStaged .chainAsym (0) = true)) ∧
    (∃ (h : CmdHdr) (ws : List Word) (s : State) (m : MartenL), m = { cfg := ws } ∧ h.async = false ∧ Runs 0x0701 s ∧ ws.length = 7 ∧
      onlyBits (wd ws 0) 0x1FFFF031 ∧ 125 ≤ m.ttAvg ∧ m.ttAvg ≤ 125000 ∧ m.mode ≠ 3 ∧ (m.fTx = 0 ∨ 185000000 ≤ m.fTx ∧ m.fTx ≤ 200000000) ∧
      onlyBits (wd ws 2) 0x3FFFF ∧ m.txPath ≤ 200000 ∧ onlyBits (wd ws 3) 0x3FFFF ∧ m.rxPath ≤ 200000 ∧ m.asymCal.natAbs ≤ 100000000 ∧
      onlyBits (wd ws 5) 0xFFFF0FFF ∧ 16 ≤ m.driftAvg ∧ onlyBits (wd ws 6) 0xFFFF ∧ 10 ≤ m.jumpThr ∧ m.jumpThr ≤ 10000 ∧
      (s.isStaged .martenLine (fld (wd ws 0) 0 0) = true)) ∧
    (∃ (h : CmdHdr) (ws : List Word) (s : State), h.async = false ∧ Runs 0x0702 s ∧ (ws.length = 2 ∨ ws.length = 4) ∧ onlyBits (wd ws 0) 1 ∧
      (sword (wd ws 1)).natAbs ≤ 100000000 ∧ (ws.getD 2 0x80000000 = 0x80000000 ↔ ws.getD 3 0x80000000 = 0x80000000) ∧
      ((s.ml (fld (wd ws 0) 0 0)).mode = 2 ∨ ws.getD 2 0x80000000 = 0x80000000) ∧ (s.isStaged .martenLine (fld (wd ws 0) 0 0) = true)) ∧
    (∃ (h : CmdHdr) (ws : List Word) (s : State), h.async = false ∧ Runs 0x0703 s ∧ ws.length = 1 ∧ onlyBits (wd ws 0) 0x00FF0107 ∧
      steerSrc (wd ws 0) ≤ 5 ∧ deadBand (wd ws 0) ≤ 100 ∧ (s.isStaged .steer (0) = true)) ∧
    (∃ (h : CmdHdr) (ws : List Word) (s : State), h.async = false ∧ Runs 0x0704 s ∧ ws.length = 1 ∧ onlyBits (wd ws 0) 0xFCFF3307 ∧
      -7 ≤ sfld (wd ws 0) 31 28 ∧ sfld (wd ws 0) 31 28 ≤ 0 ∧ fld (wd ws 0) 27 26 ≠ 3 ∧ fld (wd ws 0) 13 12 ≤ 1 ∧
      (s.isStaged .ptp (fld (wd ws 0) 2 0) = true)) ∧
    (∃ (h : CmdHdr) (ws : List Word) (s : State) (m : MartenL), m = { mc := ws } ∧ h.async = false ∧ Runs 0x0705 s ∧ ws.length = 2 ∧
      onlyBits (wd ws 0) 0x00FFFF31 ∧ 10 ≤ m.capMargin ∧ m.capMargin ≤ 200 ∧ (m.role = 0 ∨ (s.ds (fld (wd ws 0) 0 0)).mcEn = true ∧
      (s.ml (fld (wd ws 0) 0 0)).role = 0) ∧ 1 ≤ m.mcAvg ∧ m.mcAvg ≤ 1024 ∧ 8 ≤ m.period ∧ m.period ≤ 12500 ∧ (m.role = 3 →
      (s.cv (fld (wd ws 0) 0 0)).tx = .off) ∧ (s.isStaged .mc (fld (wd ws 0) 0 0) = true)) ∧
    (∃ (h : CmdHdr) (ws : List Word) (s : State), h.async = false ∧ Runs 0x0801 s ∧ ws.length = 1 ∧ onlyBits (wd ws 0) 0x31F ∧
      (s.isStaged .chan (fld (wd ws 0) 4 0) = true)) ∧
    (∃ (h : CmdHdr) (ws : List Word) (s : State), h.async = false ∧ Runs 0x0802 s ∧ ws.length = 10 ∧ seqOk ws ∧
      (s.isStaged .seq (fld (wd ws 0) 31 31) = true)) ∧
    (∃ (h : CmdHdr) (ws : List Word) (s : State), h.async = false ∧ Runs 0x0805 s ∧ ws.length = 3 ∧ onlyBits (wd ws 0) 0xFFFFFF3F ∧
      fld (wd ws 0) 31 16 ≠ 0 ∧ fld (wd ws 0) 13 8 < 48 ∧ onlyBits (wd ws 1) 0x0FFFFFFF ∧ onlyBits (wd ws 2) 0x00FFFFFF ∧
      (s.isStaged .det (fld (wd ws 0) 3 0) = true)) ∧
    (∃ (h : CmdHdr) (ws : List Word) (s : State), h.async = false ∧ Runs 0x0806 s ∧ ws.length = 1 ∧ onlyBits (wd ws 0) 0x1FF30FFF ∧
      fld (wd ws 0) 17 16 ≠ 3 ∧ (s.isStaged .tdac (0) = true)) ∧
    (∃ (h : CmdHdr) (ws : List Word) (s : State), h.async = false ∧ Runs 0x0807 s ∧ ws.length = 6 ∧ biasOk ws ∧
      (s.isStaged .bias (fld (wd ws 0) 3 0) = true)) ∧
    (∃ (h : CmdHdr) (ws : List Word) (s : State), h.async = false ∧ Runs 0x0808 s ∧ ws.length = 1 ∧ onlyBits (wd ws 0) 0xFFFF000F ∧
      (s.clv.bias.get (fld (wd ws 0) 3 0)).min ≤ fld (wd ws 0) 31 16 ∧ fld (wd ws 0) 31 16 ≤ (s.clv.bias.get (fld (wd ws 0) 3 0)).max ∧
      (s.clv.bias.get (fld (wd ws 0) 3 0)).target = 0 ∧ (s.isStaged .bias (fld (wd ws 0) 3 0) = true)) ∧
    (∃ (h : CmdHdr) (ws : List Word) (s : State), h.async = false ∧ Runs 0x0809 s ∧ ws.length = 1 ∧ onlyBits (wd ws 0) 0x800F3FFF ∧
      125 ≤ fld (wd ws 0) 13 0 ∧ fld (wd ws 0) 13 0 ≤ 12500 ∧ (s.isStaged .cloveCal (0) = true)) ∧
    (∃ (h : CmdHdr) (ws : List Word) (s : State) (c : CntS), c = { dumpCfg := ws } ∧ h.async = false ∧ Runs 0x0A04 s ∧ ws.length = 5 ∧
      onlyBits (wd ws 0) 0x80FF0000 ∧ 2 ≤ c.nbuf ∧ onlyBits (wd ws 1) 0x00FFFFFF ∧ 16 ≤ c.period ∧ onlyBits (wd ws 2) 0x1FFF0FFF ∧ 1 ≤ c.count ∧
      c.count ≤ 4096 ∧ c.first + c.count ≤ 4096 ∧ fld (wd ws 3) 11 0 = 0 ∧ (s.isStaged .dumpCfg (0) = true)) ∧
    (∃ (h : CmdHdr) (ws : List Word) (s : State), h.async = false ∧ Runs 0x0B01 s ∧ ws.length = 1 ∧ onlyBits (wd ws 0) 0x13 ∧ s.pwr.changing = false ∧
      (pwrOf (fld (wd ws 0) 1 0) ≠ s.pwr.st ∨ pwrOf (fld (wd ws 0) 1 0) = .p1 ∧ fld (wd ws 0) 4 4 ≠ s.pwr.p1Line) ∧ s.pwr.st ≠ .p3 ∧
      (s.isStaged .pwrState (0) = true)) ∧
    (∃ (h : CmdHdr) (ws : List Word) (s : State), h.async = false ∧ Runs 0x0B03 s ∧ ws.length = 1 ∧ onlyBits (wd ws 0) 0xF ∧ -5 ≤ sfld (wd ws 0) 3 0 ∧
      sfld (wd ws 0) 3 0 ≤ 5 ∧ (s.isStaged .avs (0) = true)) ∧
    (∃ (h : CmdHdr) (ws : List Word) (s : State), h.async = false ∧ Runs 0x0B04 s ∧ ws.length = 2 ∧ onlyBits (wd ws 0) 0x8000FFFF ∧
      80 ≤ fld (wd ws 0) 7 0 ∧ fld (wd ws 0) 7 0 ≤ 105 ∧ 100 ≤ fld (wd ws 0) 15 8 ∧ fld (wd ws 0) 15 8 ≤ 115 ∧ onlyBits (wd ws 1) 0xFFFF ∧
      100 ≤ fld (wd ws 1) 15 0 ∧ fld (wd ws 1) 15 0 ≤ 1500 ∧ (s.isStaged .policy (0) = true)) ∧
    (∃ (h : CmdHdr) (ws : List Word) (s : State), h.async = false ∧ Runs 0x0B05 s ∧ ws.length = 1 ∧ onlyBits (wd ws 0) 0xF0F ∧
      (s.isStaged .pin (0) = true)) :=
  ⟨⟨{}, [0], (live).stage .logCfg (0) 0 [], by decide⟩,
   ⟨{}, [0, 0, 0, 0, 0, 0, 0, 0, 0], (live).stage .convEntry (fld (wd [0, 0, 0, 0, 0, 0, 0, 0, 0] 0) 0 0) 0 [], by decide⟩,
   ⟨{}, [0x10000], (live).stage .slice (adcQual (fld (wd [0x10000] 0) 0 0) (fld (wd [0x10000] 0) 5 4)) 0 [], by decide⟩,
   ⟨{}, [0x11018100, 0x40], (live).stage .scCfg (fld (wd [0x11018100, 0x40] 0) 0 0) 0 [], by decide⟩,
   ⟨{}, [0xfa00400, 0, 0x4e200, 0x1e3c], (live).stage .rxCfg (fld (wd [0xfa00400, 0, 0x4e200, 0x1e3c] 0) 0 0) 0 [], by decide⟩,
   ⟨{}, [0], (live.onDsp 0 fun c => { c with rxd := .run }).stage .rxAcq (fld (wd [0] 0) 0 0) 0 [], by decide⟩,
   ⟨{}, [0x2d0014f0], (live).stage .fecCfg (fld (wd [0x2d0014f0] 0) 0 0) 0 [], by decide⟩,
   ⟨{}, [0, 0, 0, 0, 0, 0, 0, 0, 0, 0, 0, 0, 0, 0, 0, 0, 0], (live).stage .hdrMsg (fld (wd [0, 0, 0, 0, 0, 0, 0, 0, 0, 0, 0, 0, 0, 0, 0, 0, 0] 0) 0 0) 0 [], by decide⟩,
   ⟨{}, [0], (live).stage .laneRaw (fld (wd [0] 0) 19 16) 0 [], by decide⟩,
   ⟨{}, [0], (live).stage .refSel (0) 0 [], by decide⟩,
   ⟨{}, [0, 0, 0], (live).stage .tsAdj (fld (wd [0, 0, 0] 0) 2 0) 0 [], by decide⟩,
   ⟨{}, [0x1000000, 0, 0, 0], (live).stage .key ((keyWord (fld (wd [0x1000000, 0, 0, 0] 0) 2 0) (fld (wd [0x1000000, 0, 0, 0] 0) 26 24) ((wd [0x1000000, 0, 0, 0] 1).toNat + 2 ^ 32 * fld (wd [0x1000000, 0, 0, 0] 2) 15 0)).toNat) 0 [], _, rfl, by decide +kernel⟩,
   ⟨{}, [0], (live.onSa 0 fun c => { c with txNxt := { valid := true } }).stage .sa (fld (wd [0] 0) 12 0) 0 [], by decide⟩,
   ⟨{}, [0], (live.onSa 0 fun c => { c with rxNxt := { valid := true } }).stage .sa (fld (wd [0] 0) 12 0) 0 [], by decide⟩,
   ⟨{}, [0], (live).stage .sa (fld (wd [0] 0) 12 0) 0 [], by decide⟩,
   ⟨{}, [0, 1, 0], (live.onSa 0 fun c => { c with txCur := { valid := true } }).stage .sa (fld (wd [0, 1, 0] 0) 12 0) 0 [], by decide⟩,
   ⟨{}, [0, 1, 3], (live).stage .merge (fld (wd [0, 1, 3] 0) 12 0) 0 [], 0, by decide⟩,
   ⟨{}, [0, 0, 0, 0, 0], (live).stage .capCfg (0) 0 [], by decide⟩,
   ⟨{}, [0], (live).stage .capArm (0) 0 [], by decide⟩,
   ⟨{}, [0xe], (live).stage .scrub (0) 0 [], by decide⟩,
   ⟨{}, [0x10040000, 0x989680, 0, 0x64], (live).stage .ref (fld (wd [0x10040000, 0x989680, 0, 0x64] 0) 2 0) 0 [], by decide⟩,
   ⟨{}, [0xa, 0x1cc03e8, 0x12c003c, 0x3e80032], (live).stage .dpll (0) 0 [], _, rfl, by decide⟩,
   ⟨{}, [0, 0, 0, 0, 0, 0, 0], (live).stage .timeSet (0) 0 [], by decide⟩,
   ⟨{}, [0x20000000, 0, 0x64000, 1, 0xa0], (live).stage .out (fld (wd [0x20000000, 0, 0x64000, 1, 0xa0] 0) 2 0) 0 [], by decide⟩,
   ⟨{}, [0, 0], (live).stage .chainAsym (0) 0 [], by decide⟩,
   ⟨{}, [0x30d4000, 0, 0, 0, 0, 0xf7040e10, 0x64], (live).stage .martenLine (fld (wd [0x30d4000, 0, 0, 0, 0, 0xf7040e10, 0x64] 0) 0 0) 0 [], _, rfl, by decide⟩,
   ⟨{}, [0, 0], (live).stage .martenLine (fld (wd [0, 0] 0) 0 0) 0 [], by decide⟩,
   ⟨{}, [0], (live).stage .steer (0) 0 [], by decide⟩,
   ⟨{}, [0], (live).stage .ptp (fld (wd [0] 0) 2 0) 0 [], by decide⟩,
   ⟨{}, [0x3c0000, 0x64007d], (live).stage .mc (fld (wd [0x3c0000, 0x64007d] 0) 0 0) 0 [], _, rfl, by decide⟩,
   ⟨{}, [0], (live).stage .chan (fld (wd [0] 0) 4 0) 0 [], by decide⟩,
   ⟨{}, [0, 0, 0, 0, 0, 0, 0, 0, 0, 0], (live).stage .seq (fld (wd [0, 0, 0, 0, 0, 0, 0, 0, 0, 0] 0) 31 31) 0 [], by decide⟩,
   ⟨{}, [0x10000, 0, 0], (live).stage .det (fld (wd [0x10000, 0, 0] 0) 3 0) 0 [], by decide⟩,
   ⟨{}, [0], (live).stage .tdac (0) 0 [], by decide⟩,
   ⟨{}, [0x400, 0xffff0000, 0x8000, 0x800000, 0x1000010, 0], (live).stage .bias (fld (wd [0x400, 0xffff0000, 0x8000, 0x800000, 0x1000010, 0] 0) 3 0) 0 [], by decide⟩,
   ⟨{}, [0], (live).stage .bias (fld (wd [0] 0) 3 0) 0 [], by decide⟩,
   ⟨{}, [0x800404e2], (live).stage .cloveCal (0) 0 [], by decide⟩,
   ⟨{}, [0x80020000, 0x10, 0x10000, 0, 0], (live).stage .dumpCfg (0) 0 [], _, rfl, by decide⟩,
   ⟨{}, [1], (live).stage .pwrState (0) 0 [], by decide⟩,
   ⟨{}, [0], (live).stage .avs (0) 0 [], by decide⟩,
   ⟨{}, [0x80006e64, 0x398], (live).stage .policy (0) 0 [], by decide⟩,
   ⟨{}, [0], (live).stage .pin (0) 0 [], by decide⟩⟩

theorem witness_IdcodeFields :
    ∃ (s : State), s.rst.unpowered = false :=
  ⟨live, by decide⟩

theorem witness_SecondFunctionChangesNothing :
    (∃ (addr : BitVec 26) (val : Word) (s : State), s.live = true) ∧
    (∃ (addr : BitVec 26) (s : State), s.live = true ∧ pf0Only addr.toNat = true) ∧
    (∃ (addr : BitVec 26) (s : State), s.live = true ∧ pf0Only addr.toNat = false ∧ rsGroup s addr.toNat = none) ∧
    (∃ (addr : BitVec 26) (s : State) (t : State), exec (.rsLowWordRead true addr) s = .next t) :=
  ⟨⟨0, 0, live, by decide⟩,
   ⟨0x1000000, live, by decide⟩,
   ⟨0, live, by decide⟩,
   ⟨0, live, _, rfl⟩⟩

theorem witness_SnapshotHoldsTheWideRegister :
    (∃ (pf1 : Bool) (addr : BitVec 26) (n : Nat) (s : State), s.live = true ∧ (pf1 && pf0Only addr.toNat) = false ∧
      rsGroup s addr.toNat = some (addr.toNat % 0x100000, n) ∧ 0 < n) ∧
    (∃ (pf1 : Bool) (addr : BitVec 26) (lo : Nat) (n : Nat) (s : State), s.live = true ∧ (pf1 && pf0Only addr.toNat) = false ∧
      rsGroup s addr.toNat = some (lo, n) ∧ addr.toNat % 0x100000 ≠ lo) :=
  ⟨⟨false, 0x10, 2, live, by decide⟩,
   ⟨false, 0x14, 0x10, 2, live, by decide⟩⟩

theorem witness_KeyStagingIsZeroised :
    (∃ (x : Fin 9) (val : Word) (s : State) (t : State), s.up = true ∧ exec (.nutKeyStageWrite x val) s = .next t) ∧
    (∃ (val : Word) (s : State) (t : State), s.up = true ∧ flag val 31 = true ∧ exec (.nutKeyGo val) s = .next t) ∧
    (∃ (s : State), s.nut.wrMask ≠ 0 ∧ s.nut.stageTicks < 125) ∧
    (∃ (s : State) (t : State), s.up = true ∧ 125 ≤ s.nut.stageTicks ∧ exec .keyStagingTimeout s = .next t ∧ s.nut.wrMask ≠ 0) ∧
    (∃ (c : Instr) (s : State) (t : State), (c = .powerOnReset ∨ c = .railPowerDown ∨ c = .jtagDevReset ∧ s.rst.unpowered = false ∨ c = .cmdDeviceReset ∧
      s.live = true ∧ s.cmd.resetDue = true ∨ (∃ ns, c = .resetPin ns ∧ 1000 ≤ ns ∧ s.rst.unpowered = false)) ∧ exec c s = .next t) :=
  ⟨⟨0, 0, live, _, by decide, rfl⟩,
   ⟨0x80000000, live, _, by decide, by decide, rfl⟩,
   ⟨{ live with nut := { live.nut with wrMask := 1 } }, by decide⟩,
   ⟨{ live with nut := { live.nut with wrMask := 1, stageTicks := 125 } }, _, by decide, by decide, rfl, by decide⟩,
   ⟨.powerOnReset, live, _, .inl rfl, rfl⟩⟩

theorem witness_DumpsNeedAFreeBuffer :
    (∃ (s : State), s.cnt.dumpEn = true ∧ (s.cnt.dump = .idle ∨ s.cnt.dump = .writing) ∧ s.tick.num % max s.cnt.period 1 = 0 ∧ s.cnt.buf = none ∧
      (s.cnt.seq + 2 ^ 32 - s.cnt.head) % 2 ^ 32 < s.cnt.nbuf) ∧
    (∃ (s : State), s.cnt.dumpEn = true ∧ (s.cnt.dump = .idle ∨ s.cnt.dump = .writing) ∧ s.tick.num % max s.cnt.period 1 = 0 ∧
      (s.cnt.buf.isSome = true ∨ s.cnt.nbuf ≤ (s.cnt.seq + 2 ^ 32 - s.cnt.head) % 2 ^ 32)) ∧
    (∃ (s : State), (s.cnt.dumpEn = false ∨ s.cnt.dump = .off ∨ s.cnt.dump = .stopped ∨ s.tick.num % max s.cnt.period 1 ≠ 0)) ∧
    (∃ (val : Word) (s : State), s.up = true) ∧
    (∃ (s : State), s.cnt.buf.isSome = true) :=
  ⟨⟨{ live with cnt := { live.cnt with dumpCfg := [0x80020000, 16, 0x10000, 0], dump := .idle } }, by decide⟩,
   ⟨{ live with cnt := { live.cnt with dumpCfg := [0x80020000, 16, 0x10000, 0], dump := .idle, seq := 2 } }, by decide⟩,
   ⟨live, by decide⟩,
   ⟨0, live, by decide⟩,
   ⟨{ live with cnt := { live.cnt with buf := some [] } }, by decide⟩⟩

theorem witness_RaisesOfAPendingSource :
    (∃ (fs : Fin 512) (s : State), s.live = true ∧ fsRaises fs = true ∧ s.flt.pend.getLsbD fs = true) ∧
    (∃ (fs : Fin 512) (s : State), s.live = true ∧ fsRaises fs = true ∧ s.flt.pend.getLsbD fs = false ∧ fld (s.flt.word fs) 1 0 = 2) :=
  ⟨⟨0, { live with flt := { live.flt with pend := 1 } }, by decide +kernel⟩,
   ⟨0, live, by decide +kernel⟩⟩

theorem witness_MaskedVectorWaits :
    (∃ (v : Fin 32) (s : State), s.pci.mask0.getLsbD v = true) ∧
    (∃ (v : Fin 32) (s : State), s.pci.mask0.getLsbD v = false) ∧
    (∃ (v : Fin 32) (s : State) (t : State), s.live = true ∧ s.pci.pend0.getLsbD v = true ∧ exec (.msiXUnmask false v) s = .next t) :=
  ⟨⟨0, live, by decide⟩,
   ⟨0, { live with pci := { live.pci with mask0 := 0 } }, by decide⟩,
   ⟨0, { live with pci := { live.pci with pend0 := 1 } }, _, by decide, by decide, rfl⟩⟩

theorem witness_DeviceResetRestoresReset :
    (∃ (ns : Nat) (b : Nat) (s : State), b = 1 ∧ 1000 ≤ ns ∧ s.rst.unpowered = false) ∧
    (∃ (b : Nat) (s : State), b = 2 ∧ s.live = true ∧ s.cmd.resetDue = true) ∧
    (∃ (b : Nat) (s : State), b = 4 ∧ s.rst.unpowered = false) :=
  ⟨⟨1000, 1, live, by decide⟩,
   ⟨_, { live with cmd := { live.cmd with resetDue := true } }, rfl, by decide⟩,
   ⟨_, live, rfl, by decide⟩⟩

theorem witness_ReleaseOfResetBeginsTickZero :
    (∃ (st : Straps) (s : State) (t : State) (u : State), exec .powerOnReset s = .next t ∧ exec (.resetRelease st) t = .next u) ∧
    (∃ (s : State), s.tick.stretched = false) :=
  ⟨⟨{}, live, _, _, rfl, rfl⟩,
   ⟨live, by decide⟩⟩

theorem witness_StretchedTickEndsOnATick :
    ∃ (d : Int) (s : State), anySends s = false ∧ 0 ≤ (s.tick.tod : Int) + d :=
  ⟨0, live, by decide⟩

theorem witness_CodeCorrectsOneBitDetectsTwo :
    (∃ (d : BitVec 64) (x : Fin 64) (y : Fin 64), x ≠ y) ∧
    (∃ (d : BitVec 64) (x : Fin 16) (y : Fin 16), x ≠ y) :=
  ⟨⟨0, 0, 1, by decide⟩,
   ⟨0, 0, 1, by decide⟩⟩

theorem witness_TestAccessWritesOneGranule :
    ∃ (h : CmdHdr) (ws : List Word) (s : State) (t : State) (a : Nat), h.async = false ∧ Runs 0x0504 s ∧ ws.length = 19 ∧ wd ws 0 = 1 ∧
      a = ofLohi (wd ws 1) (wd ws 2) ∧ a % 64 = 0 ∧ regionBase s 3 ≤ a ∧ a < regionBase s 3 + regionSize s 3 ∧ s.sett.st = .ready ∧
      s.sett.cap = .idle ∧ flag s.ecc.flipCtl 31 = false ∧ exec (.eccTestAccess h ws) s = .next t :=
  ⟨{}, 1 :: 0 :: 0x1E :: List.replicate 16 0, live, _, 0x1E00000000, by decide, by decide, by decide, by decide, by decide, by decide, by decide, by decide, by decide, by decide, by decide, rfl⟩

theorem witness_RingCommandsKeepTheMemory :
    ∃ (c : Instr) (op : Nat) (h : CmdHdr) (ws : List Word) (s : State) (t : State), ringOp c = some (op, h, ws) ∧ op ≠ 0x0504 ∧ op ≠ 0x0408 ∧
      exec c s = .next t :=
  ⟨.sysNop {} [], 0, {}, [], live, _, by decide, by decide, by decide, rfl⟩

theorem witness_StepNeverGoesBackOnFuses :
    ∃ (s : State) (t : State), step s = .next t :=
  ⟨live, _, rfl⟩

theorem witness_StepKeepsCanonicalForm :
    ∃ (s : State) (t : State), s.Inv ∧ step s = .next t :=
  ⟨live, _, ⟨by decide, by decide, by decide, rfl⟩, rfl⟩

/-- The two clauses of BOOT_TABLE_ACCEPT in FirmwareEventsComplete: a table without records, and one whose first record is refused. -/
theorem witness_BootTableAccept :
    (∃ s : State, s.fwRuns = true ∧ s.cmd.acceptDue = true ∧ s.cmd.accepted = false ∧ tableOutsideOk (if s.cmd.fromHost then s.cmd.table else s.cmd.flashTable) s.cmd.fromHost = true ∧
      (match takeRecords [] (tableLen ((if s.cmd.fromHost then s.cmd.table else s.cmd.flashTable).take (tableLen (if s.cmd.fromHost then s.cmd.table else s.cmd.flashTable))) / 4 + 1) 0 (((if s.cmd.fromHost then s.cmd.table else s.cmd.flashTable).take (tableLen (if s.cmd.fromHost then s.cmd.table else s.cmd.flashTable))).drop (128 + 8 * tableSpareCnt ((if s.cmd.fromHost then s.cmd.table else s.cmd.flashTable).take (tableLen (if s.cmd.fromHost then s.cmd.table else s.cmd.flashTable))))) s with | .ok x => x.1.isEmpty && x.2.isEmpty | .error _ => false) = true) ∧
    (∃ s : State, s.fwRuns = true ∧ s.cmd.acceptDue = true ∧ s.cmd.accepted = false ∧ tableOutsideOk (if s.cmd.fromHost then s.cmd.table else s.cmd.flashTable) s.cmd.fromHost = true ∧
      (match takeRecords [] (tableLen ((if s.cmd.fromHost then s.cmd.table else s.cmd.flashTable).take (tableLen (if s.cmd.fromHost then s.cmd.table else s.cmd.flashTable))) / 4 + 1) 0 (((if s.cmd.fromHost then s.cmd.table else s.cmd.flashTable).take (tableLen (if s.cmd.fromHost then s.cmd.table else s.cmd.flashTable))).drop (128 + 8 * tableSpareCnt ((if s.cmd.fromHost then s.cmd.table else s.cmd.flashTable).take (tableLen (if s.cmd.fromHost then s.cmd.table else s.cmd.flashTable))))) s with | .ok _ => none | .error n => some n) = some 0) :=
  ⟨⟨{ live with cmd := { live.cmd with accepted := false, acceptDue := true, fromHost := true, table := bytesOf ([0x5443574B, 0x200001, 0x1EA6A391, 0, 0, 0, 0, 0, 1] ++ List.replicate 23 0) } }, by decide +kernel⟩,
   ⟨{ live with cmd := { live.cmd with accepted := false, acceptDue := true, fromHost := true, table := bytesOf ([0x5443574B, 0x210001, 0x2B2A38BA, 0, 0, 0, 0, 0, 1] ++ List.replicate 23 0 ++ [0xFFFF0000]) } }, by decide +kernel⟩⟩
end

section
/-! PROOFS. The scope family: the JTAG IDCODE (R8) and what an access of PF1 changes (R13). The lemmas say first how a TAP
instruction acts while the part has power and how a read of BAR0 by either function goes. -/

namespace Sys2Proof.Machine

/-! ### The TAP and the IDCODE (R8, R432) -/

/-- With power, a TAP instruction acts on the TAP's state alone. -/
theorem tap_of_powered {f : RstS → RstS} {s : State} (h : s.rst.unpowered = false) : tap f s = { s with rst := f s.rst } := by
  simp [tap, h]

/-- The word that step B1 gives (R8). -/
theorem idcode_eq : idcode = 0x5321658B := by decide

/-- The instruction IDCODE selects the identification register, which captures the IDCODE. -/
theorem exec_jtagIdcode_of_powered {s : State} (h : s.rst.unpowered = false) :
    exec .jtagIdcode s = .next { s with rst := { s.rst with ir := .idcode, dr := 1, tdo := idcode.toNat, drive := false, highz := false } } := by
  rw [show exec .jtagIdcode s = execJtagIdcode s from rfl, execJtagIdcode, tap_of_powered h]

/-- Settles O43: the fields are read off the word that R8 gives for step B1, which JTAG_IDCODE then shifts out. -/
theorem idcodeFields : Obligations.IdcodeFields := by
  unfold Obligations.IdcodeFields
  rw [idcode_eq]
  refine ⟨by decide, by decide, by decide, by decide, rfl, fun s h => ?_⟩
  exact ⟨_, exec_jtagIdcode_of_powered h, rfl, rfl, congrArg BitVec.toNat idcode_eq⟩

/-! ### Accesses to BAR0 (R12, R13) -/

/-- A write by PF1 is discarded (R13). -/
theorem exec_regWrite_pf1 (addr : BitVec 26) (val : Word) (s : State) : exec (.regWrite true addr val) s = .next s := by
  rw [show exec (.regWrite true addr val) s = execRegWrite true addr val s from rfl, execRegWrite, Bool.not_true, Bool.and_false]
  rfl

/-- While the device runs, a read is the read of the register. -/
theorem exec_rsLowWordRead_of_live {pf1 : Bool} {addr : BitVec 26} {s : State} (h : s.live = true) :
    exec (.rsLowWordRead pf1 addr) s = .next (regRead pf1 addr.toNat s) := by
  rw [show exec (.rsLowWordRead pf1 addr) s = execRsLowWordRead pf1 addr s from rfl, execRsLowWordRead, if_pos h]

/-- While the device does not run, a read changes nothing. -/
theorem exec_rsLowWordRead_of_not_live {pf1 : Bool} {addr : BitVec 26} {s : State} (h : ¬ s.live = true) :
    exec (.rsLowWordRead pf1 addr) s = .next s := by
  rw [show exec (.rsLowWordRead pf1 addr) s = execRsLowWordRead pf1 addr s from rfl, execRsLowWordRead, if_neg h]

/-- A read of a word that PF0 alone may read answers 0 to PF1 (R13). -/
theorem regRead_unreached {pf1 : Bool} {a : Nat} {s : State} (h : (pf1 && pf0Only a) = true) :
    regRead pf1 a s = { s with pci := { s.pci with rdata := 0 } } := by
  simp [regRead, h]

/-- A read of a plain register within reach answers what the register holds now. -/
theorem regRead_plain {pf1 : Bool} {a : Nat} {s : State} (h : (pf1 && pf0Only a) = false) (hg : rsGroup s a = none) :
    regRead pf1 a s = { s with pci := { s.pci with rdata := regNow s a } } := by
  simp [regRead, h, hg]

/-- Whatever it reads, PF1 changes the answer and its own snapshot at most (R13). -/
theorem regRead_pf1_frame (a : Nat) (s : State) :
    regRead true a s =
      { s with pci := { s.pci with rdata := (regRead true a s).pci.rdata, snap1 := (regRead true a s).pci.snap1 } } := by
  unfold regRead
  split
  · rfl
  · split
    · rfl
    · dsimp only
      split
      · rfl
      · rfl

/-- Settles O44: a write by PF1 is discarded, and each kind of read follows from what a read of BAR0 does. -/
theorem secondFunctionChangesNothing : Obligations.SecondFunctionChangesNothing := by
  refine ⟨fun addr val s _ => exec_regWrite_pf1 addr val s, fun addr s hl hp => ?_, fun addr s hl hp hg => ?_, fun addr s t ht => ?_⟩
  · rw [exec_rsLowWordRead_of_live hl, regRead_unreached (pf1 := true) hp]
  · rw [exec_rsLowWordRead_of_live hl, regRead_plain (pf1 := true) hp hg]
  · by_cases hl : s.live = true
    · rw [exec_rsLowWordRead_of_live hl] at ht
      cases ht
      exact regRead_pf1_frame addr.toNat s
    · rw [exec_rsLowWordRead_of_not_live hl] at ht
      cases ht
      rfl

end Sys2Proof.Machine
end

section
/-! PROOFS. The Nutmeg family: the key staging words (R182). What closing a cell or clearing a key memory half leaves of Nutmeg comes
first, then what Nutmeg's work at a boundary does to the staging words, then their zeroisation. -/

namespace Sys2Proof.Machine

/-! ### Work that leaves Nutmeg alone -/

/-- What each turn of a loop keeps, the loop keeps. -/
theorem State.each_eq {α β} (g : State → β) {f : State → α → State} (h : ∀ s x, g (f s x) = g s) (s : State) (xs : List α) :
    g (s.each xs f) = g s :=
  List.foldlRecOn xs f (motive := fun t => g t = g s) rfl fun t ht x _ => (h t x).trans ht

/-- What the guarded work keeps, the guarded step keeps. -/
theorem State.when_eq {β} (g : State → β) {f : State → State} (h : ∀ s, g (f s) = g s) (s : State) (c : Bool) :
    g (s.when c f) = g s := by
  unfold State.when
  split
  · exact h s
  · rfl

@[simp] theorem State.each_nut {α} {s : State} {xs : List α} {f : State → α → State} (h : ∀ s x, (f s x).nut = s.nut) :
    (s.each xs f).nut = s.nut :=
  State.each_eq State.nut h s xs

@[simp] theorem State.when_nut {s : State} {c : Bool} {f : State → State} (h : ∀ s, (f s).nut = s.nut) : (s.when c f).nut = s.nut :=
  State.when_eq State.nut h s c

@[simp] theorem State.raiseVec_nut (s : State) (pf1 : Bool) (v : Nat) : (s.raiseVec pf1 v).nut = s.nut := by
  unfold State.raiseVec
  split <;> split <;> rfl

@[simp] theorem State.count_nut (s : State) (blk idx qual n : Nat) : (s.count blk idx qual n).nut = s.nut := by
  simp [State.count]

@[simp] theorem putMask_nut (inst idx : Nat) (m : BitVec 64 × BitVec 16) (s : State) : (putMask inst idx m s).nut = s.nut := by simp [putMask]
@[simp] theorem flipDone_nut (addr : Nat) (s : State) : (flipDone addr s).nut = s.nut := by simp [flipDone]
@[simp] theorem cellDrop_nut (f n : Nat) (s : State) : (cellDrop f n s).nut = s.nut := by simp [cellDrop]

@[simp] theorem cancelWb_nut (t inst u : Nat) (s : State) : (cancelWb t inst u s).nut = s.nut := by
  simp [cancelWb]

/-- A write into an internal memory touches its protection alone. -/
@[simp] theorem sramWrite_nut (inst lo n : Nat) (s : State) : (sramWrite inst lo n s).nut = s.nut := by
  unfold sramWrite
  dsimp only
  split
  · simp
  · simp

@[simp] theorem pushQueue_nut (l c : Nat) (x : Cell) (s : State) : (pushQueue l c x s).nut = s.nut := by
  simp [pushQueue]

@[simp] theorem toElastic_nut (x : ElCell) (s : State) : (toElastic x s).nut = s.nut := by
  unfold toElastic
  split
  · rfl
  · exact State.count_nut ..

@[simp] theorem enqueueCell_nut (x : Cell) (s : State) : (enqueueCell x s).nut = s.nut := by
  unfold enqueueCell
  dsimp only
  split
  · simp
  · simp

@[simp] theorem closeCell_nut (f : Nat) (s : State) : (closeCell f s).nut = s.nut := by
  unfold closeCell
  dsimp only
  split
  · rfl
  · exact enqueueCell_nut ..

/-! ### What a boundary does to the staging words -/

/-- The staging words, WR_MASK, and the ticks since the last write. -/
def State.keyStaging (s : State) : List Word × BitVec 9 × Nat := (s.nut.stage, s.nut.wrMask, s.nut.stageTicks)

/-- Work that leaves Nutmeg alone leaves the staging words alone. -/
theorem keyStaging_of_nut_eq {s t : State} (h : t.nut = s.nut) : t.keyStaging = s.keyStaging := by
  simp only [State.keyStaging, h]

@[simp] theorem State.onSa_keyStaging (s : State) (n : Nat) (f : SaS → SaS) : (s.onSa n f).keyStaging = s.keyStaging := rfl

@[simp] theorem setMark_keyStaging (n left : Nat) (s : State) : (setMark n left s).keyStaging = s.keyStaging := by
  unfold setMark
  dsimp only
  rw [State.onSa_keyStaging]
  split
  · rfl
  · exact keyStaging_of_nut_eq (closeCell_nut n s)

@[simp] theorem clearSa_keyStaging (n : Nat) (s : State) : (clearSa n s).keyStaging = s.keyStaging := by
  rw [clearSa, keyStaging_of_nut_eq (sramWrite_nut ..), State.onSa_keyStaging, setMark_keyStaging]

/-- NUT_ZEROISE's end clears the associations, not the staging words (R203). -/
@[simp] theorem zeroiseAll_keyStaging (s : State) : (zeroiseAll s).keyStaging = s.keyStaging :=
  State.each_eq State.keyStaging (fun s n => clearSa_keyStaging n s) s _

@[simp] theorem setDstate_keyStaging (rx : Bool) (d : DState) (s : State) : (setDstate rx d s).keyStaging = s.keyStaging := by
  cases rx <;> rfl

@[simp] theorem updateDstate_keyStaging (rx : Bool) (s : State) : (updateDstate rx s).keyStaging = s.keyStaging := by
  unfold updateDstate
  refine (State.when_eq State.keyStaging (fun _ => ?_) _ _).trans (setDstate_keyStaging rx _ s)
  rfl

@[simp] theorem fencePipe_keyStaging (p : Nat) (s : State) : (fencePipe p s).keyStaging = s.keyStaging := by
  unfold fencePipe
  refine (State.when_eq State.keyStaging (updateDstate_keyStaging _) _ _).trans ?_
  dsimp only
  split <;> rfl

@[simp] theorem markTick_keyStaging (n : Nat) (s : State) : (markTick n s).keyStaging = s.keyStaging := by
  unfold markTick
  dsimp only
  split
  · exact setMark_keyStaging n 0 s
  · split <;> rfl

/-- At a boundary the words and WR_MASK stay, and the time since the last write runs on while a bit is set (R182). -/
theorem nutTick_keyStaging (s : State) :
    (nutTick s).keyStaging = (s.nut.stage, s.nut.wrMask, if s.nut.wrMask = 0 then 0 else min (s.nut.stageTicks + 1) 127) := by
  unfold nutTick
  refine (State.each_eq State.keyStaging (fun s n => markTick_keyStaging n s) _ _).trans ?_
  refine (State.each_eq State.keyStaging (fun s p => fencePipe_keyStaging p s) _ _).trans ?_
  exact State.when_eq State.keyStaging zeroiseAll_keyStaging _ _

theorem nutTick_stageTicks {s : State} (hm : s.nut.wrMask ≠ 0) (ht : s.nut.stageTicks < 125) :
    (nutTick s).nut.stageTicks = s.nut.stageTicks + 1 := by
  have h : (nutTick s).nut.stageTicks = if s.nut.wrMask = 0 then 0 else min (s.nut.stageTicks + 1) 127 :=
    congrArg (fun k => k.2.2) (nutTick_keyStaging s)
  rw [h, if_neg hm]
  omega

/-! ### Writing a staging word -/

/-- A bit that is put reads 1, and the others read as before. -/
theorem getLsbD_putBit_true {n : Nat} (x : BitVec n) {i j : Nat} (hj : j < n) :
    (putBit x i true).getLsbD j = (x.getLsbD j || decide (j = i)) := by
  have hbit : (BitVec.ofNat n (2 ^ i)).getLsbD j = decide (j = i) := by
    rw [BitVec.getLsbD_ofNat, Nat.testBit_two_pow]
    simp [hj, eq_comm]
  rw [putBit, if_pos rfl, BitVec.getLsbD_or, hbit]

theorem exec_nutKeyStageWrite_of_up {x : Fin 9} {val : Word} {s : State} (h : s.up = true) :
    exec (.nutKeyStageWrite x val) s =
      .next { s with nut := { s.nut with stage := ((s.nut.stage ++ List.replicate 9 0).take 9).set x val
                                         wrMask := putBit s.nut.wrMask x true, stageTicks := 0 } } := by
  rw [show exec (.nutKeyStageWrite x val) s = execNutKeyStageWrite x val s from rfl, execNutKeyStageWrite, if_pos h]

/-! ### Zeroisation -/

/-- Every staging word and WR_MASK are 0. -/
def State.StagingZeroised (s : State) : Prop := (∀ w ∈ s.nut.stage, w = 0) ∧ s.nut.wrMask = 0

theorem clearStage_stagingZeroised (s : State) : (clearStage s).StagingZeroised := ⟨List.forall_mem_nil _, rfl⟩

/-- Nutmeg in its reset state holds nothing staged (R202). -/
theorem stagingZeroised_of_nut_reset {s : State} (h : s.nut = {}) : s.StagingZeroised := by
  rw [State.StagingZeroised, h]
  exact ⟨List.forall_mem_nil _, rfl⟩

/-- A GO zeroises the staging words last, whatever its result (R182). -/
theorem exec_nutKeyGo_of_go {val : Word} {s : State} (h : s.up = true) (hgo : flag val 31 = true) :
    ∃ u, exec (.nutKeyGo val) s = .next (clearStage u) := by
  rw [show exec (.nutKeyGo val) s = execNutKeyGo val s from rfl, execNutKeyGo, h, hgo]
  exact ⟨_, rfl⟩

theorem exec_keyStagingTimeout_of_due {s : State} (h : s.up = true) (hm : s.nut.wrMask ≠ 0) (ht : 125 ≤ s.nut.stageTicks) :
    exec .keyStagingTimeout s = .next (clearStage s) := by
  rw [show exec .keyStagingTimeout s = execKeyStagingTimeout s from rfl, execKeyStagingTimeout, h, bne_iff_ne.mpr hm, decide_eq_true ht]
  rfl

theorem deviceReset_nut (bit : Nat) (s : State) : (deviceReset bit s).nut = {} := rfl

/-- The resets of R428, but the one by escalation, and the loss of the rails, each in a state where it takes effect. -/
def Resets (c : Instr) (s : State) : Prop :=
  c = .powerOnReset ∨ c = .railPowerDown ∨ c = .jtagDevReset ∧ s.rst.unpowered = false ∨
    c = .cmdDeviceReset ∧ s.live = true ∧ s.cmd.resetDue = true ∨ (∃ ns, c = .resetPin ns ∧ 1000 ≤ ns ∧ s.rst.unpowered = false)

/-- After every reset Nutmeg is in its reset state (R202). -/
theorem nut_of_resets {c : Instr} {s t : State} (hc : Resets c s) (ht : exec c s = .next t) : t.nut = {} := by
  obtain rfl | rfl | ⟨rfl, hp⟩ | ⟨rfl, hl, hd⟩ | ⟨ns, rfl, hns, hp⟩ := hc
  case inl | inr.inl => cases ht; rfl
  case inr.inr.inl =>
    rw [show exec .jtagDevReset s = execJtagDevReset s from rfl, execJtagDevReset, hp] at ht
    cases ht
    exact deviceReset_nut ..
  case inr.inr.inr.inl =>
    rw [show exec .cmdDeviceReset s = execCmdDeviceReset s from rfl, execCmdDeviceReset, hl, hd] at ht
    cases ht
    exact deviceReset_nut ..
  case inr.inr.inr.inr =>
    have hpulse : ¬ (s.rst.unpowered || decide (ns < 200)) = true := by simp [hp]; omega
    rw [show exec (.resetPin ns) s = execResetPin ns s from rfl, execResetPin, if_neg hpulse, if_pos hns] at ht
    cases ht
    exact deviceReset_nut ..

/-! ### NUT_KEY_STAT -/

/-- The low nine bits of NUT_KEY_STAT are WR_MASK (Table 6-5). -/
theorem nutReg_keyStat_mod (s : State) : nutReg s 0x1028 % 2 ^ 9 = s.nut.wrMask.toNat := by
  have hm : s.nut.wrMask.toNat < 2 ^ 9 := s.nut.wrMask.isLt
  rw [show nutReg s 0x1028 = bitAt (decide (s.now < s.nut.busyTill)) 31 + s.nut.result * 2 ^ 24 + s.nut.wrMask.toNat from rfl, bitAt]
  split <;> omega

/-- Settles O46: a write puts one bit, a boundary counts on, a GO and the end of the time clear the staging area, and a reset leaves
Nutmeg in its reset state. -/
theorem keyStagingIsZeroised : Obligations.KeyStagingIsZeroised := by
  unfold Obligations.KeyStagingIsZeroised
  refine ⟨fun x val s t hup ht => ?_, fun val s t hup hgo ht => ?_, fun s => nutTick_stageTicks, fun s t hup hticks ht hm => ?_,
    fun c s t hc ht => stagingZeroised_of_nut_reset (nut_of_resets hc ht), nutReg_keyStat_mod⟩
  · rw [exec_nutKeyStageWrite_of_up hup] at ht
    cases ht
    refine ⟨?_, fun y hy => ?_, rfl⟩
    · rw [getLsbD_putBit_true _ x.isLt, decide_eq_true rfl, Bool.or_true]
    · rw [getLsbD_putBit_true _ y.isLt, decide_eq_false (Fin.val_ne_of_ne hy), Bool.or_false]
  · obtain ⟨u, hu⟩ := exec_nutKeyGo_of_go hup hgo
    cases hu.symm.trans ht
    exact clearStage_stagingZeroised u
  · cases (exec_keyStagingTimeout_of_due hup hm hticks).symm.trans ht
    exact clearStage_stagingZeroised s

end Sys2Proof.Machine
end

section
/-! PROOFS. The family of commands and firmware: what the boot table that is not yet accepted turns away (R356). -/

namespace Sys2Proof.Machine

theorem inFamily_eq_false {op f : Nat} (h : op / 256 ≠ f) : inFamily op f = false := beq_eq_false_iff_ne.mpr h

/-- Before the boot table is accepted, and while its records are not being taken, the first gate answers BUSY outside
the 0x00xx family (R356). -/
theorem gate_of_no_table {op : Nat} {s : State} (ha : s.cmd.accepted = false) (ht : s.cmd.accepting = false) (ho : op / 256 ≠ 0) :
    gate s op = some .busy := by
  rw [gate, ha, ht, inFamily_eq_false ho]
  rfl

/-- A ring command that a gate turns away changes nothing but the reply, whichever command it is (R356, R424). -/
theorem exec_ringOp_gated {c : Instr} {op : Nat} {h : CmdHdr} {ws : List Word} {s : State} {st : Status}
    (e : ringOp c = some (op, h, ws)) (hw : s.fwRuns = true) (hg : gate s op = some st) :
    exec c s = .next (withReply (mkReply s op h st 0 []) s) := by
  obtain ⟨f, -, hexec⟩ := exec_ringOp e
  rw [hexec, runCmd_gated hw hg]

/-- Settles O35: the gate of R356 stands before every ring command's own rules. -/
theorem busyUntilTableAccepted : Obligations.BusyUntilTableAccepted := by
  unfold Obligations.BusyUntilTableAccepted
  intro c op h ws s e hw ha ht ho
  exact exec_ringOp_gated e hw (gate_of_no_table ha ht ho)

end Sys2Proof.Machine
end

section
/-! PROOFS. The family of faults and counters: when a due dump is written and when it is skipped (R404). What counting an event leaves
of the counter block comes first, then one lemma for each branch of a boundary's dump step. -/

namespace Sys2Proof.Machine

/-! ### Counting an event -/

@[simp] theorem State.raiseVec_cnt (s : State) (pf1 : Bool) (v : Nat) : (s.raiseVec pf1 v).cnt = s.cnt := by
  unfold State.raiseVec
  split <;> split <;> rfl

/-- The counter block beside its array of counters. -/
def CntS.besidesArray (c : CntS) : CntS := { c with cnt := .const {} }

/-- Counting an event writes the counter array at most. -/
theorem State.count_besidesArray (s : State) (blk idx qual n : Nat) :
    (s.count blk idx qual n).cnt.besidesArray = s.cnt.besidesArray := by
  refine State.each_eq (fun u => u.cnt.besidesArray) (fun u k => ?_) s _
  refine (State.when_eq (fun u => u.cnt.besidesArray) (fun v => ?_) _ _).trans rfl
  rw [State.raiseVec_cnt]

@[simp] theorem State.count_buf (s : State) (blk idx qual n : Nat) : (s.count blk idx qual n).cnt.buf = s.cnt.buf := by
  have h := congrArg CntS.buf (State.count_besidesArray s blk idx qual n)
  exact h

@[simp] theorem State.count_seq (s : State) (blk idx qual n : Nat) : (s.count blk idx qual n).cnt.seq = s.cnt.seq := by
  have h := congrArg CntS.seq (State.count_besidesArray s blk idx qual n)
  exact h

@[simp] theorem State.signal_cnt (s : State) (fs : Nat) : (s.signal fs).cnt = s.cnt := rfl

/-! ### The dump step of a boundary -/

/-- A dump is due: dumping is on and the boundary's number is a multiple of PERIOD. -/
def DumpDue (s : State) : Prop :=
  s.cnt.dumpEn = true ∧ (s.cnt.dump = .idle ∨ s.cnt.dump = .writing) ∧ s.tick.num % max s.cnt.period 1 = 0

/-- A due dump has to be skipped: one is still being written, or the host has freed no buffer. -/
def DumpBlocked (s : State) : Prop :=
  s.cnt.buf.isSome = true ∨ s.cnt.nbuf ≤ (s.cnt.seq + 2 ^ 32 - s.cnt.head) % 2 ^ 32

/-- The guard of the dump step, as a proposition. -/
theorem dumpGuard_iff (s : State) :
    (s.cnt.dumpEn && (s.cnt.dump == .idle || s.cnt.dump == .writing) && s.tick.num % max s.cnt.period 1 == 0) = true ↔ DumpDue s := by
  simp only [DumpDue, Bool.and_eq_true, Bool.or_eq_true, beq_iff_eq, and_assoc]

/-- The guard of the skip, as a proposition. -/
theorem skipGuard_iff (s : State) :
    (s.cnt.buf.isSome || decide (s.cnt.nbuf ≤ (s.cnt.seq + 2 ^ 32 - s.cnt.head) % 2 ^ 32)) = true ↔ DumpBlocked s := by
  simp only [DumpBlocked, Bool.or_eq_true, decide_eq_true_eq]

theorem dumpTick_of_not_due {s : State} (h : ¬ DumpDue s) : dumpTick s = s :=
  if_neg (mt (dumpGuard_iff s).mp h)

theorem dumpTick_of_blocked {s : State} (h : DumpDue s) (hb : DumpBlocked s) :
    dumpTick s = State.signal (State.count { s with cnt := { s.cnt with skipped := s.cnt.skipped + 1 } } 13 0 0 1) 296 :=
  (if_pos ((dumpGuard_iff s).mpr h)).trans (if_pos ((skipGuard_iff s).mpr hb))

theorem dumpTick_of_free {s : State} (h : DumpDue s) (hb : ¬ DumpBlocked s) :
    dumpTick s = { s with cnt := { s.cnt with buf := some (dumpWords s.cnt), carried := false, dump := .writing, skipped := 0 } } :=
  (if_pos ((dumpGuard_iff s).mpr h)).trans (if_neg (mt (skipGuard_iff s).mp hb))

theorem not_dumpBlocked_of_free {s : State} (hbuf : s.cnt.buf = none) (hfree : (s.cnt.seq + 2 ^ 32 - s.cnt.head) % 2 ^ 32 < s.cnt.nbuf) :
    ¬ DumpBlocked s := by
  rintro (hw | hfull)
  · rw [hbuf] at hw
    cases hw
  · exact Nat.not_le_of_lt hfree hfull

/-- Dumping that is off, disabled or stopped, or a boundary between two periods, makes no dump due. -/
theorem not_dumpDue {s : State}
    (h : s.cnt.dumpEn = false ∨ s.cnt.dump = .off ∨ s.cnt.dump = .stopped ∨ s.tick.num % max s.cnt.period 1 ≠ 0) : ¬ DumpDue s := by
  rintro ⟨hen, hst, hnum⟩
  obtain hoff | hoff | hoff | hoff := h
  · rw [hoff] at hen
    cases hen
  · simp [hoff] at hst
  · simp [hoff] at hst
  · exact hoff hnum

/-! ### The host's head and the carried dump -/

theorem exec_cntDumpHeadWrite_of_up {val : Word} {s : State} (h : s.up = true) :
    exec (.cntDumpHeadWrite val) s = .next { s with cnt := { s.cnt with head := val.toNat } } := by
  rw [show exec (.cntDumpHeadWrite val) s = execCntDumpHeadWrite val s from rfl, execCntDumpHeadWrite, if_pos h]

/-- A dump still being written is carried: bit 0 of the carried units (R30). -/
theorem zero_mem_carriedUnits {s : State} (h : s.cnt.buf.isSome = true) : 0 ∈ carriedUnits s := by
  simp [carriedUnits, h]

/-- Settles O47: a due dump is blocked or free, and each case is one branch of the dump step; counting the skip leaves the dump being
written and SEQ as they are. -/
theorem dumpsNeedAFreeBuffer : Obligations.DumpsNeedAFreeBuffer := by
  unfold Obligations.DumpsNeedAFreeBuffer
  refine ⟨fun s hen hst hnum hbuf hfree => ?_, fun s hen hst hnum hb => ?_, fun s h => dumpTick_of_not_due (not_dumpDue h),
    fun val s => exec_cntDumpHeadWrite_of_up, fun s => zero_mem_carriedUnits⟩
  · rw [dumpTick_of_free ⟨hen, hst, hnum⟩ (not_dumpBlocked_of_free hbuf hfree)]
    exact ⟨rfl, rfl⟩
  · have hskip := dumpTick_of_blocked ⟨hen, hst, hnum⟩ hb
    refine ⟨hskip, ?_, ?_⟩
    · rw [hskip, State.signal_cnt, State.count_buf]
    · rw [hskip, State.signal_cnt, State.count_seq]

end Sys2Proof.Machine
end

section
/-! PROOFS. The family of whole-device statements: what every command keeps. A ring command keeps it by its rules (runCmd_keeps), an event
by its own lemma (exec…_goes); the three statements about steps read their parts off Keeps. -/

namespace Sys2Proof.Machine

/-- A ring command answers a next state that keeps what no command may change. -/
theorem exec_ringOp_goes {c : Instr} {op : Nat} {h : CmdHdr} {ws : List Word} (e : ringOp c = some (op, h, ws)) (s : State) :
    Goes s (exec c s) := by
  obtain ⟨f, hf, hexec⟩ := exec_ringOp e
  rw [hexec]
  exact goes_next (runCmd_keeps hf h ws s)

/-- An event answers a next state that keeps what no command may change. -/
theorem exec_event_goes {c : Instr} (e : ringOp c = none) (s : State) : Goes s (exec c s) := by
  unfold exec
  cases c with
  | regWrite pf1 addr val => exact execRegWrite_goes _ _ _ _
  | rsLowWordRead pf1 addr => exact execRsLowWordRead_goes _ _ _
  | nutKeyStageWrite x val => exact execNutKeyStageWrite_goes _ _ _
  | nutKeyGo val => exact execNutKeyGo_goes _ _
  | ringEnable r val => exact execRingEnable_goes _ _ _
  | ringDisable r val => exact execRingDisable_goes _ _ _
  | sqTailDoorbell r val => exact execSqTailDoorbell_goes _ _ _
  | cqHeadDoorbell r val => exact execCqHeadDoorbell_goes _ _ _
  | bootDlGo val img => exact execBootDlGo_goes _ _ _
  | eccFlipArm val => exact execEccFlipArm_goes _ _
  | cntDumpHeadWrite val => exact execCntDumpHeadWrite_goes _ _
  | fltPendClear j val => exact execFltPendClear_goes _ _ _
  | fltFirstClear val => exact execFltFirstClear_goes _ _
  | fltMsgPop val => exact execFltMsgPop_goes _ _
  | tickBoundary x => exact execTickBoundary_goes _ _
  | carryFault u => exact execCarryFault_goes _ _
  | cellFlush f => exact execCellFlush_goes _ _
  | adcDwellEnd l a m => exact execAdcDwellEnd_goes _ _ _ _
  | sliceSuspect l a p => exact execSliceSuspect_goes _ _ _ _
  | sliceSubstitute l a => exact execSliceSubstitute_goes _ _ _
  | adcFail l a => exact execAdcFail_goes _ _ _
  | convCalStart l => exact execConvCalStart_goes _ _
  | convRxCalDone l meas => exact execConvRxCalDone_goes _ _ _
  | convTxCalDone l bad trims => exact execConvTxCalDone_goes _ _ _ _
  | convCalTimeout l tx => exact execConvCalTimeout_goes _ _ _
  | linePllUnlock l => exact execLinePllUnlock_goes _ _
  | linePllRelockAttempt l locks => exact execLinePllRelockAttempt_goes _ _ _
  | scWarmupEnd l k => exact execScWarmupEnd_goes _ _ _
  | scCloseEnd l k => exact execScCloseEnd_goes _ _ _
  | eqFadeEnd l k => exact execEqFadeEnd_goes _ _ _
  | qualityWindowPost l q => exact execQualityWindowPost_goes _ _ _
  | cdResidualAlarm l => exact execCdResidualAlarm_goes _ _
  | cdSearchScanEnd l peak => exact execCdSearchScanEnd_goes _ _ _
  | freqAcqTimeout l => exact execFreqAcqTimeout_goes _ _
  | scAcqTimeout l => exact execScAcqTimeout_goes _ _
  | runTrackLoss l => exact execRunTrackLoss_goes _ _
  | rxdConvStateChange l => exact execRxdConvStateChange_goes _ _
  | scAcqExpire l k => exact execScAcqExpire_goes _ _ _
  | scTrackLoss l k => exact execScTrackLoss_goes _ _ _
  | lineFrameDecode l f => exact execLineFrameDecode_goes _ _ _
  | laneSignalDetect x => exact execLaneSignalDetect_goes _ _
  | laneAdaptDone x ctle dfe => exact execLaneAdaptDone_goes _ _ _ _
  | laneAdaptTimeout x => exact execLaneAdaptTimeout_goes _ _
  | laneLos x => exact execLaneLos_goes _ _
  | laneRetry x => exact execLaneRetry_goes _ _
  | portAlignDone p => exact execPortAlignDone_goes _ _
  | portFaultRx p remote => exact execPortFaultRx_goes _ _ _
  | portFaultClear p => exact execPortFaultClear_goes _ _
  | linkPropLocalFault p => exact execLinkPropLocalFault_goes _ _
  | clientFrameIngress p f sub fecBad rmOvf => exact execClientFrameIngress_goes _ _ _ _ _ _
  | pfcFrameRx p en quanta => exact execPfcFrameRx_goes _ _ _ _
  | pauseTimerExpire p q => exact execPauseTimerExpire_goes _ _ _
  | pfcRefresh p c => exact execPfcRefresh_goes _ _ _
  | egressFrameStart p sub => exact execEgressFrameStart_goes _ _ _
  | nutEncrypt x => exact execNutEncrypt_goes _ _
  | nutRxFrame x => exact execNutRxFrame_goes _ _
  | pipelineFence rx red n => exact execPipelineFence_goes _ _ _ _
  | c7Preempt rx jobs => exact execC7Preempt_goes _ _ _
  | txMarkExpire n => exact execTxMarkExpire_goes _ _
  | keyStagingTimeout => exact execKeyStagingTimeout_goes _
  | nutSelftestEnd badTx badRx => exact execNutSelftestEnd_goes _ _ _
  | nutZeroiseDone => exact execNutZeroiseDone_goes _
  | settTrainDone => exact execSettTrainDone_goes _
  | settTrainTimeout untrained => exact execSettTrainTimeout_goes _ _
  | settClearDone => exact execSettClearDone_goes _
  | settStackTemp st temp => exact execSettStackTemp_goes _ _ _
  | settCopyReceive => exact execSettCopyReceive_goes _
  | cellElasticAdmit => exact execCellElasticAdmit_goes _
  | captureTrigger fs => exact execCaptureTrigger_goes _ _
  | captureDone => exact execCaptureDone_goes _
  | eccWriteBack target => exact execEccWriteBack_goes _ _
  | scrubRead target addr up => exact execScrubRead_goes _ _ _ _
  | trackerExpire target => exact execTrackerExpire_goes _ _
  | rowRemapCopyDone target => exact execRowRemapCopyDone_goes _ _
  | ppsEdge k sub => exact execPpsEdge_goes _ _ _
  | refWtrExpire k => exact execRefWtrExpire_goes _ _
  | dpllLock => exact execDpllLock_goes _
  | dpllAcqFail => exact execDpllAcqFail_goes _
  | dpllSwitchDone phase => exact execDpllSwitchDone_goes _ _
  | historySecond => exact execHistorySecond_goes _
  | ocxoMeasureDone active dev => exact execOcxoMeasureDone_goes _ _ _
  | ocxoFail => exact execOcxoFail_goes _
  | disagreeEnd => exact execDisagreeEnd_goes _
  | slewDone => exact execSlewDone_goes _
  | chainMasterApply => exact execChainMasterApply_goes _
  | chainTimeWordRx b w stamp => exact execChainTimeWordRx_goes _ _ _ _
  | chainEchoWordRx b w => exact execChainEchoWordRx_goes _ _ _
  | chainLinkAlign x => exact execChainLinkAlign_goes _ _
  | chainLinkDown b => exact execChainLinkDown_goes _ _
  | chainFirstLock => exact execChainFirstLock_goes _
  | ppsOutFlywheel n => exact execPpsOutFlywheel_goes _ _
  | outputStart o => exact execOutputStart_goes _ _
  | martenWindowPost l => exact execMartenWindowPost_goes _ _
  | cdSecondSample l => exact execCdSecondSample_goes _ _
  | cdCalCapture l => exact execCdCalCapture_goes _ _
  | mcBurstSend l => exact execMcBurstSend_goes _ _
  | mcPreambleDetect l peak x => exact execMcPreambleDetect_goes _ _ _ _
  | mcSyncTimeout l => exact execMcSyncTimeout_goes _ _
  | mcBurstRx l b => exact execMcBurstRx_goes _ _ _
  | mcPost l => exact execMcPost_goes _ _
  | hubBeacon l => exact execHubBeacon_goes _ _
  | leafDiscoverySend l => exact execLeafDiscoverySend_goes _ _
  | leafEchoLoss l => exact execLeafEchoLoss_goes _ _
  | hubLeafLost l j => exact execHubLeafLost_goes _ _ _
  | cloveCalEnd bad fbBad => exact execCloveCalEnd_goes _ _ _
  | cloveDwellEnd slice offset gain offRes gainRes => exact execCloveDwellEnd_goes _ _ _ _ _ _
  | cloveCheckStep res => exact execCloveCheckStep_goes _ _
  | cloveSupervisorSteps res => exact execCloveSupervisorSteps_goes _ _
  | cloveConversionEnd res => exact execCloveConversionEnd_goes _ _
  | clovePaceStart => exact execClovePaceStart_goes _
  | extTrigEdge rising sub => exact execExtTrigEdge_goes _ _ _
  | cloveInjTrigger srcs => exact execCloveInjTrigger_goes _ _
  | cloveInjPost => exact execCloveInjPost_goes _
  | monSyncEdge => exact execMonSyncEdge_goes _
  | cloveSyncDeferred => exact execCloveSyncDeferred_goes _
  | detectorPost k => exact execDetectorPost_goes _ _
  | biasLoopUpdate k => exact execBiasLoopUpdate_goes _ _
  | cmdFetch r p => exact execCmdFetch_goes _ _ _
  | fwReply r dmaErr => exact execFwReply_goes _ _ _
  | cmdTimeout r => exact execCmdTimeout_goes _ _
  | ringDrainDone r => exact execRingDrainDone_goes _ _
  | asyncComplete r tag sigOk => exact execAsyncComplete_goes _ _ _ _
  | chainCmdWordRx b w => exact execChainCmdWordRx_goes _ _ _
  | fwdFragmentTimeout src msg reply => exact execFwdFragmentTimeout_goes _ _ _ _
  | fwdReplyTimeout msg => exact execFwdReplyTimeout_goes _ _
  | firmwareStart x => exact execFirmwareStart_goes _ _
  | bootTableAccept vout => exact execBootTableAccept_goes _ _
  | cpRestart => exact execCpRestart_goes _
  | cpRestartDone => exact execCpRestartDone_goes _
  | logEntryWrite => exact execLogEntryWrite_goes _
  | watchdogExpire => exact execWatchdogExpire_goes _
  | faultRaise fs => exact execFaultRaise_goes _ _
  | dualRailBroken x => exact execDualRailBroken_goes _ _
  | messengerMessage m crcOk => exact execMessengerMessage_goes _ _ _
  | faultWindowExpire fs => exact execFaultWindowExpire_goes _ _
  | chainFaultWordRx b w => exact execChainFaultWordRx_goes _ _ _
  | dumpWriteDone => exact execDumpWriteDone_goes _
  | dumpDmaError => exact execDumpDmaError_goes _
  | pmbusPoll r tries => exact execPmbusPoll_goes _ _ _
  | pmbAlert status => exact execPmbAlert_goes _ _
  | pmbusStuck => exact execPmbusStuck_goes _
  | avsUpdate => exact execAvsUpdate_goes _
  | avsStep => exact execAvsStep_goes _
  | supervisorLost => exact execSupervisorLost_goes _
  | p2EntryStep => exact execP2EntryStep_goes _
  | p3ExitPowerGood => exact execP3ExitPowerGood_goes _
  | p3ExitTimeout => exact execP3ExitTimeout_goes _
  | powerOnReset => exact execPowerOnReset_goes _
  | resetPin ns => exact execResetPin_goes _ _
  | cmdDeviceReset => exact execCmdDeviceReset_goes _
  | resetRelease st => exact execResetRelease_goes _ _
  | railPowerDown => exact execRailPowerDown_goes _
  | perst => exact execPerst_goes _
  | pcieHotReset => exact execPcieHotReset_goes _
  | flrPf0 => exact execFlrPf0_goes _
  | flrPf1 => exact execFlrPf1_goes _
  | trst => exact execTrst_goes _
  | jtagExtest => exact execJtagExtest_goes _
  | jtagIdcode => exact execJtagIdcode_goes _
  | jtagSamplePreload pins shift => exact execJtagSamplePreload_goes _ _ _
  | jtagHighz => exact execJtagHighz_goes _
  | jtagClamp => exact execJtagClamp_goes _
  | jtagDevReset => exact execJtagDevReset_goes _
  | jtagBypass code => exact execJtagBypass_goes _ _
  | freqOffsetFound l kHz => exact execFreqOffsetFound_goes _ _ _
  | pilotsDetected l k => exact execPilotsDetected_goes _ _ _
  | scTrackReached l k x => exact execScTrackReached_goes _ _ _ _
  | alignmentLost p => exact execAlignmentLost_goes _ _
  | prbsLock x => exact execPrbsLock_goes _ _
  | leafSlotBurst l => exact execLeafSlotBurst_goes _ _
  | stackInterfaceError st => exact execStackInterfaceError_goes _ _
  | pcieLinkDown => exact execPcieLinkDown_goes _
  | xoActivityLost => exact execXoActivityLost_goes _
  | msiXUnmask pf1 vec => exact execMsiXUnmask_goes _ _ _
  | _ => cases e

/-- Every command answers a next state that keeps what no command may change. -/
theorem exec_goes (c : Instr) (s : State) : Goes s (exec c s) := by
  cases e : ringOp c with
  | none => exact exec_event_goes e s
  | some r => exact exec_ringOp_goes e s

/-- Settles O58: the queue is part of what every command keeps. -/
theorem everyCommandCompletes : Obligations.EveryCommandCompletes := by
  unfold Obligations.EveryCommandCompletes
  intro c s
  obtain ⟨t, ht, hcore, -⟩ := exec_goes c s
  exact ⟨t, ht, congrArg Prod.fst hcore⟩

/-- A step keeps what no command may change, but for the command it takes from the queue. -/
theorem step_keeps {s t : State} (h : step s = .next t) : ∃ q, Keeps { s.kept with core := (q, s.kept.core.2) } t.kept := by
  unfold step at h
  split at h
  · cases h
    exact ⟨s.pending, Keeps.rfl⟩
  · rename_i c q _
    obtain ⟨u, hu, hk⟩ := exec_goes c { s with pending := q }
    cases hu.symm.trans h
    exact ⟨q, hk⟩

/-- Settles O59: the identity and the power fuses stand beside the queue in what a step keeps, the fused SVN and the revoked keys
in its two monotone parts. -/
theorem stepNeverGoesBackOnFuses : Obligations.StepNeverGoesBackOnFuses := by
  unfold Obligations.StepNeverGoesBackOnFuses
  intro s t h
  obtain ⟨q, hcore, hsvn, hkeys, -⟩ := step_keeps h
  simp only [State.kept, Prod.mk.injEq] at hcore
  obtain ⟨-, huid, hv, hk⟩ := hcore
  exact ⟨huid, hsvn, hkeys, hv, hk⟩

/-- Settles O60: a step keeps the canonical form of the memories and the bound of the log, and leaves no table half
taken. -/
theorem stepKeepsCanonicalForm : Obligations.StepKeepsCanonicalForm := by
  unfold Obligations.StepKeepsCanonicalForm
  intro s t ⟨hmem, hsram, hlog, hacc⟩ h
  obtain ⟨q, -, -, -, hgood, haccept⟩ := step_keeps h
  obtain ⟨hmem', hsram', hlog'⟩ := hgood ⟨hmem, hsram, hlog⟩
  exact ⟨hmem', hsram', hlog', haccept.elim (·.trans hacc) id⟩

end Sys2Proof.Machine
end

section
/-! PROOFS. What every ring command leaves: the gates before its rules (R351, R424), the reply that it makes (R354), and what the commands
that only stage or only read leave alone (R26). -/

namespace Sys2Proof.Machine

/-! ### The gates -/

/-- Settles O36: firmware that does not run fetches no command. -/
theorem nothingRunsWithoutFirmware : Obligations.NothingRunsWithoutFirmware := by
  unfold Obligations.NothingRunsWithoutFirmware
  intro c op h ws s e hw
  obtain ⟨f, -, hexec⟩ := exec_ringOp e
  rw [hexec, runCmd_stopped hw]

/-- In P3, with the boot table accepted, the second gate answers BUSY outside the three families that P3 leaves on (R424). -/
theorem gate_of_inP3 {op : Nat} {s : State} (ha : s.cmd.accepted = true) (hp : s.inP3 = true) (h0 : op / 256 ≠ 0) (h9 : op / 256 ≠ 9)
    (hB : op / 256 ≠ 0xB) : gate s op = some .busy := by
  rw [gate, ha, hp, inFamily_eq_false h0, inFamily_eq_false h9, inFamily_eq_false hB]
  rfl

/-- Settles O37: the gate of R424 stands before every ring command's own rules. -/
theorem powerStateP3TurnsCommandsAway : Obligations.PowerStateP3TurnsCommandsAway := by
  unfold Obligations.PowerStateP3TurnsCommandsAway
  intro c op h ws s e hw ha hp h0 h9 hB
  exact exec_ringOp_gated e hw (gate_of_inP3 ha hp h0 h9 hB)

/-! ### The opcodes by what their rules may do -/

/-- The commands that neither only stage nor only read, and answer with a status of their own: all but SYS_RESULT_GET. -/
def actingOps : List Nat :=
  [0x0003, 0x0004, 0x0005, 0x0010, 0x0011, 0x0012, 0x0112, 0x0316, 0x0317, 0x0405, 0x0408, 0x0503, 0x0504,
   0x0706, 0x0707, 0x0903, 0x0980, 0x0982, 0x0983, 0x0B01, 0x0B02, 0x0C01]

/-- Every command is SYS_RESULT_GET, or only stages, only reads, or acts. -/
theorem cmdOf_cases {op : Nat} {f : CmdHdr → List Word → State → CmdRes} (e : cmdOf op = some f) :
    op = 2 ∨ op ∈ stagingOps ∨ op ∈ readingOps ∨ op ∈ actingOps := by
  unfold cmdOf at e
  split at e
  case h_93 => cases e
  all_goals decide

/-- The rules of a command that only stages stage items and do nothing else (R26). -/
theorem cmd_stages {op : Nat} {f : CmdHdr → List Word → State → CmdRes} (e : cmdOf op = some f) (hop : op ∈ stagingOps) (h : CmdHdr)
    (ws : List Word) (s : State) : (f h ws s).Yields (Stages s) := by
  fin_cases hop <;> cases e
  · exact cmdLineConvSet_stages h ws s
  · exact cmdLineConvCal_stages h ws s
  · exact cmdLineConvBgcal_stages h ws s
  · exact cmdLineConvRetire_stages h ws s
  · exact cmdLineScCfg_stages h ws s
  · exact cmdLineLoadSet_stages h ws s
  · exact cmdLineRxCfg_stages h ws s
  · exact cmdLineRxAcq_stages h ws s
  · exact cmdLineFecCfg_stages h ws s
  · exact cmdLineHdrMsg_stages h ws s
  · exact cmdClientLaneCfg_stages h ws s
  · exact cmdClientLaneRaw_stages h ws s
  · exact cmdClientPortCfg_stages h ws s
  · exact cmdClientPfcCfg_stages h ws s
  · exact cmdClientRefSel_stages h ws s
  · exact cmdClientTsAdj_stages h ws s
  · exact cmdClassKeySet_stages h ws s
  · exact cmdFlowSet_stages h ws s
  · exact cmdSaCfg_stages h ws s
  · exact cmdSaActivate_stages h ws s
  · exact cmdSaRxPromote_stages h ws s
  · exact cmdSaKeyClear_stages h ws s
  · exact cmdSaPnAdvance_stages h ws s
  · exact cmdSettRegionCfg_stages h ws s
  · exact cmdSettClassSet_stages h ws s
  · exact cmdSettMergeSet_stages h ws s
  · exact cmdSettCapCfg_stages h ws s
  · exact cmdSettCapArm_stages h ws s
  · exact cmdEccScrubCfg_stages h ws s
  · exact cmdTimRefCfg_stages h ws s
  · exact cmdTimDpllCfg_stages h ws s
  · exact cmdTimeSet_stages h ws s
  · exact cmdTimOutCfg_stages h ws s
  · exact cmdChainAsym_stages h ws s
  · exact cmdMartenLineCfg_stages h ws s
  · exact cmdMartenAsymCal_stages h ws s
  · exact cmdMartenSteer_stages h ws s
  · exact cmdMartenPtpCfg_stages h ws s
  · exact cmdMcCfg_stages h ws s
  · exact cmdCloveChanCfg_stages h ws s
  · exact cmdCloveSeqSet_stages h ws s
  · exact cmdCloveSync_stages h ws s
  · exact cmdCloveInjFire_stages h ws s
  · exact cmdCloveDetCfg_stages h ws s
  · exact cmdCloveTdac_stages h ws s
  · exact cmdCloveBiasCfg_stages h ws s
  · exact cmdCloveBiasSet_stages h ws s
  · exact cmdCloveCalCfg_stages h ws s
  · exact cmdFltCfg_stages h ws s
  · exact cmdFltGlobal_stages h ws s
  · exact cmdLogCfg_stages h ws s
  · exact cmdCntCfg_stages h ws s
  · exact cmdCntWrite_stages h ws s
  · exact cmdCntDumpCfg_stages h ws s
  · exact cmdCntUwin_stages h ws s
  · exact cmdPwrAvsCfg_stages h ws s
  · exact cmdPwrPolicy_stages h ws s
  · exact cmdPinCfg_stages h ws s

/-- The rules of a command that only reads change nothing. -/
theorem cmd_reads {op : Nat} {f : CmdHdr → List Word → State → CmdRes} (e : cmdOf op = some f) (hop : op ∈ readingOps) (h : CmdHdr)
    (ws : List Word) (s : State) : (f h ws s).Yields (· = s) := by
  fin_cases hop <;> cases e
  · exact cmdSysNop_reads h ws s
  · exact cmdSysIdentify_reads h ws s
  · exact cmdFwInfo_reads h ws s
  · exact cmdLineConvStatus_reads h ws s
  · exact cmdLineEqRead_reads h ws s
  · exact cmdClientLaneRead_reads h ws s
  · exact cmdFlowRead_reads h ws s
  · exact cmdSaStatus_reads h ws s
  · exact cmdSettMergeStatus_reads h ws s
  · exact cmdEccSpareRead_reads h ws s
  · exact cmdCntRead_reads h ws s

/-! ### The book-keeping of the reply (R354, R359, R376) -/

/-- What is said of a state holds too with another last reply, other log entries awaiting their write, and another result store. -/
def IgnoresReply (P : State → Prop) : Prop :=
  ∀ t last logQ store, P t → P { t with cmd := { t.cmd with last := last, logQ := logQ, store := store } }

theorem IgnoresReply.audit {P : State → Prop} (hP : IgnoresReply P) (op : Nat) (h : CmdHdr) (st : Status) {t : State} (ht : P t) :
    P (t.audit op h st) := by
  unfold State.audit State.when
  split
  · exact hP t t.cmd.last _ t.cmd.store ht
  · exact ht

theorem IgnoresReply.store {P : State → Prop} (hP : IgnoresReply P) (es : List ResEnt) {t : State} (ht : P t) :
    P { t with cmd := { t.cmd with store := es } } := hP t t.cmd.last t.cmd.logQ es ht

/-- What the rules of a command leave, the reply's book-keeping leaves: the audit entry and the result store. -/
theorem finish_leaves {P : State → Prop} (hP : IgnoresReply P) {op : Nat} {h : CmdHdr} {s : State} {r : CmdRes} (hs : P s)
    (hr : r.Leaves P) : P (finish op h s r).2 := by
  cases r with
  | fail => exact hs
  | full => exact hr
  | done t d | capture t l =>
    dsimp only [finish]
    split
    · split
      · exact hs
      · exact hP.audit op h .ok (hP.store (t := t) _ hr)
    · exact hP.audit op h .ok hr
  | accept t k =>
    dsimp only [finish]
    split
    · exact hs
    · exact hP.audit op h .ok (hP.store (t := t) _ hr)

/-- The same for the whole command, with its gates and its reply. -/
theorem runCmd_leaves {P : State → Prop} (hP : IgnoresReply P) {op : Nat} {f : CmdHdr → List Word → State → CmdRes} {h : CmdHdr}
    {ws : List Word} {s : State} (hs : P s) (hr : (f h ws s).Leaves P) : P (runCmd op f h ws s) := by
  have hlast : ∀ t r, P t → P { t with cmd := { t.cmd with last := r } } := fun t r ht => hP t r t.cmd.logQ t.cmd.store ht
  unfold runCmd command
  split
  · split
    · exact hlast _ _ hs
    · exact hlast _ _ (finish_leaves hP hs hr)
  · exact hs

/-! ### What staging and reading leave (R26) -/

/-- What is in force is the same, and Q holds of the staged items. -/
def InForceWith (Q : List Staged → Prop) (s t : State) : Prop := sameInForce s t ∧ Q t.tick.staged

theorem inForceWith_ignoresReply (Q : List Staged → Prop) (s : State) : IgnoresReply (InForceWith Q s) := by
  rintro t last logQ store ⟨ht, hQ⟩
  refine ⟨?_, hQ⟩
  unfold sameInForce at ht ⊢
  rw [ht]

/-- Settles O40: the rules of such a command only stage, and its reply leaves what is in force. -/
theorem stagingChangesNothingInForce : Obligations.StagingChangesNothingInForce := by
  unfold Obligations.StagingChangesNothingInForce
  intro c op h ws s t e hop ht
  obtain ⟨f, hf, hexec⟩ := exec_ringOp e
  rw [hexec] at ht
  cases ht
  refine runCmd_leaves (inForceWith_ignoresReply (fun l => ∃ new, l = s.tick.staged ++ new) s) ⟨rfl, [], (List.append_nil _).symm⟩
    (leaves_of_yields (cmd_stages hf hop h ws s) ?_)
  rintro _ ⟨new, rfl⟩
  exact ⟨rfl, new, rfl⟩

/-- Settles O41: the rules of such a command leave the state as it is, and its reply leaves what is in force. -/
theorem readingCommandsChangeNothing : Obligations.ReadingCommandsChangeNothing := by
  unfold Obligations.ReadingCommandsChangeNothing
  intro c op h ws s t e hop ht
  obtain ⟨f, hf, hexec⟩ := exec_ringOp e
  rw [hexec] at ht
  cases ht
  refine runCmd_leaves (inForceWith_ignoresReply (· = s.tick.staged) s) ⟨rfl, rfl⟩ (leaves_of_yields (cmd_reads hf hop h ws s) ?_)
  rintro _ rfl
  exact ⟨rfl, rfl⟩

/-! ### The Sett's memory (R208) -/

theorem mem_of_kept {s t : State} (h : t.kept = s.kept) : t.sett.mem = s.sett.mem := congrArg Kept.mem h

theorem putMask_mem (inst idx : Nat) (m : BitVec 64 × BitVec 16) (s : State) : (putMask inst idx m s).sett.mem = s.sett.mem := rfl

/-- A word misread from an internal memory is its owner's, never a granule of the Sett. -/
theorem misread_mem (inst idx : Nat) (d : BitVec 64) (s : State) : (misread inst idx d s).sett.mem = s.sett.mem := by
  unfold misread
  split
  · rfl
  · refine (putMask_mem ..).trans ?_
    unfold flipStored
    split
    case h_5 => rfl
    all_goals exact mem_of_kept (by simp)

/-- Reading a word of an internal memory leaves the Sett's. -/
theorem sramRead_mem (inst idx : Nat) (scrub : Bool) (s : State) : (sramRead inst idx scrub s).2.sett.mem = s.sett.mem := by
  unfold sramRead
  dsimp only
  split
  · rename_i d _
    split
    · exact misread_mem inst idx d s
    · exact (mem_of_kept (by simp)).trans (misread_mem inst idx d s)
  · split
    · exact mem_of_kept (by split <;> simp)
    · exact (putMask_mem ..).trans (mem_of_kept (by simp))

theorem sramUse_mem (inst lo n : Nat) (s : State) : (sramUse inst lo n s).2.sett.mem = s.sett.mem :=
  List.foldlRecOn (motive := fun a : Bool × State => a.2.sett.mem = s.sett.mem) _ _ (mem_of_kept (by simp))
    fun a ha i _ => (sramRead_mem inst i false a.2).trans ha

theorem logTake_mem (n : Nat) (es : List LogEnt) (a : State × List LogEnt × Nat) : (logTake n es a).1.sett.mem = a.1.sett.mem := by
  induction es generalizing a with
  | nil => rfl
  | cons e es ih =>
    obtain ⟨s, got, bad⟩ := a
    unfold logTake
    split
    · rfl
    · exact (ih _).trans (sramUse_mem ..)

/-- The rules leave the Sett's memory as it is. -/
def KeepsMem (s t : State) : Prop := t.sett.mem = s.sett.mem

theorem cmdSysBootCfg_keepsMem (h : CmdHdr) (ws : List Word) (s : State) : (cmdSysBootCfg h ws s).Yields (KeepsMem s) := by
  unfold cmdSysBootCfg
  refine yields_need fun _ => yields_need fun _ => yields_need fun _ => yields_need fun _ => ?_
  dsimp only
  split
  · exact yields_accept rfl
  · exact yields_done rfl

theorem cmdFwFuse_keepsMem (h : CmdHdr) (ws : List Word) (s : State) : (cmdFwFuse h ws s).Yields (KeepsMem s) := by
  unfold cmdFwFuse
  refine yields_needLen ?_
  dsimp only
  split <;> exact yields_need fun _ => yields_done rfl

theorem cmdSysResultRelease_keepsMem (h : CmdHdr) (ws : List Word) (s : State) : (cmdSysResultRelease h ws s).Yields (KeepsMem s) := by
  unfold cmdSysResultRelease
  refine yields_needLen (yields_need fun _ => ?_)
  split
  · exact yields_fail
  · exact yields_need fun _ => yields_done rfl

theorem cmdMcRead_keepsMem (h : CmdHdr) (ws : List Word) (s : State) : (cmdMcRead h ws s).Yields (KeepsMem s) := by
  unfold cmdMcRead
  refine yields_needLen (yields_need fun _ => ?_)
  split
  · exact yields_done rfl
  · split
    · exact yields_done rfl
    · exact yields_fail

theorem cmdFltInject_keepsMem (h : CmdHdr) (ws : List Word) (s : State) : (cmdFltInject h ws s).Yields (KeepsMem s) := by
  unfold cmdFltInject
  refine yields_needLen (yields_need fun _ => ?_)
  split
  · exact yields_done rfl
  · split
    · exact yields_done rfl
    · exact yields_done (mem_of_kept (by simp))

theorem cmdLogRead_keepsMem (h : CmdHdr) (ws : List Word) (s : State) : (cmdLogRead h ws s).Yields (KeepsMem s) := by
  unfold cmdLogRead
  refine yields_needLen (yields_need fun _ => ?_)
  dsimp only
  split
  · exact yields_done rfl
  · exact yields_done (logTake_mem ..)

theorem cmdPwrStateSet_keepsMem (h : CmdHdr) (ws : List Word) (s : State) : (cmdPwrStateSet h ws s).Yields (KeepsMem s) := by
  unfold cmdPwrStateSet
  refine yields_needLen (yields_need fun _ => yields_need fun _ => ?_)
  split
  · exact yields_done rfl
  · split
    · exact yields_done (mem_of_kept (by simp))
    · exact yields_stageOne rfl

/-- No acting command but the two that reach the Sett's memory changes it. -/
theorem cmd_keepsMem {op : Nat} {f : CmdHdr → List Word → State → CmdRes} (e : cmdOf op = some f) (hop : op ∈ actingOps) (h5 : op ≠ 0x0504)
    (h4 : op ≠ 0x0408) (h : CmdHdr) (ws : List Word) (s : State) : (f h ws s).Yields (KeepsMem s) := by
  fin_cases hop <;> cases e
  · exact cmdSysResultRelease_keepsMem h ws s
  · exact cmdSysBootCfg_keepsMem h ws s
  · exact yields_needLen (yields_need fun _ => yields_done rfl)
  · refine yields_need fun _ => yields_need fun _ => yields_need fun _ => yields_done ?_
    rfl
  · exact yields_needLen (yields_need fun _ => yields_accept rfl)
  · exact cmdFwFuse_keepsMem h ws s
  · exact yields_needLen (yields_need fun _ => yields_need fun _ => yields_need fun _ => yields_done rfl)
  · exact yields_needLen (yields_need fun _ => yields_needIdle (yields_done rfl))
  · exact yields_needLen (yields_needIdle (yields_accept rfl))
  · refine yields_needLen (yields_need fun _ => yields_needReady (yields_need fun _ => yields_done (mem_of_kept ?_)))
    simp
  · exact absurd rfl h4
  · exact yields_need fun _ => yields_needLen (yields_need fun _ => yields_need fun _ => yields_need fun _ => yields_accept rfl)
  · exact absurd rfl h5
  · exact yields_need fun _ => yields_needLen (yields_need fun _ => yields_done rfl)
  · exact cmdMcRead_keepsMem h ws s
  · exact cmdFltInject_keepsMem h ws s
  · exact cmdLogRead_keepsMem h ws s
  · exact yields_needLen (yields_need fun _ => yields_done rfl)
  · exact yields_needLen (yields_done rfl)
  · exact cmdPwrStateSet_keepsMem h ws s
  · exact yields_need fun _ => yields_needLen (yields_need fun _ => yields_need fun _ => yields_done rfl)
  · exact yields_needLen (yields_need fun _ => yields_need fun _ => yields_done rfl)

/-- Every ring command but ECC_TEST_ACCESS and SETT_CAP_READ leaves the Sett's memory. -/
theorem cmdOf_keepsMem {op : Nat} {f : CmdHdr → List Word → State → CmdRes} (e : cmdOf op = some f) (h5 : op ≠ 0x0504) (h4 : op ≠ 0x0408)
    (h : CmdHdr) (ws : List Word) (s : State) : (f h ws s).Leaves (KeepsMem s) := by
  obtain rfl | hop | hop | hop := cmdOf_cases e
  · cases e
    exact leaves_mono (cmdSysResultGet_keeps h ws s) fun t ht => mem_of_kept ht
  · refine leaves_of_yields (cmd_stages e hop h ws s) ?_
    rintro _ ⟨new, rfl⟩
    rfl
  · refine leaves_of_yields (cmd_reads e hop h ws s) ?_
    rintro _ rfl
    rfl
  · exact leaves_of_yields (cmd_keepsMem e hop h5 h4 h ws s) fun _ ht => ht

/-- Settles O56: a granule is read off the Sett's memory, which the command's rules and its reply leave. -/
theorem ringCommandsKeepTheMemory : Obligations.RingCommandsKeepTheMemory := by
  unfold Obligations.RingCommandsKeepTheMemory
  intro c op h ws s t e h5 h4 ht g
  obtain ⟨f, hf, hexec⟩ := exec_ringOp e
  rw [hexec] at ht
  cases ht
  have hmem : KeepsMem s (runCmd op f h ws s) := runCmd_leaves (fun _ _ _ _ ht => ht) rfl (cmdOf_keepsMem hf h5 h4 h ws s)
  unfold granuleOf
  rw [hmem]

/-! ### The status of the reply (R354) -/

/-- No command but SYS_RESULT_GET answers with the status of another. -/
theorem cmd_yields {op : Nat} {f : CmdHdr → List Word → State → CmdRes} (e : cmdOf op = some f) (h2 : op ≠ 2) (h : CmdHdr) (ws : List Word)
    (s : State) : ∃ P : State → Prop, (f h ws s).Yields P := by
  obtain rfl | hop | hop | hop := cmdOf_cases e
  · exact absurd rfl h2
  · exact ⟨_, cmd_stages e hop h ws s⟩
  · exact ⟨_, cmd_reads e hop h ws s⟩
  · by_cases h5 : op = 0x0504
    · subst h5; cases e
      exact ⟨_, cmdEccTestAccess_keeps h ws s⟩
    · by_cases h4 : op = 0x0408
      · subst h4; cases e
        exact ⟨_, cmdSettCapRead_keeps h ws s⟩
      · exact ⟨_, cmd_keepsMem e hop h5 h4 h ws s⟩

/-- The reply of such a command has its opcode and tag, and a status other than OK means that its rules have left nothing. -/
theorem finish_reply {P : State → Prop} {op : Nat} {h : CmdHdr} {s : State} {r : CmdRes} (hr : r.Yields P) :
    (finish op h s r).1.opcode = op ∧ (finish op h s r).1.tag = h.tag ∧ ((finish op h s r).1.status ≠ .ok → (finish op h s r).2 = s) := by
  cases r with
  | fail => exact ⟨rfl, rfl, fun _ => rfl⟩
  | full => exact hr.elim
  | done t d | capture t l =>
    dsimp only [finish]
    split
    · split
      · exact ⟨rfl, rfl, fun _ => rfl⟩
      · exact ⟨rfl, rfl, fun hok => absurd rfl hok⟩
    · exact ⟨rfl, rfl, fun hok => absurd rfl hok⟩
  | accept t k =>
    dsimp only [finish]
    split
    · exact ⟨rfl, rfl, fun _ => rfl⟩
    · exact ⟨rfl, rfl, fun hok => absurd rfl hok⟩

/-- Settles O38: a gate answers without the command's rules, and past the gates the reply is that of its outcome. -/
theorem otherStatusChangesNothing : Obligations.OtherStatusChangesNothing := by
  unfold Obligations.OtherStatusChangesNothing
  intro c op h ws s e h2 hw
  obtain ⟨f, hf, hexec⟩ := exec_ringOp e
  obtain ⟨P, hP⟩ := cmd_yields hf h2 h ws s
  obtain ⟨hop, htag, hst⟩ := finish_reply (op := op) (h := h) hP
  cases hg : gate s op with
  | some st => exact ⟨_, _, (hexec s).trans (congrArg _ (runCmd_gated hw hg)), rfl, rfl, rfl, fun _ => rfl⟩
  | none =>
    have hrun : runCmd op f h ws s = withReply (finish op h s (f h ws s)).1 (finish op h s (f h ws s)).2 := by
      rw [runCmd, if_pos hw, command, hg]
      rfl
    exact ⟨_, _, (hexec s).trans (congrArg _ hrun), rfl, hop, htag, fun hne => by rw [hst hne]⟩

end Sys2Proof.Machine
end

section
/-! PROOFS. The configuration commands that stage one item (R26, R27): past the checks of its own, such a command stages the item when it
is free and answers BUSY when it is staged. One lemma for each says which item, under the checks that the command makes. -/

namespace Sys2Proof.Machine

/-! ### Outcomes of a command that stages one item -/

/-- A free item is staged. -/
theorem runCmd_stages {op : Nat} {f : CmdHdr → List Word → State → CmdRes} {h : CmdHdr} {ws vs : List Word} {s : State} {it : ItemKind}
    {n o : Nat} (hr : Runs op s) (ha : h.async = false) (hf : f h ws s = stageOne s it n o vs) (hfree : s.isStaged it n = false) :
    runCmd op f h ws s = committed op h s (s.stage it n o vs) [] :=
  runCmd_done hr ha (hf.trans (stageOne_free hfree))

/-- A staged item is BUSY (R27). -/
theorem runCmd_busy {op : Nat} {f : CmdHdr → List Word → State → CmdRes} {h : CmdHdr} {ws vs : List Word} {s : State} {it : ItemKind}
    {n o : Nat} (hr : Runs op s) (hf : f h ws s = stageOne s it n o vs) (hst : s.isStaged it n = true) :
    runCmd op f h ws s = withReply (mkReply s op h .busy 0 []) s :=
  runCmd_fail hr (hf.trans (stageOne_staged hst))

/-- A command that answers a next state answers any state that is the same. -/
theorem next_of_eq {o : Res} {t u : State} (ho : o = .next t) (h : t = u) : o = .next u := ho.trans (congrArg _ h)

/-! ### The checks that commands share -/

/-- The Sett is READY, or the boot table is being taken. -/
theorem needReady_of {s : State} {k : CmdRes} (h : s.sett.st = .ready ∨ s.cmd.accepting = true) : needReady s k = k :=
  need_true (by simpa using h)

/-- Nothing is being zeroised (R203). -/
theorem needIdle_of {s : State} {k : CmdRes} (h : s.nut.zeroising = none) : needIdle s k = k := need_true (by simp [h])

/-- A valid entry has no invalid word. -/
theorem opticsBad_isNone {ws : List Word} (h : opticsValid ws = true) : (opticsBad ws).isNone = true := (Bool.and_eq_true_iff.mp h).2

/-! ### The item that each command stages -/

section

variable {h : CmdHdr} {ws : List Word} {s : State}

theorem cmdLogCfg_eq_stageOne (hlen : ws.length = 1) (hbits : onlyBits (wd ws 0) 0xF3) :
    cmdLogCfg h ws s = stageOne s .logCfg 0 0 ws :=
  (needLen_eq hlen).trans <| need_true hbits

theorem cmdLineConvSet_eq_stageOne (hlen : ws.length = 9) (hbits : onlyBits (wd ws 0) 1) (hoptics : opticsValid (ws.drop 1))
    (htx : (s.cv (fld (wd ws 0) 0 0)).tx = .off) (hrx : (s.cv (fld (wd ws 0) 0 0)).rx = .off) :
    cmdLineConvSet h ws s = stageOne s .convEntry (fld (wd ws 0) 0 0) 0 (ws.drop 1) :=
  (needLen_eq hlen).trans <| (need_true hbits).trans <| (need_true (opticsBad_isNone hoptics)).trans <| need_true (by simp [htx, hrx])

theorem cmdLineConvRetire_eq_stageOne (hlen : ws.length = 1) (hbits : onlyBits (wd ws 0) 0x17F31) (hmax : fld (wd ws 0) 14 8 ≤ 64)
    (hflag : flag (wd ws 0) 16 = true) (hrx : (s.cv (fld (wd ws 0) 0 0)).rx = .off) :
    cmdLineConvRetire h ws s = stageOne s .slice (adcQual (fld (wd ws 0) 0 0) (fld (wd ws 0) 5 4)) 1 [wd ws 0] :=
  (needLen_eq hlen).trans <| (need_true hbits).trans <| (need_true (by simp [hmax])).trans <| (if_pos hflag).trans <|
    need_true (by simp [hrx])

theorem cmdLineScCfg_eq_stageOne (hlen : ws.length = 2) (hbits : onlyBits (wd ws 0) 0xFF03F301) (hmax : fld (wd ws 0) 31 24 ≤ 17)
    (hmin : 11 ≤ fld (wd ws 0) 17 12) (hmax2 : fld (wd ws 0) 17 12 ≤ 40)
    (hle : 2197 + 128 * fld (wd ws 0) 31 24 ≤ 200 * fld (wd ws 0) 17 12) (hbits1 : onlyBits (wd ws 1) 0xFFFF)
    (hmin2 : 32 ≤ fld (wd ws 1) 15 0) (hmax3 : fld (wd ws 1) 15 0 ≤ 1024) (htx : (s.cv (fld (wd ws 0) 0 0)).tx = .off)
    (hrx : (s.cv (fld (wd ws 0) 0 0)).rx = .off) :
    cmdLineScCfg h ws s = stageOne s .scCfg (fld (wd ws 0) 0 0) 0 ws :=
  (needLen_eq hlen).trans <| (need_true hbits).trans <| (need_true (by simp [hmax, hmin, hmax2])).trans <|
    (need_true (by simp [hle])).trans <| (need_true (by simp [hbits1, hmin2, hmax3])).trans <| need_true (by simp [htx, hrx])

theorem cmdLineRxCfg_eq_stageOne (hlen : ws.length = 4) (hbits : onlyBits (wd ws 0) 0xFFFF3F01) (hmin : 1 ≤ fld (wd ws 0) 31 21)
    (hmax : fld (wd ws 0) 31 21 ≤ 1024) (hword : -320000 ≤ sword (wd ws 1)) (hword2 : sword (wd ws 1) ≤ 320000)
    (hmin3 : 1000 ≤ (wd ws 2).toNat) (hmax2 : (wd ws 2).toNat ≤ 320000) (hbits3 : onlyBits (wd ws 3) 0xFFFF)
    (hlt : fld (wd ws 3) 15 8 < fld (wd ws 3) 7 0) :
    cmdLineRxCfg h ws s = stageOne s .rxCfg (fld (wd ws 0) 0 0) 0 ws :=
  (needLen_eq hlen).trans <| (need_true (by simp [hbits, hmin, hmax])).trans <| (need_true (by simp [hword, hword2])).trans <|
    (need_true (by simp [hmin3, hmax2])).trans <| need_true (by simp [hbits3, hlt])

theorem cmdLineRxAcq_eq_stageOne (hlen : ws.length = 1) (hbits : onlyBits (wd ws 0) 1)
    (hrxd : (s.ds (fld (wd ws 0) 0 0)).rxd = .scAcq ∨ (s.ds (fld (wd ws 0) 0 0)).rxd = .run) :
    cmdLineRxAcq h ws s = stageOne s .rxAcq (fld (wd ws 0) 0 0) 0 [] :=
  (needLen_eq hlen).trans <| (need_true hbits).trans <| need_true (by simp [hrxd])

theorem cmdLineFecCfg_eq_stageOne (hlen : ws.length = 1) (hbits : onlyBits (wd ws 0) 0xFFFFFFF1) (hmin : 1024 ≤ fld (wd ws 0) 31 16)
    (hmax : fld (wd ws 0) 31 16 ≤ 11520) (hmin2 : 4 ≤ fld (wd ws 0) 15 8) (hmax2 : fld (wd ws 0) 15 8 ≤ 32)
    (htxRate : fld (wd ws 0) 5 4 = (s.fr (fld (wd ws 0) 0 0)).txRate ∨ (s.cv (fld (wd ws 0) 0 0)).tx = .off)
    (hrxRate : fld (wd ws 0) 7 6 = (s.fr (fld (wd ws 0) 0 0)).rxRate ∨ (s.cv (fld (wd ws 0) 0 0)).rx = .off) :
    cmdLineFecCfg h ws s = stageOne s .fecCfg (fld (wd ws 0) 0 0) 0 ws :=
  (needLen_eq hlen).trans <| (need_true (by simp [hbits, hmin, hmax, hmin2, hmax2])).trans <| (need_true (by simp [htxRate])).trans <|
    need_true (by simp [hrxRate])

theorem cmdLineHdrMsg_eq_stageOne (hlen : ws.length = 17) (hbits : onlyBits (wd ws 0) 1) :
    cmdLineHdrMsg h ws s = stageOne s .hdrMsg (fld (wd ws 0) 0 0) 0 (ws.drop 1) :=
  (needLen_eq hlen).trans <| need_true hbits

theorem cmdClientLaneRaw_eq_stageOne (hlen : ws.length = 1) (hbits : onlyBits (wd ws 0) 0x7F0F0C73) (hne : fld (wd ws 0) 11 10 ≠ 3)
    (hmax : fld (wd ws 0) 6 4 ≤ 4) (howner : laneOwner s (fld (wd ws 0) 19 16) = none)
    (hclaimed : laneClaimed s (fld (wd ws 0) 19 16) = false) :
    cmdClientLaneRaw h ws s = stageOne s .laneRaw (fld (wd ws 0) 19 16) 0 ws :=
  (needLen_eq hlen).trans <| (need_true (by simp [hbits, hmax, hne])).trans <| need_true (by simp [howner, hclaimed])

theorem cmdClientRefSel_eq_stageOne (hlen : ws.length = 1) (hbits : onlyBits (wd ws 0) 0x8F8F) :
    cmdClientRefSel h ws s = stageOne s .refSel 0 0 ws :=
  (needLen_eq hlen).trans <| need_true hbits

theorem cmdClientTsAdj_eq_stageOne (hlen : ws.length = 3) (hbits : onlyBits (wd ws 0) 7) (hword : -20000 ≤ sword (wd ws 1))
    (hword2 : sword (wd ws 1) ≤ 20000) (hword3 : -20000 ≤ sword (wd ws 2)) (hword4 : sword (wd ws 2) ≤ 20000) :
    cmdClientTsAdj h ws s = stageOne s .tsAdj (fld (wd ws 0) 2 0) 0 ws :=
  (needLen_eq hlen).trans <| (need_true hbits).trans <| (need_true (by simp [hword, hword2])).trans <|
    need_true (by simp [hword3, hword4])

theorem cmdClassKeySet_eq_stageOne {k : BitVec 64}
    (hkEq : k = keyWord (fld (wd ws 0) 2 0) (fld (wd ws 0) 26 24) ((wd ws 1).toNat + 2 ^ 32 * fld (wd ws 2) 15 0)) (hlen : ws.length = 4)
    (hbits : onlyBits (wd ws 0) 0x87000007) (hmin : 1 ≤ fld (wd ws 0) 26 24) (hmax : fld (wd ws 0) 26 24 ≤ 5)
    (hlt : (wd ws 1).toNat < 2 ^ keyWidth (fld (wd ws 0) 26 24))
    (hlt2 : (wd ws 1).toNat + 2 ^ 32 * fld (wd ws 2) 15 0 < 2 ^ keyWidth (fld (wd ws 0) 26 24)) (hbits2 : onlyBits (wd ws 2) 0xFFFF)
    (hbits3 : onlyBits (wd ws 3) 0x1FFF) (hflag : flag (wd ws 0) 31 = false)
    (hkey : (keyLookup s k).isSome = true ∨ bucketLoad s (bucketOf k) < 4) :
    cmdClassKeySet h ws s = stageOne s .key k.toNat 0 [wd ws 3] := by
  unfold cmdClassKeySet
  dsimp only
  rw [← hkEq]
  exact (needLen_eq hlen).trans <| (need_true (by simp [hbits, hmin, hmax])).trans <| (need_true (by simp [hlt])).trans <|
    (need_true (by rw [hbits2, decide_eq_true hlt2]; rfl)).trans <| (need_true hbits3).trans <| (need_true (by simp [hflag])).trans <|
    congrArg (needFree s .key k.toNat) ((need_true (by simpa [hflag] using hkey)).trans (by rw [hflag]; rfl))

theorem cmdSaActivate_eq_stageOne (hlen : ws.length = 1) (hbits : onlyBits (wd ws 0) 0x1FFF) (hidle : s.nut.zeroising = none)
    (hvalid : (s.sa (fld (wd ws 0) 12 0)).txNxt.valid = true) (hmark : slotNow s (fld (wd ws 0) 12 0) = false) :
    cmdSaActivate h ws s = stageOne s .sa (fld (wd ws 0) 12 0) 1 [] :=
  (needLen_eq hlen).trans <| (need_true hbits).trans <| (needIdle_of hidle).trans <| (need_true (by simp [hvalid])).trans <|
    need_true (by simp [hmark])

theorem cmdSaRxPromote_eq_stageOne (hlen : ws.length = 1) (hbits : onlyBits (wd ws 0) 0x1FFF) (hidle : s.nut.zeroising = none)
    (hvalid : (s.sa (fld (wd ws 0) 12 0)).rxNxt.valid = true) :
    cmdSaRxPromote h ws s = stageOne s .sa (fld (wd ws 0) 12 0) 2 [] :=
  (needLen_eq hlen).trans <| (need_true hbits).trans <| (needIdle_of hidle).trans <| need_true (by simp [hvalid])

theorem cmdSaKeyClear_eq_stageOne (hlen : ws.length = 1) (hbits : onlyBits (wd ws 0) 0x31FFF) (hne : fld (wd ws 0) 17 16 ≠ 3)
    (hidle : s.nut.zeroising = none) :
    cmdSaKeyClear h ws s = stageOne s .sa (fld (wd ws 0) 12 0) 3 ws :=
  (needLen_eq hlen).trans <| (need_true (by simp [hbits, hne])).trans <| needIdle_of hidle

theorem cmdSaPnAdvance_eq_stageOne (hlen : ws.length = 3) (hbits : onlyBits (wd ws 0) 0x1FFF) (hidle : s.nut.zeroising = none)
    (hlt : (s.sa (fld (wd ws 0) 12 0)).txCur.pn < ofLohi (wd ws 1) (wd ws 2)) :
    cmdSaPnAdvance h ws s = stageOne s .sa (fld (wd ws 0) 12 0) 5 (ws.drop 1) :=
  (needLen_eq hlen).trans <| (need_true hbits).trans <| (needIdle_of hidle).trans <| need_true (by simp [hlt])

theorem cmdSettMergeSet_eq_stageOne {b} (hlen : ws.length = 3) (hbits : onlyBits (wd ws 0) 0xC0011FFF) (hok : fld (wd ws 0) 31 30 = 0)
    (hring : (s.mg (fld (wd ws 0) 12 0)).ringU = 0) (hbits1 : onlyBits (wd ws 1) 0x3FFFFF) (hne : fld (wd ws 1) 21 0 ≠ 0)
    (hbits2 : onlyBits (wd ws 2) 0xFFFF) (hmin : 3 ≤ fld (wd ws 2) 15 0) (hready : s.sett.st = .ready ∨ s.cmd.accepting = true)
    (hfit : firstFit s (fld (wd ws 1) 21 0) = some b) :
    cmdSettMergeSet h ws s = stageOne s .merge (fld (wd ws 0) 12 0) 0 (ws ++ [mkWord b]) :=
  (needLen_eq hlen).trans <| (need_true (by simp [hbits, hok, hring])).trans <| (need_true (by simp [hbits1, hne])).trans <|
    (need_true (by simp [hbits2, hmin])).trans <| (needReady_of hready).trans <|
    congrArg (needFree s .merge (fld (wd ws 0) 12 0)) (by rw [hok, hfit]; rfl)

theorem cmdSettCapCfg_eq_stageOne (hlen : ws.length = 5) (hbits : onlyBits (wd ws 0) 0x1FFF000F) (hmax : fld (wd ws 0) 2 0 ≤ 5)
    (hbits1 : onlyBits (wd ws 1) 0x01FF0003) (hmax2 : fld (wd ws 1) 1 0 ≤ 2) (hbits4 : onlyBits (wd ws 4) 0x07FFFFFF)
    (hready : s.sett.st = .ready ∨ s.cmd.accepting = true) (hcap : s.sett.cap = .idle ∨ s.sett.cap = .done) :
    cmdSettCapCfg h ws s = stageOne s .capCfg 0 0 ws :=
  (needLen_eq hlen).trans <| (need_true (by simp [hbits, hmax])).trans <| (need_true (by simp [hbits1, hmax2])).trans <|
    (need_true hbits4).trans <| (needReady_of hready).trans <| need_true (by simp [hcap])

theorem cmdSettCapArm_eq_stageOne (hlen : ws.length = 1) (hbits : onlyBits (wd ws 0) 3)
    (hready : s.sett.st = .ready ∨ s.cmd.accepting = true) :
    cmdSettCapArm h ws s = stageOne s .capArm 0 0 ws :=
  (needLen_eq hlen).trans <| (need_true hbits).trans <| needReady_of hready

theorem cmdEccScrubCfg_eq_stageOne (hlen : ws.length = 1) (hbits : onlyBits (wd ws 0) 0x8001FFFF) (hmin : 14 ≤ fld (wd ws 0) 16 0)
    (hmax : fld (wd ws 0) 16 0 ≤ 86400) :
    cmdEccScrubCfg h ws s = stageOne s .scrub 0 0 ws :=
  (needLen_eq hlen).trans <| need_true (by simp [hbits, hmin, hmax])

theorem cmdTimRefCfg_eq_stageOne (hlen : ws.length = 4) (hbits : onlyBits (wd ws 0) 0xF07F0007)
    (hlt : refPps ws = true → fld (wd ws 0) 2 0 < 4) (hok : bwOk (refPps ws) (refBw ws) = true)
    (hmode : refPrio ws = 0 → s.tim.mode = 1 ∨ s.tim.mode = 2 → fld (wd ws 0) 2 0 ≠ s.tim.selRef) (hbits1 : onlyBits (wd ws 1) 0x3FFFFFFF)
    (hmax : refPps ws = true ∨ 4 ≤ fld (wd ws 0) 2 0 ∨ 1000 ≤ refNom ws ∧ refNom ws ≤ 800000000) (hmin : -1000000 ≤ refDelay ws)
    (hmax2 : refDelay ws ≤ 1000000) (hbits3 : onlyBits (wd ws 3) 0x3FFF) (hmin2 : 1 ≤ fld (wd ws 3) 13 0)
    (hmax3 : fld (wd ws 3) 13 0 ≤ 10000) :
    cmdTimRefCfg h ws s = stageOne s .ref (fld (wd ws 0) 2 0) 0 ws :=
  (needLen_eq hlen).trans <| (need_true (by simp [hbits, hok]; grind)).trans <|
    (need_true (by simpa [hbits1, or_assoc] using hmax)).trans <| (need_true (by simp [hmin, hmax2])).trans <|
    need_true (by simp [hbits3, hmin2, hmax3])

theorem cmdTimDpllCfg_eq_stageOne {t : TimS} (htEq : t = { s.tim with cfg := ws }) (hlen : ws.length = 4)
    (hbits : onlyBits (wd ws 0) 0xC70003FF) (hmin : 1 ≤ t.wtr) (hmax : t.wtr ≤ 600)
    (hmode : t.mode = 1 ∨ t.mode = 2 → (s.ref t.selRef).prio ≠ 0) (hmin2 : 10 ≤ fld (wd ws 1) 31 16) (hmax2 : fld (wd ws 1) 31 16 ≤ 5000)
    (hmin3 : 10 ≤ fld (wd ws 1) 15 0) (hmax3 : fld (wd ws 1) 15 0 ≤ 10000) (hmin4 : 10 ≤ t.window) (hmax4 : t.window ≤ 900)
    (hmax5 : t.guardSec ≤ 120) (hbits3 : onlyBits (wd ws 3) 0xFFFF01FF) (hmin5 : 1 ≤ t.slewRate) (hmax6 : t.slewRate ≤ 10000)
    (hmax7 : t.xoPpm ≤ 50) (haccepting : s.cmd.accepting = true ∨ t.ocxoEn = s.tim.ocxoEn) :
    cmdTimDpllCfg h ws s = stageOne s .dpll 0 0 ws := by
  unfold cmdTimDpllCfg
  rw [← htEq]
  exact (needLen_eq hlen).trans <| (need_true (by simp [hbits, hmin, hmax]; grind)).trans <|
    (need_true (by simp [hmin2, hmax2, hmin3, hmax3])).trans <| (need_true (by simp [hmin4, hmax4, hmax5])).trans <|
    need_true (by simp [hbits3, hmin5, hmax6, hmax7, haccepting])

theorem cmdTimeSet_eq_stageOne (hlen : ws.length = 7) (hgood : timeSetBad s ws = none)
    (hlocked : fld (wd ws 0) 1 0 = 2 ∨ 8 ≤ s.tim.sel ∨ (s.ref s.tim.sel).pps = false ∨
      (s.tim.st ≠ .acquire ∧ s.tim.st ≠ .locked ∧ s.tim.st ≠ .switch))
    :
    cmdTimeSet h ws s = stageOne s .timeSet 0 0 ws :=
  (needLen_eq hlen).trans <| (need_true (by simp [hgood])).trans <| need_true (by simp; grind)

theorem cmdTimOutCfg_eq_stageOne (hlen : ws.length = 5) (hbits : onlyBits (wd ws 0) 0xE0070007) (hmax : fld (wd ws 0) 2 0 ≤ 5)
    (hne : outSquelch ws ≠ 3) (hlt : fld (wd ws 0) 2 0 < 4 ∨ outSrc ws ≤ 4 ∧ (outSrc ws = 0 ∨ (s.ref (outSrc ws - 1)).pps = true))
    (hmin : -62500000000 ≤ signed 37 (fld (wd ws 1) 31 0 + 2 ^ 32 * fld (wd ws 2) 4 0))
    (hmax2 : signed 37 (fld (wd ws 1) 31 0 + 2 ^ 32 * fld (wd ws 2) 4 0) ≤ 62500000000) (hbits2 : onlyBits (wd ws 2) 0xFFFFF01F)
    (hmin2 : 1 ≤ fld (wd ws 2) 31 12) (hmax3 : fld (wd ws 2) 31 12 ≤ 500000) (hbits3 : onlyBits (wd ws 3) 0xFFFFFF)
    (hbits4 : onlyBits (wd ws 4) 0xFFFFFF) (hne2 : fld (wd ws 4) 23 0 ≠ 0)
    (hle : 1000 * fld (wd ws 4) 23 0 ≤ 1600000000 * fld (wd ws 3) 23 0)
    (hle2 : 1600000000 * fld (wd ws 3) 23 0 ≤ 800000000 * fld (wd ws 4) 23 0) :
    cmdTimOutCfg h ws s = stageOne s .out (fld (wd ws 0) 2 0) 0 ws :=
  (needLen_eq hlen).trans <| (need_true (by simp [hbits, hmax, hne, hlt])).trans <|
    (need_true (by rw [decide_eq_true hmin, decide_eq_true hmax2]; rfl)).trans <| (need_true (by simp [hbits2, hmin2, hmax3])).trans <|
    need_true (by simp [hbits3, hbits4, hle, hle2, hne2])

theorem cmdChainAsym_eq_stageOne (hlen : ws.length = 2) (hword : (sword (wd ws 0)).natAbs ≤ 100000)
    (hword2 : (sword (wd ws 1)).natAbs ≤ 100000) :
    cmdChainAsym h ws s = stageOne s .chainAsym 0 0 ws :=
  (needLen_eq hlen).trans <| (need_true (by simp [hword])).trans <| need_true (by simp [hword2])

theorem cmdMartenLineCfg_eq_stageOne {m : MartenL} (hmEq : m = { cfg := ws }) (hlen : ws.length = 7)
    (hbits : onlyBits (wd ws 0) 0x1FFFF031) (hmin : 125 ≤ m.ttAvg) (hmax : m.ttAvg ≤ 125000) (hmode : m.mode ≠ 3)
    (hmax2 : m.fTx = 0 ∨ 185000000 ≤ m.fTx ∧ m.fTx ≤ 200000000) (hbits2 : onlyBits (wd ws 2) 0x3FFFF) (hmax3 : m.txPath ≤ 200000)
    (hbits3 : onlyBits (wd ws 3) 0x3FFFF) (hmax4 : m.rxPath ≤ 200000) (hmax5 : m.asymCal.natAbs ≤ 100000000)
    (hbits5 : onlyBits (wd ws 5) 0xFFFF0FFF) (hmin2 : 16 ≤ m.driftAvg) (hbits6 : onlyBits (wd ws 6) 0xFFFF) (hmin3 : 10 ≤ m.jumpThr)
    (hmax6 : m.jumpThr ≤ 10000) :
    cmdMartenLineCfg h ws s = stageOne s .martenLine (fld (wd ws 0) 0 0) 0 ws := by
  unfold cmdMartenLineCfg
  rw [← hmEq]
  exact (needLen_eq hlen).trans <| (need_true (by simp [hbits, hmin, hmax, hmode])).trans <| (need_true (by simp [hmax2])).trans <|
    (need_true (by simp [hbits2, hmax3])).trans <| (need_true (by simp [hbits3, hmax4])).trans <| (need_true (by simp [hmax5])).trans <|
    (need_true (by simp [hbits5, hmin2])).trans <| need_true (by simp [hbits6, hmin3, hmax6])

theorem cmdMartenAsymCal_eq_stageOne (hlen : ws.length = 2 ∨ ws.length = 4) (hbits : onlyBits (wd ws 0) 1)
    (hword : (sword (wd ws 1)).natAbs ≤ 100000000) (hok : ws.getD 2 0x80000000 = 0x80000000 ↔ ws.getD 3 0x80000000 = 0x80000000)
    (hmode : (s.ml (fld (wd ws 0) 0 0)).mode = 2 ∨ ws.getD 2 0x80000000 = 0x80000000) :
    cmdMartenAsymCal h ws s = stageOne s .martenLine (fld (wd ws 0) 0 0) 1 [wd ws 1, ws.getD 2 0x80000000, ws.getD 3 0x80000000] :=
  (need_true (by simp [hlen])).trans <| (need_true hbits).trans <| (need_true (by simp [hword])).trans <|
    need_true (by simpa using And.intro hok hmode)

theorem cmdMartenSteer_eq_stageOne (hlen : ws.length = 1) (hbits : onlyBits (wd ws 0) 0x00FF0107) (hmax : steerSrc (wd ws 0) ≤ 5)
    (hmax2 : deadBand (wd ws 0) ≤ 100) :
    cmdMartenSteer h ws s = stageOne s .steer 0 0 ws :=
  (needLen_eq hlen).trans <| need_true (by simp [hbits, hmax, hmax2])

theorem cmdMartenPtpCfg_eq_stageOne (hlen : ws.length = 1) (hbits : onlyBits (wd ws 0) 0xFCFF3307) (hmin : -7 ≤ sfld (wd ws 0) 31 28)
    (hmax : sfld (wd ws 0) 31 28 ≤ 0) (hne : fld (wd ws 0) 27 26 ≠ 3) (hmax2 : fld (wd ws 0) 13 12 ≤ 1) :
    cmdMartenPtpCfg h ws s = stageOne s .ptp (fld (wd ws 0) 2 0) 0 ws :=
  (needLen_eq hlen).trans <| need_true (by simp [hbits, hmin, hmax, hmax2, hne])

theorem cmdMcCfg_eq_stageOne {m : MartenL} (hmEq : m = { mc := ws }) (hlen : ws.length = 2) (hbits : onlyBits (wd ws 0) 0x00FFFF31)
    (hmin : 10 ≤ m.capMargin) (hmax : m.capMargin ≤ 200)
    (hrole : m.role = 0 ∨ (s.ds (fld (wd ws 0) 0 0)).mcEn = true ∧ (s.ml (fld (wd ws 0) 0 0)).role = 0) (hmin2 : 1 ≤ m.mcAvg)
    (hmax2 : m.mcAvg ≤ 1024) (hmin3 : 8 ≤ m.period) (hmax3 : m.period ≤ 12500) (htx : m.role = 3 → (s.cv (fld (wd ws 0) 0 0)).tx = .off)
    :
    cmdMcCfg h ws s = stageOne s .mc (fld (wd ws 0) 0 0) 0 ws := by
  unfold cmdMcCfg
  rw [← hmEq]
  exact (needLen_eq hlen).trans <| (need_true (by simp [hbits, hmin, hmax]; exact hrole.imp id And.left)).trans <|
    (need_true (by simp [hmin2, hmax2, hmin3, hmax3])).trans <| (need_true (by simpa using hrole.imp id And.right)).trans <|
    need_true (by simpa [imp_iff_not_or] using htx)

theorem cmdCloveChanCfg_eq_stageOne (hlen : ws.length = 1) (hbits : onlyBits (wd ws 0) 0x31F) :
    cmdCloveChanCfg h ws s = stageOne s .chan (fld (wd ws 0) 4 0) 0 ws :=
  (needLen_eq hlen).trans <| need_true hbits

theorem cmdCloveSeqSet_eq_stageOne (hlen : ws.length = 10) (hseq : seqOk ws) :
    cmdCloveSeqSet h ws s = stageOne s .seq (fld (wd ws 0) 31 31) 0 ws :=
  (needLen_eq hlen).trans <| need_true hseq

theorem cmdCloveDetCfg_eq_stageOne (hlen : ws.length = 3) (hbits : onlyBits (wd ws 0) 0xFFFFFF3F) (hne : fld (wd ws 0) 31 16 ≠ 0)
    (hlt : fld (wd ws 0) 13 8 < 48) (hbits1 : onlyBits (wd ws 1) 0x0FFFFFFF) (hbits2 : onlyBits (wd ws 2) 0x00FFFFFF) :
    cmdCloveDetCfg h ws s = stageOne s .det (fld (wd ws 0) 3 0) 0 ws :=
  (needLen_eq hlen).trans <| (need_true (by simp [hbits, hlt, hne])).trans <| (need_true hbits1).trans <| need_true hbits2

theorem cmdCloveTdac_eq_stageOne (hlen : ws.length = 1) (hbits : onlyBits (wd ws 0) 0x1FF30FFF) (hne : fld (wd ws 0) 17 16 ≠ 3) :
    cmdCloveTdac h ws s = stageOne s .tdac 0 0 ws :=
  (needLen_eq hlen).trans <| need_true (by simp [hbits, hne])

theorem cmdCloveBiasCfg_eq_stageOne (hlen : ws.length = 6) (hbias : biasOk ws) :
    cmdCloveBiasCfg h ws s = stageOne s .bias (fld (wd ws 0) 3 0) 0 ws :=
  (needLen_eq hlen).trans <| need_true hbias

theorem cmdCloveBiasSet_eq_stageOne (hlen : ws.length = 1) (hbits : onlyBits (wd ws 0) 0xFFFF000F)
    (hle : (s.clv.bias.get (fld (wd ws 0) 3 0)).min ≤ fld (wd ws 0) 31 16)
    (hle2 : fld (wd ws 0) 31 16 ≤ (s.clv.bias.get (fld (wd ws 0) 3 0)).max) (hloop : (s.clv.bias.get (fld (wd ws 0) 3 0)).target = 0) :
    cmdCloveBiasSet h ws s = stageOne s .bias (fld (wd ws 0) 3 0) 1 ws :=
  (needLen_eq hlen).trans <| (need_true (by simp [hbits, hle, hle2])).trans <| need_true (by simp [hloop])

theorem cmdCloveCalCfg_eq_stageOne (hlen : ws.length = 1) (hbits : onlyBits (wd ws 0) 0x800F3FFF) (hmin : 125 ≤ fld (wd ws 0) 13 0)
    (hmax : fld (wd ws 0) 13 0 ≤ 12500) :
    cmdCloveCalCfg h ws s = stageOne s .cloveCal 0 0 ws :=
  (needLen_eq hlen).trans <| need_true (by simp [hbits, hmin, hmax])

theorem cmdCntDumpCfg_eq_stageOne {c : CntS} (hcEq : c = { dumpCfg := ws }) (hlen : ws.length = 5) (hbits : onlyBits (wd ws 0) 0x80FF0000)
    (hmin : 2 ≤ c.nbuf) (hbits1 : onlyBits (wd ws 1) 0x00FFFFFF) (hmin2 : 16 ≤ c.period) (hbits2 : onlyBits (wd ws 2) 0x1FFF0FFF)
    (hmin3 : 1 ≤ c.count) (hmax : c.count ≤ 4096) (hmax2 : c.first + c.count ≤ 4096) (hok : fld (wd ws 3) 11 0 = 0) :
    cmdCntDumpCfg h ws s = stageOne s .dumpCfg 0 0 ws := by
  unfold cmdCntDumpCfg
  rw [← hcEq]
  exact (needLen_eq hlen).trans <| (need_true (by simp [hbits, hmin])).trans <| (need_true (by simp [hbits1, hmin2])).trans <|
    (need_true (by simp [hbits2, hmin3, hmax, hmax2])).trans <| need_true (by simp [hok])

theorem cmdPwrStateSet_eq_stageOne (hlen : ws.length = 1) (hbits : onlyBits (wd ws 0) 0x13) (hchanging : s.pwr.changing = false)
    (hchange : pwrOf (fld (wd ws 0) 1 0) ≠ s.pwr.st ∨ pwrOf (fld (wd ws 0) 1 0) = .p1 ∧ fld (wd ws 0) 4 4 ≠ s.pwr.p1Line)
    (hchange2 : s.pwr.st ≠ .p3) :
    cmdPwrStateSet h ws s = stageOne s .pwrState 0 0 ws :=
  (needLen_eq hlen).trans <| (need_true hbits).trans <| (need_true (by simp [hchanging])).trans <| (if_neg (by grind)).trans <|
    if_neg hchange2

theorem cmdPwrAvsCfg_eq_stageOne (hlen : ws.length = 1) (hbits : onlyBits (wd ws 0) 0xF) (hmin : -5 ≤ sfld (wd ws 0) 3 0)
    (hmax : sfld (wd ws 0) 3 0 ≤ 5) :
    cmdPwrAvsCfg h ws s = stageOne s .avs 0 0 ws :=
  (needLen_eq hlen).trans <| need_true (by simp [hbits, hmin, hmax])

theorem cmdPwrPolicy_eq_stageOne (hlen : ws.length = 2) (hbits : onlyBits (wd ws 0) 0x8000FFFF) (hmin : 80 ≤ fld (wd ws 0) 7 0)
    (hmax : fld (wd ws 0) 7 0 ≤ 105) (hmin2 : 100 ≤ fld (wd ws 0) 15 8) (hmax2 : fld (wd ws 0) 15 8 ≤ 115)
    (hbits1 : onlyBits (wd ws 1) 0xFFFF) (hmin3 : 100 ≤ fld (wd ws 1) 15 0) (hmax3 : fld (wd ws 1) 15 0 ≤ 1500) :
    cmdPwrPolicy h ws s = stageOne s .policy 0 0 ws :=
  (needLen_eq hlen).trans <| (need_true (by simp [hbits, hmin, hmax, hmin2, hmax2])).trans <| need_true (by simp [hbits1, hmin3, hmax3])

theorem cmdPinCfg_eq_stageOne (hlen : ws.length = 1) (hbits : onlyBits (wd ws 0) 0xF0F) :
    cmdPinCfg h ws s = stageOne s .pin 0 0 ws :=
  (needLen_eq hlen).trans <| need_true hbits

end

/-- Settles O42: each of these commands stages its item only past the check that it is free (R27). -/
theorem stagedItemIsBusy : Obligations.StagedItemIsBusy := by
  unfold Obligations.StagedItemIsBusy exec
  intro h ws s
  refine ⟨?_, ?_, ?_, ?_, ?_, ?_, ?_, ?_, ?_, ?_, ?_, ?_, ?_, ?_, ?_, ?_, ?_, ?_, ?_, ?_, ?_, ?_, ?_, ?_, ?_, ?_, ?_, ?_, 
    ?_, ?_, ?_, ?_, ?_, ?_, ?_, ?_, ?_, ?_, ?_, ?_, ?_, ?_⟩
  · exact fun _ hr hlen hbits hst => next_of_eq rfl (runCmd_busy hr (cmdLogCfg_eq_stageOne hlen hbits) hst)
  · exact fun _ hr hlen hbits hoptics htx hrx hst => next_of_eq rfl (runCmd_busy hr (cmdLineConvSet_eq_stageOne hlen hbits hoptics htx
      hrx) hst)
  · exact fun _ hr hlen hbits hmax hflag hrx hst => next_of_eq rfl (runCmd_busy hr (cmdLineConvRetire_eq_stageOne hlen hbits hmax hflag
      hrx) hst)
  · exact fun _ hr hlen hbits hmax hmin hmax2 hle hbits1 hmin2 hmax3 htx hrx hst => next_of_eq rfl (runCmd_busy hr
      (cmdLineScCfg_eq_stageOne hlen hbits hmax hmin hmax2 hle hbits1 hmin2 hmax3 htx hrx) hst)
  · exact fun _ hr hlen hbits hmin hmax _ hword hword2 hmin3 hmax2 hbits3 hlt hst => next_of_eq rfl (runCmd_busy hr
      (cmdLineRxCfg_eq_stageOne hlen hbits hmin hmax hword hword2 hmin3 hmax2 hbits3 hlt) hst)
  · exact fun _ hr hlen hbits hrxd hst => next_of_eq rfl (runCmd_busy hr (cmdLineRxAcq_eq_stageOne hlen hbits hrxd) hst)
  · exact fun _ hr hlen hbits hmin hmax hmin2 hmax2 htxRate hrxRate hst => next_of_eq rfl (runCmd_busy hr (cmdLineFecCfg_eq_stageOne hlen
      hbits hmin hmax hmin2 hmax2 htxRate hrxRate) hst)
  · exact fun _ hr hlen hbits hst => next_of_eq rfl (runCmd_busy hr (cmdLineHdrMsg_eq_stageOne hlen hbits) hst)
  · exact fun _ hr hlen hbits hne hmax howner hclaimed hst => next_of_eq rfl (runCmd_busy hr (cmdClientLaneRaw_eq_stageOne hlen hbits hne
      hmax howner hclaimed) hst)
  · exact fun _ hr hlen hbits hst => next_of_eq rfl (runCmd_busy hr (cmdClientRefSel_eq_stageOne hlen hbits) hst)
  · exact fun _ hr hlen hbits hword hword2 hword3 hword4 hst => next_of_eq rfl (runCmd_busy hr (cmdClientTsAdj_eq_stageOne hlen hbits
      hword hword2 hword3 hword4) hst)
  · exact fun _ hkEq _ hr hlen hbits hmin hmax hlt hlt2 hbits2 hbits3 hflag hkey hst => next_of_eq rfl (runCmd_busy hr
      (cmdClassKeySet_eq_stageOne hkEq hlen hbits hmin hmax hlt hlt2 hbits2 hbits3 hflag hkey) hst)
  · exact fun _ hr hlen hbits hidle hvalid hmark hst => next_of_eq rfl (runCmd_busy hr (cmdSaActivate_eq_stageOne hlen hbits hidle hvalid
      hmark) hst)
  · exact fun _ hr hlen hbits hidle hvalid hst => next_of_eq rfl (runCmd_busy hr (cmdSaRxPromote_eq_stageOne hlen hbits hidle hvalid) hst)
  · exact fun _ hr hlen hbits hne hidle hst => next_of_eq rfl (runCmd_busy hr (cmdSaKeyClear_eq_stageOne hlen hbits hne hidle) hst)
  · exact fun _ hr hlen hbits hidle _ hlt hst => next_of_eq rfl (runCmd_busy hr (cmdSaPnAdvance_eq_stageOne hlen hbits hidle hlt) hst)
  · exact fun _ _ hr hlen hbits hok hring hbits1 hne hbits2 hmin hready hst hfit => next_of_eq rfl (runCmd_busy hr
      (cmdSettMergeSet_eq_stageOne hlen hbits hok hring hbits1 hne hbits2 hmin hready hfit) hst)
  · exact fun _ hr hlen hbits hmax hbits1 hmax2 hbits4 hready hcap hst => next_of_eq rfl (runCmd_busy hr (cmdSettCapCfg_eq_stageOne hlen
      hbits hmax hbits1 hmax2 hbits4 hready hcap) hst)
  · exact fun _ hr hlen hbits hready hst => next_of_eq rfl (runCmd_busy hr (cmdSettCapArm_eq_stageOne hlen hbits hready) hst)
  · exact fun _ hr hlen hbits hmin hmax hst => next_of_eq rfl (runCmd_busy hr (cmdEccScrubCfg_eq_stageOne hlen hbits hmin hmax) hst)
  · exact fun _ hr hlen hbits hlt hok hmode hbits1 hmax hmin hmax2 hbits3 hmin2 hmax3 hst => next_of_eq rfl (runCmd_busy hr
      (cmdTimRefCfg_eq_stageOne hlen hbits hlt hok hmode hbits1 hmax hmin hmax2 hbits3 hmin2 hmax3) hst)
  · exact fun _ htEq _ hr hlen hbits hmin hmax hmode hmin2 hmax2 hmin3 hmax3 hmin4 hmax4 hmax5 hbits3 hmin5 hmax6 hmax7 haccepting hst =>
      next_of_eq rfl (runCmd_busy hr (cmdTimDpllCfg_eq_stageOne htEq hlen hbits hmin hmax hmode hmin2 hmax2 hmin3 hmax3 hmin4 hmax4 hmax5
      hbits3 hmin5 hmax6 hmax7 haccepting) hst)
  · exact fun _ hr hlen hgood hlocked hst => next_of_eq rfl (runCmd_busy hr (cmdTimeSet_eq_stageOne hlen hgood hlocked) hst)
  · exact fun _ hr hlen hbits hmax hne hlt hmin hmax2 hbits2 hmin2 hmax3 hbits3 hbits4 hne2 hle hle2 hst => next_of_eq rfl (runCmd_busy hr
      (cmdTimOutCfg_eq_stageOne hlen hbits hmax hne hlt hmin hmax2 hbits2 hmin2 hmax3 hbits3 hbits4 hne2 hle hle2) hst)
  · exact fun _ hr hlen hword hword2 hst => next_of_eq rfl (runCmd_busy hr (cmdChainAsym_eq_stageOne hlen hword hword2) hst)
  · exact fun _ hmEq _ hr hlen hbits hmin hmax hmode hmax2 hbits2 hmax3 hbits3 hmax4 hmax5 hbits5 hmin2 hbits6 hmin3 hmax6 hst =>
      next_of_eq rfl (runCmd_busy hr (cmdMartenLineCfg_eq_stageOne hmEq hlen hbits hmin hmax hmode hmax2 hbits2 hmax3 hbits3 hmax4 hmax5
      hbits5 hmin2 hbits6 hmin3 hmax6) hst)
  · exact fun _ hr hlen hbits hword hok hmode hst => next_of_eq rfl (runCmd_busy hr (cmdMartenAsymCal_eq_stageOne hlen hbits hword hok
      hmode) hst)
  · exact fun _ hr hlen hbits hmax hmax2 hst => next_of_eq rfl (runCmd_busy hr (cmdMartenSteer_eq_stageOne hlen hbits hmax hmax2) hst)
  · exact fun _ hr hlen hbits hmin hmax hne hmax2 hst => next_of_eq rfl (runCmd_busy hr (cmdMartenPtpCfg_eq_stageOne hlen hbits hmin hmax
      hne hmax2) hst)
  · exact fun _ hmEq _ hr hlen hbits hmin hmax hrole hmin2 hmax2 hmin3 hmax3 htx hst => next_of_eq rfl (runCmd_busy hr
      (cmdMcCfg_eq_stageOne hmEq hlen hbits hmin hmax hrole hmin2 hmax2 hmin3 hmax3 htx) hst)
  · exact fun _ hr hlen hbits hst => next_of_eq rfl (runCmd_busy hr (cmdCloveChanCfg_eq_stageOne hlen hbits) hst)
  · exact fun _ hr hlen hseq hst => next_of_eq rfl (runCmd_busy hr (cmdCloveSeqSet_eq_stageOne hlen hseq) hst)
  · exact fun _ hr hlen hbits hne hlt hbits1 hbits2 hst => next_of_eq rfl (runCmd_busy hr (cmdCloveDetCfg_eq_stageOne hlen hbits hne hlt
      hbits1 hbits2) hst)
  · exact fun _ hr hlen hbits hne hst => next_of_eq rfl (runCmd_busy hr (cmdCloveTdac_eq_stageOne hlen hbits hne) hst)
  · exact fun _ hr hlen hbias hst => next_of_eq rfl (runCmd_busy hr (cmdCloveBiasCfg_eq_stageOne hlen hbias) hst)
  · exact fun _ hr hlen hbits hle hle2 hloop hst => next_of_eq rfl (runCmd_busy hr (cmdCloveBiasSet_eq_stageOne hlen hbits hle hle2 hloop)
      hst)
  · exact fun _ hr hlen hbits hmin hmax hst => next_of_eq rfl (runCmd_busy hr (cmdCloveCalCfg_eq_stageOne hlen hbits hmin hmax) hst)
  · exact fun _ hcEq _ hr hlen hbits hmin hbits1 hmin2 hbits2 hmin3 hmax hmax2 hok hst => next_of_eq rfl (runCmd_busy hr
      (cmdCntDumpCfg_eq_stageOne hcEq hlen hbits hmin hbits1 hmin2 hbits2 hmin3 hmax hmax2 hok) hst)
  · exact fun _ hr hlen hbits hchanging hchange hchange2 hst => next_of_eq rfl (runCmd_busy hr
      (cmdPwrStateSet_eq_stageOne hlen hbits hchanging hchange hchange2) hst)
  · exact fun _ hr hlen hbits hmin hmax hst => next_of_eq rfl (runCmd_busy hr (cmdPwrAvsCfg_eq_stageOne hlen hbits hmin hmax) hst)
  · exact fun _ hr hlen hbits hmin hmax hmin2 hmax2 hbits1 hmin3 hmax3 hst => next_of_eq rfl (runCmd_busy hr (cmdPwrPolicy_eq_stageOne
      hlen hbits hmin hmax hmin2 hmax2 hbits1 hmin3 hmax3) hst)
  · exact fun _ hr hlen hbits hst => next_of_eq rfl (runCmd_busy hr (cmdPinCfg_eq_stageOne hlen hbits) hst)

end Sys2Proof.Machine
end

section
/-! PROOFS. The commands of each family commit (spec section 12, Packets): with parameters that satisfy the checks of the command, each
check passes and the command answers the state that its last line gives. A clause is settled by the chain of its checks; the commands
that stage one item use the lemma that names the item. -/

namespace Sys2Proof.Machine

/-- A command that captures lane bits answers a reply that waits for them. -/
theorem runCmd_capture {op : Nat} {f : CmdHdr → List Word → State → CmdRes} {h : CmdHdr} {ws : List Word} {s t : State} {x : Nat}
    (hr : Runs op s) (ha : h.async = false) (hf : f h ws s = .capture t x) :
    runCmd op f h ws s = withReply { mkReply s op h .ok 0 [] with cap := some (x, 2) } (t.audit op h .ok) := by
  simp [runCmd, command, gate_of_runs hr, hr.1, hf, finish, ha, withReply]

/-- Settles O2: each check passes in turn, and LOG_READ branches on where FIRST lies. -/
theorem firmwareAndLogCommandsComplete : Obligations.FirmwareAndLogCommandsComplete := by
  unfold Obligations.FirmwareAndLogCommandsComplete exec
  intro h ws s
  refine ⟨?_, ?_, ?_, ?_, ?_, ?_, ?_, ?_, ?_, ?_⟩
  · exact fun ha hr hmin hboot hbits hok hle => next_of_eq rfl (runCmd_done hr ha
      ((need_true (by simp [hboot])).trans <| (need_true (by simp [hmin])).trans <|
        (need_true (by simpa [hbits] using And.intro hok hle)).trans <| by simp [stageB]))
  · exact fun hroom hr hlen hbits => next_of_eq rfl (runCmd_accept hr hroom ((needLen_eq hlen).trans <| need_true hbits))
  · exact fun ha hr hlen hflag hbits hlt hle => next_of_eq rfl (runCmd_done hr ha
      ((needLen_eq hlen).trans <| (if_neg (by simp [hflag])).trans <| need_true (by simp [hbits, hlt, hle])))
  · exact fun ha hr hlen hflag hbits hne hne2 => next_of_eq rfl (runCmd_done hr ha
      ((needLen_eq hlen).trans <| (if_pos hflag).trans <| need_true (by simpa [hbits, hne] using hne2)))
  · exact fun ha hr hlen => next_of_eq rfl (runCmd_done hr ha (needLen_eq hlen))
  · rintro _ rfl ha hr hlen hbits1 hmin hmax hle
    exact next_of_eq rfl (runCmd_done hr ha ((needLen_eq hlen).trans <| (need_true (by simp [hbits1, hmin, hmax])).trans <| if_pos hle))
  · rintro _ _ rfl rfl ha hr hlen hbits1 hmin hmax _ _
    exact next_of_eq rfl (runCmd_done hr ha
      ((needLen_eq hlen).trans <| (need_true (by simp [hbits1, hmin, hmax])).trans <| if_neg (by omega)))
  · exact fun ha hr hlen hbits hfree => next_of_eq rfl (runCmd_stages hr ha (cmdLogCfg_eq_stageOne hlen hbits) hfree)
  · exact fun ha hr hlen hbits => next_of_eq rfl (runCmd_done hr ha ((needLen_eq hlen).trans <| need_true hbits))
  · exact fun ha hr hlen => next_of_eq rfl (runCmd_done hr ha (needLen_eq hlen))

/-- Settles O3: the checks pass in turn; BGCAL and RETIRE meet only free items. -/
theorem converterCommandsComplete : Obligations.ConverterCommandsComplete := by
  unfold Obligations.ConverterCommandsComplete exec
  intro h ws s
  refine ⟨?_, ?_, ?_, ?_, ?_, ?_⟩
  · exact fun ha hr hlen hbits hoptics htx hrx hfree => next_of_eq rfl (runCmd_stages hr ha (cmdLineConvSet_eq_stageOne hlen hbits hoptics
      htx hrx) hfree)
  · exact fun hroom hr hlen hbits hne hne2 hne3 hok hfree => next_of_eq rfl (runCmd_accept hr hroom
      ((needLen_eq hlen).trans <| (need_true hbits).trans <| (need_true (by simp [hne])).trans <|
        (need_true (by simp [hne2, hne3, hok])).trans <| need_true (by simp [hfree])))
  · exact fun ha hr hlen hbits hmin hmax hall => next_of_eq rfl (runCmd_done hr ha
      ((needLen_eq hlen).trans <| (need_true hbits).trans <| (need_true (by simp [hmin, hmax])).trans <| need_true (by simpa using hall)))
  · exact fun ha hr hlen hbits => next_of_eq rfl (runCmd_done hr ha ((needLen_eq hlen).trans <| need_true hbits))
  · exact fun ha hr hlen hbits hmax hflag hrx hfree => next_of_eq rfl (runCmd_stages hr ha (cmdLineConvRetire_eq_stageOne hlen hbits hmax
      hflag hrx) hfree)
  · exact fun ha hr hlen hbits hmax hflag hok hok2 hfree => next_of_eq rfl (runCmd_done hr ha
      ((needLen_eq hlen).trans <| (need_true hbits).trans <| (need_true (by simp [hmax])).trans <| (if_neg (by simp [hflag])).trans <|
        (need_true (by simp [hok])).trans <| (need_true (by simpa using hok2)).trans <| stageOne_free hfree))

/-- Settles O4: each stages its item past its checks; EQ_READ answers the bank that SEL names. -/
theorem lineCommandsComplete : Obligations.LineCommandsComplete := by
  unfold Obligations.LineCommandsComplete exec
  intro h ws s
  refine ⟨?_, ?_, ?_, ?_, ?_, ?_, ?_, ?_⟩
  · exact fun ha hr hlen hbits hmax hmin hmax2 hle hbits1 hmin2 hmax3 htx hrx hfree => next_of_eq rfl (runCmd_stages hr ha
      (cmdLineScCfg_eq_stageOne hlen hbits hmax hmin hmax2 hle hbits1 hmin2 hmax3 htx hrx) hfree)
  · exact fun ha hr hlen hbits hall hall2 hlt => next_of_eq rfl (runCmd_done hr ha
      ((needLen_eq hlen).trans <| (need_true hbits).trans <| (need_true (by simpa [scs, apply_ite] using hall)).trans <|
        (need_true (by simpa [or_assoc] using hall2)).trans <| need_true (by simpa [scs] using hlt)))
  · exact fun ha hr hlen hbits hrxd hok => next_of_eq rfl (runCmd_done hr ha
      ((needLen_eq hlen).trans <| (need_true hbits).trans <| (need_true (by simpa using hrxd)).trans <| need_true (by simpa using hok)))
  · exact fun ha hr hlen hbits hmin hmax _ hword hword2 hmin3 hmax2 hbits3 hlt hfree => next_of_eq rfl (runCmd_stages hr ha
      (cmdLineRxCfg_eq_stageOne hlen hbits hmin hmax hword hword2 hmin3 hmax2 hbits3 hlt) hfree)
  · exact fun ha hr hlen hbits hrxd hfree => next_of_eq rfl (runCmd_stages hr ha (cmdLineRxAcq_eq_stageOne hlen hbits hrxd) hfree)
  · intro ha hr hlen hbits hlt
    refine next_of_eq rfl (runCmd_done hr ha ((needLen_eq hlen).trans <| (need_true hbits).trans ?_))
    generalize fld (wd ws 0) 9 8 = sel at hlt ⊢
    match sel, hlt with
    | 0, _ | 1, _ | 2, _ => rfl
  · exact fun ha hr hlen hbits hmin hmax hmin2 hmax2 htxRate hrxRate hfree => next_of_eq rfl (runCmd_stages hr ha
      (cmdLineFecCfg_eq_stageOne hlen hbits hmin hmax hmin2 hmax2 htxRate hrxRate) hfree)
  · exact fun ha hr hlen hbits hfree => next_of_eq rfl (runCmd_stages hr ha (cmdLineHdrMsg_eq_stageOne hlen hbits) hfree)

/-- Settles O5: each stages its words past its checks; LANE_READ branches on SEL. -/
theorem clientCommandsComplete : Obligations.ClientCommandsComplete := by
  unfold Obligations.ClientCommandsComplete exec
  intro h ws s
  refine ⟨?_, ?_, ?_, ?_, ?_, ?_, ?_, ?_⟩
  · exact fun ha hr hlen hbits hbits1 hmax hmax2 hne hmax3 hall => next_of_eq rfl (runCmd_done hr ha
      ((needLen_eq hlen).trans <| (need_true hbits).trans <| (need_true (by simp [hbits1, hmax, hmax2, hne, hmax3])).trans <|
        (need_true (by simpa using fun x hx => (hall x hx).1)).trans <| need_true (by simpa using fun x hx => (hall x hx).2)))
  · exact fun ha hr hlen hbits hne hmax howner hclaimed hfree => next_of_eq rfl (runCmd_stages hr ha (cmdClientLaneRaw_eq_stageOne hlen
      hbits hne hmax howner hclaimed) hfree)
  · exact fun ha hr hlen hbits hmax hok => next_of_eq rfl (runCmd_done hr ha
      ((needLen_eq hlen).trans <| (need_true (by simpa [hbits, hok] using hmax)).trans <| if_pos hok))
  · exact fun ha hr hlen hbits hmax hok => next_of_eq rfl (runCmd_capture hr ha
      ((needLen_eq hlen).trans <| (need_true (by simp [hbits, hok, hmax]; omega)).trans <| if_neg (by simp [hok])))
  · exact fun ha hr hlen hbits hne hmax hflag hall hall2 hbits1 hok hbits2 hmin hmax2 hbits4 hfree => next_of_eq rfl (runCmd_done hr ha
      ((needLen_eq hlen).trans <|
        (need_true (by simpa [hbits, hne, hmax, or_iff_not_imp_left] using And.intro (fun hen => (hflag hen).1) hall)).trans <|
        (need_true (by simpa [hbits1, imp_iff_not_or] using hok)).trans <| (need_true (by simp [hbits2, hmin, hmax2])).trans <|
        (need_true hbits4).trans <| (need_true (by simpa [imp_iff_not_or] using hall2)).trans <| (need_true (by simp; grind)).trans <|
        stageOne_free hfree))
  · rintro _ rfl ha hr hlen hbits hmin hen hen' hmode hbits1 hmin2 hbits2 hall hfree
    exact next_of_eq rfl (runCmd_done hr ha ((needLen_eq hlen).trans <| (need_true (by simp [hbits, hmin])).trans <|
      (need_true (by simpa [hen, hen'] using hmode)).trans <| (need_true (by simp [hbits1, hmin2])).trans <|
      (need_true (by simpa [hbits2] using hall)).trans <| stageOne_free hfree))
  · exact fun ha hr hlen hbits hfree => next_of_eq rfl (runCmd_stages hr ha (cmdClientRefSel_eq_stageOne hlen hbits) hfree)
  · exact fun ha hr hlen hbits hword hword2 hword3 hword4 hfree => next_of_eq rfl (runCmd_stages hr ha (cmdClientTsAdj_eq_stageOne hlen
      hbits hword hword2 hword3 hword4) hfree)

/-- Settles O6: each bucket, key and range check passes in turn. -/
theorem classifierCommandsComplete : Obligations.ClassifierCommandsComplete := by
  unfold Obligations.ClassifierCommandsComplete exec
  intro h ws s
  refine ⟨?_, ?_, ?_, ?_⟩
  · exact fun _ hkEq ha hr hlen hbits hmin hmax hlt hlt2 hbits2 hbits3 hflag hkey hfree => next_of_eq rfl (runCmd_stages hr ha
      (cmdClassKeySet_eq_stageOne hkEq hlen hbits hmin hmax hlt hlt2 hbits2 hbits3 hflag hkey) hfree)
  · rintro _ rfl ha hr hlen hbits hmin hmax hlt hlt2 hbits2 hbits3 hflag hkey hfree
    exact next_of_eq rfl (runCmd_done hr ha ((needLen_eq hlen).trans <| (need_true (by simp [hbits, hmin, hmax])).trans <|
      (need_true (by simpa using hlt)).trans <| (need_true (by rw [hbits2, decide_eq_true hlt2]; rfl)).trans <| (need_true hbits3).trans <|
      (need_true (by simpa [hflag] using hkey)).trans <| (need_true (by rw [hfree]; rfl)).trans <| (need_true (by simp [hflag])).trans <|
      by rw [hflag]; rfl))
  · exact fun ha hr hlen hbits hmin hmax hmax2 hall => next_of_eq rfl (runCmd_done hr ha
      ((need_true (by simp [hbits, hmin, hmax, hmax2])).trans <| (needLen_eq hlen).trans <|
        (need_true (by simpa using fun n hn => (hall n hn).1)).trans <| need_true (by simpa using fun n hn => (hall n hn).2)))
  · exact fun ha hr hlen hbits hmin hmax hmax2 => next_of_eq rfl (runCmd_done hr ha
      ((needLen_eq hlen).trans <| need_true (by simp [hbits, hmin, hmax, hmax2])))

/-- Settles O7: each passes its checks while nothing is zeroised. -/
theorem securityCommandsComplete : Obligations.SecurityCommandsComplete := by
  unfold Obligations.SecurityCommandsComplete exec
  intro h ws s
  refine ⟨?_, ?_, ?_, ?_, ?_, ?_, ?_, ?_⟩
  · exact fun ha hr hlen hbits hmin hmax hmax2 hall hidle hall2 => next_of_eq rfl (runCmd_done hr ha
      ((need_true (by simp [hbits, hmin, hmax, hmax2])).trans <| (needLen_eq hlen).trans <|
        (need_true (by simpa [and_assoc] using fun k hk => (hall k hk).imp_right fun h => h.imp_right And.left)).trans <|
        (needIdle_of hidle).trans <| (need_true (by simpa [imp_iff_not_or, or_assoc] using hall2)).trans <|
        need_true (by simpa using fun k hk => (hall k hk).2.2.2)))
  · exact fun ha hr hlen hbits hidle hvalid hmark hfree => next_of_eq rfl (runCmd_stages hr ha (cmdSaActivate_eq_stageOne hlen hbits hidle
      hvalid hmark) hfree)
  · exact fun ha hr hlen hbits hidle hvalid hfree => next_of_eq rfl (runCmd_stages hr ha (cmdSaRxPromote_eq_stageOne hlen hbits hidle
      hvalid) hfree)
  · exact fun ha hr hlen hbits hne hidle hfree => next_of_eq rfl (runCmd_stages hr ha (cmdSaKeyClear_eq_stageOne hlen hbits hne hidle)
      hfree)
  · exact fun ha hr hlen hbits hmin hmax hidle => next_of_eq rfl (runCmd_done hr ha
      ((needLen_eq hlen).trans <| (need_true (by simp [hbits, hmin, hmax])).trans <| needIdle_of hidle))
  · exact fun ha hr hlen hbits hidle _ hlt hfree => next_of_eq rfl (runCmd_stages hr ha (cmdSaPnAdvance_eq_stageOne hlen hbits hidle hlt)
      hfree)
  · exact fun ha hr hlen hbits hidle => next_of_eq rfl (runCmd_done hr ha
      ((needLen_eq hlen).trans <| (need_true hbits).trans <| needIdle_of hidle))
  · exact fun hroom hr hlen hidle => next_of_eq rfl (runCmd_accept hr hroom ((needLen_eq hlen).trans <| needIdle_of hidle))

/-- Settles O8: each passes its checks with the Sett READY; what the requests and reads return is named by the statement. -/
theorem settCommandsComplete : Obligations.SettCommandsComplete := by
  unfold Obligations.SettCommandsComplete exec
  intro h ws s
  refine ⟨?_, ?_, ?_, ?_, ?_, ?_, ?_, ?_, ?_⟩
  · exact fun ha hr hlen hbits hbits1 hok hmax hready _ _ _ hfree => next_of_eq rfl (runCmd_done hr ha
      ((needLen_eq hlen).trans <| (need_true (by simp [hbits, hok])).trans <| (need_true (by simp [hbits1, hmax])).trans <|
        (needReady_of hready).trans <| (need_true (by simp; grind)).trans <| stageOne_free hfree))
  · rintro _ rfl ha hr hlen hbits hwide hmin hsum hmid hsize hlow hready hfree
    have hnone : ∀ k ∈ [1, 2, 3, 4], onlyBits (wd ws k) 0xFFFFF = true := fun k hk => hwide k (by grind) (by grind)
    exact next_of_eq rfl (runCmd_done hr ha ((needLen_eq hlen).trans <| (need_true hbits).trans <|
      (need_true (by simpa using hnone)).trans <| (need_true (by simpa using And.intro hmin hsum)).trans <|
      (need_true (by simpa using And.intro hmid hsize)).trans <|
      (need_true (by simpa using hlow)).trans <| (needReady_of hready).trans <| stageOne_free hfree))
  · exact fun _ ha hr hlen hbits hok hring hbits1 hne hbits2 hmin hready hfree hfit => next_of_eq rfl (runCmd_stages hr ha
      (cmdSettMergeSet_eq_stageOne hlen hbits hok hring hbits1 hne hbits2 hmin hready hfit) hfree)
  · intro ha hr hlen hbits hne hring hbits1 hbits2 hmin hready hfree
    refine next_of_eq rfl (runCmd_done hr ha ((needLen_eq hlen).trans <|
      (need_true (by rw [hbits, beq_false_of_ne hne, bne_iff_ne.mpr hring]; rfl)).trans <|
      (need_true (by simp [hbits1, hne])).trans <| (need_true (by simpa [hbits2] using hmin)).trans <| (needReady_of hready).trans <|
      (need_true (by simp [hfree])).trans ?_))
    generalize fld (wd ws 0) 31 30 = op at hne ⊢
    match op, hne with
    | n + 1, _ => rfl
  · exact fun ha hr hlen hbits => next_of_eq rfl (runCmd_done hr ha ((needLen_eq hlen).trans <| need_true hbits))
  · exact fun ha hr hlen hbits hmax hmin hready hall => next_of_eq rfl (runCmd_done hr ha
      ((needLen_eq hlen).trans <| (need_true (by simp [hbits, hmax, hmin])).trans <| (needReady_of hready).trans <|
        need_true (by simpa using hall)))
  · exact fun ha hr hlen hbits hmax hbits1 hmax2 hbits4 hready hcap hfree => next_of_eq rfl (runCmd_stages hr ha
      (cmdSettCapCfg_eq_stageOne hlen hbits hmax hbits1 hmax2 hbits4 hready hcap) hfree)
  · exact fun ha hr hlen hbits hready hfree => next_of_eq rfl (runCmd_stages hr ha (cmdSettCapArm_eq_stageOne hlen hbits hready) hfree)
  · rintro at_ _ hat rfl ha hr hlen hbits1 hmin hmax hle hready hcap
    obtain rfl : at_ = _ := funext hat
    exact next_of_eq rfl (runCmd_done hr ha ((needLen_eq hlen).trans <| (need_true (by simp [hbits1, hmin, hmax])).trans <|
      (need_true (by simpa using hle)).trans <| (needReady_of hready).trans <| need_true (by simpa using hcap)))

/-- Settles O9: each passes its checks; TEST_ACCESS branches on the write flag. -/
theorem eccCommandsComplete : Obligations.EccCommandsComplete := by
  unfold Obligations.EccCommandsComplete exec
  intro h ws s
  refine ⟨?_, ?_, ?_, ?_, ?_⟩
  · exact fun ha hr hlen hbits hmin hmax hfree => next_of_eq rfl (runCmd_stages hr ha (cmdEccScrubCfg_eq_stageOne hlen hbits hmin hmax)
      hfree)
  · exact fun ha hr hlen hbits hok hmin => next_of_eq rfl (runCmd_done hr ha
      ((needLen_eq hlen).trans <| need_true (by simpa [hbits, hmin] using hok)))
  · exact fun hroom hr hlen hbits hmin hok hready hok2 => next_of_eq rfl (runCmd_accept hr hroom
      ((need_true (by simp [hbits, hmin])).trans <| (needLen_eq hlen).trans <| (need_true (beq_iff_eq.mpr hok)).trans <|
        (need_true (by simp [hready])).trans <| need_true (by simp [hok2])))
  · exact fun ha hr hlen hbits hflag hok hle hlt hready hcap => next_of_eq rfl (runCmd_done hr ha
      ((need_true hbits).trans <| (needLen_eq (by rw [hlen, hflag]; rfl)).trans <|
        (need_true (by simpa [hok] using And.intro hle hlt)).trans <| (need_true (by simp [hready, hcap])).trans <| if_pos hflag))
  · rintro _ rfl ha hr hlen hbits hflag hmod hle hlt hready hcap
    exact next_of_eq rfl (runCmd_done hr ha ((need_true hbits).trans <| (needLen_eq (by rw [hlen, hflag]; rfl)).trans <|
      (need_true (by simpa [hmod] using And.intro hle hlt)).trans <| (need_true (by simp [hready, hcap])).trans <|
      if_neg (by simp [hflag])))

/-- Settles O10: each stages its words past its range checks. -/
theorem timingCommandsComplete : Obligations.TimingCommandsComplete := by
  unfold Obligations.TimingCommandsComplete exec
  intro h ws s
  refine ⟨?_, ?_, ?_, ?_, ?_, ?_⟩
  · exact fun ha hr hlen hbits hlt hok hmode hbits1 hmax hmin hmax2 hbits3 hmin2 hmax3 hfree => next_of_eq rfl (runCmd_stages hr ha
      (cmdTimRefCfg_eq_stageOne hlen hbits hlt hok hmode hbits1 hmax hmin hmax2 hbits3 hmin2 hmax3) hfree)
  · exact fun _ htEq ha hr hlen hbits hmin hmax hmode hmin2 hmax2 hmin3 hmax3 hmin4 hmax4 hmax5 hbits3 hmin5 hmax6 hmax7 haccepting hfree
      => next_of_eq rfl (runCmd_stages hr ha (cmdTimDpllCfg_eq_stageOne htEq hlen hbits hmin hmax hmode hmin2 hmax2 hmin3 hmax3 hmin4
      hmax4 hmax5 hbits3 hmin5 hmax6 hmax7 haccepting) hfree)
  · exact fun ha hr hlen hgood hlocked hfree => next_of_eq rfl (runCmd_stages hr ha (cmdTimeSet_eq_stageOne hlen hgood hlocked) hfree)
  · exact fun ha hr hlen hbits hmax hne hlt hmin hmax2 hbits2 hmin2 hmax3 hbits3 hbits4 hne2 hle hle2 hfree => next_of_eq rfl
      (runCmd_stages hr ha (cmdTimOutCfg_eq_stageOne hlen hbits hmax hne hlt hmin hmax2 hbits2 hmin2 hmax3 hbits3 hbits4 hne2 hle hle2)
      hfree)
  · exact fun ha hr hlen hbits hlt hok => next_of_eq rfl (runCmd_done hr ha
      ((needLen_eq hlen).trans <| (need_true (by simp [hbits, hlt])).trans <| need_true (by simp [hok])))
  · exact fun ha hr hlen hword hword2 hfree => next_of_eq rfl (runCmd_stages hr ha (cmdChainAsym_eq_stageOne hlen hword hword2) hfree)

/-- Settles O11: each stages its words past its checks; MC_READ branches on SEL and the mailbox. -/
theorem martenCommandsComplete : Obligations.MartenCommandsComplete := by
  unfold Obligations.MartenCommandsComplete exec
  intro h ws s
  refine ⟨?_, ?_, ?_, ?_, ?_, ?_, ?_, ?_⟩
  · exact fun _ hmEq ha hr hlen hbits hmin hmax hmode hmax2 hbits2 hmax3 hbits3 hmax4 hmax5 hbits5 hmin2 hbits6 hmin3 hmax6 hfree =>
      next_of_eq rfl (runCmd_stages hr ha (cmdMartenLineCfg_eq_stageOne hmEq hlen hbits hmin hmax hmode hmax2 hbits2 hmax3 hbits3 hmax4
      hmax5 hbits5 hmin2 hbits6 hmin3 hmax6) hfree)
  · exact fun ha hr hlen hbits hword hok hmode hfree => next_of_eq rfl (runCmd_stages hr ha (cmdMartenAsymCal_eq_stageOne hlen hbits hword
      hok hmode) hfree)
  · exact fun ha hr hlen hbits hmax hmax2 hfree => next_of_eq rfl (runCmd_stages hr ha (cmdMartenSteer_eq_stageOne hlen hbits hmax hmax2)
      hfree)
  · exact fun ha hr hlen hbits hmin hmax hne hmax2 hfree => next_of_eq rfl (runCmd_stages hr ha (cmdMartenPtpCfg_eq_stageOne hlen hbits
      hmin hmax hne hmax2) hfree)
  · exact fun _ hmEq ha hr hlen hbits hmin hmax hrole hmin2 hmax2 hmin3 hmax3 htx hfree => next_of_eq rfl (runCmd_stages hr ha
      (cmdMcCfg_eq_stageOne hmEq hlen hbits hmin hmax hrole hmin2 hmax2 hmin3 hmax3 htx) hfree)
  · exact fun ha hr hlen hbits hmin hmax hrole hlt => next_of_eq rfl (runCmd_done hr ha
      ((need_true (by simpa [hbits, hmin, hmax] using hrole)).trans <| (needLen_eq hlen).trans <| need_true (by simpa using hlt)))
  · exact fun ha hr hlen hbits hok => next_of_eq rfl (runCmd_done hr ha
      ((needLen_eq hlen).trans <| (need_true (by simp [hbits, hok])).trans <| if_pos hok))
  · exact fun _ _ _ _ ha hr hlen hbits hok hok2 => next_of_eq rfl (runCmd_done hr ha
      ((needLen_eq hlen).trans <| (need_true (by simp [hbits, hok])).trans <| (if_neg (by simp [hok])).trans <| by rw [hok2]))

/-- Settles O12: each stages its item past its checks; SYNC and INJ_FIRE do not ask whether it is staged. -/
theorem cloveCommandsComplete : Obligations.CloveCommandsComplete := by
  unfold Obligations.CloveCommandsComplete exec
  intro h ws s
  refine ⟨?_, ?_, ?_, ?_, ?_, ?_, ?_, ?_, ?_⟩
  · exact fun ha hr hlen hbits hfree => next_of_eq rfl (runCmd_stages hr ha (cmdCloveChanCfg_eq_stageOne hlen hbits) hfree)
  · exact fun ha hr hlen hseq hfree => next_of_eq rfl (runCmd_stages hr ha (cmdCloveSeqSet_eq_stageOne hlen hseq) hfree)
  · exact fun ha hr hlen => next_of_eq rfl (runCmd_done hr ha (needLen_eq hlen))
  · exact fun ha hr hlen hne => next_of_eq rfl (runCmd_done hr ha ((needLen_eq hlen).trans <| need_true (by simp [hne])))
  · exact fun ha hr hlen hbits hne hlt hbits1 hbits2 hfree => next_of_eq rfl (runCmd_stages hr ha (cmdCloveDetCfg_eq_stageOne hlen hbits
      hne hlt hbits1 hbits2) hfree)
  · exact fun ha hr hlen hbits hne hfree => next_of_eq rfl (runCmd_stages hr ha (cmdCloveTdac_eq_stageOne hlen hbits hne) hfree)
  · exact fun ha hr hlen hbias hfree => next_of_eq rfl (runCmd_stages hr ha (cmdCloveBiasCfg_eq_stageOne hlen hbias) hfree)
  · exact fun ha hr hlen hbits hle hle2 hloop hfree => next_of_eq rfl (runCmd_stages hr ha (cmdCloveBiasSet_eq_stageOne hlen hbits hle
      hle2 hloop) hfree)
  · exact fun ha hr hlen hbits hmin hmax hfree => next_of_eq rfl (runCmd_stages hr ha (cmdCloveCalCfg_eq_stageOne hlen hbits hmin hmax)
      hfree)

/-- Settles O13: the ranges hold no bad word and no staged item; INJECT branches on its mode and source. -/
theorem collectorAndCounterCommandsComplete : Obligations.CollectorAndCounterCommandsComplete := by
  unfold Obligations.CollectorAndCounterCommandsComplete exec
  intro h ws s
  refine ⟨?_, ?_, ?_, ?_, ?_, ?_, ?_, ?_, ?_, ?_⟩
  · exact fun ha hr hlen hbits hmin hmax hall hall2 hall3 => next_of_eq rfl (runCmd_done hr ha
      ((need_true (by simp [hbits, hmin, hmax])).trans <| (needLen_eq hlen).trans <|
        (need_true (decide_eq_true (by rw [List.findIdx_eq_length_of_false (by simpa using hall), List.length_drop, hlen]; omega))).trans <|
        (need_true (by simpa [or_iff_not_imp_left] using fun hl k hk => hall2 k hk hl)).trans <| need_true (by simpa using hall3)))
  · exact fun ha hr hlen hall hbits4 hmin hmax hlocked hfree => next_of_eq rfl (runCmd_done hr ha
      ((needLen_eq hlen).trans <| (need_true (by simpa using hall 0 (by decide))).trans <|
        (need_true (by simpa using hall 1 (by decide))).trans <| (need_true (by simpa using hall 2 (by decide))).trans <|
        (need_true (by simpa using hall 3 (by decide))).trans <| (need_true (by simp [hbits4, hmin, hmax])).trans <|
        (need_true (by simp [hlocked])).trans <| stageOne_free hfree))
  · exact fun ha hr hlen hbits hok hok2 _ => next_of_eq rfl (runCmd_done hr ha
      ((needLen_eq hlen).trans <| (need_true (by simp [hbits, hok, hok2])).trans <| (if_neg (by simp [hok2])).trans <| if_neg (by omega)))
  · exact fun ha hr hlen hbits hok hok2 hlt => next_of_eq rfl (runCmd_done hr ha
      ((needLen_eq hlen).trans <| (need_true (by simp [hbits, hok, hok2])).trans <| (if_neg (by simp [hok2])).trans <| if_pos hlt))
  · exact fun ha hr hlen hbits hok hok2 hmin => next_of_eq rfl (runCmd_done hr ha
      ((needLen_eq hlen).trans <| (need_true (by simp [hbits, hok, hok2, hmin])).trans <| if_pos hok2))
  · intro ha hr hlen hrange hall
    refine next_of_eq rfl (runCmd_done hr ha ((need_true hrange).trans <| (needLen_eq hlen).trans ?_))
    rw [List.find?_eq_none.mpr (by simpa using fun n hn => (hall n hn).1)]
    exact need_true (by simpa using fun n hn => (hall n hn).2)
  · intro ha hr hlen hrange hall
    refine next_of_eq rfl (runCmd_done hr ha ((need_true hrange).trans <| (needLen_eq hlen).trans ?_))
    rw [List.find?_eq_none.mpr (by simpa using fun n hn => (hall n hn).1)]
    exact need_true (by simpa using fun n hn => (hall n hn).2)
  · exact fun ha hr hlen hok => next_of_eq rfl (runCmd_done hr ha ((needLen_eq hlen).trans <| need_true hok))
  · exact fun _ hcEq ha hr hlen hbits hmin hbits1 hmin2 hbits2 hmin3 hmax hmax2 hok hfree => next_of_eq rfl (runCmd_stages hr ha
      (cmdCntDumpCfg_eq_stageOne hcEq hlen hbits hmin hbits1 hmin2 hbits2 hmin3 hmax hmax2 hok) hfree)
  · intro ha hr hlen hbits hmin hmax hall hfree
    refine next_of_eq rfl (runCmd_done hr ha ((need_true (by simp [hbits, hmin, hmax])).trans <| (needLen_eq hlen).trans ?_))
    rw [List.find?_eq_none.mpr (by simpa using hall)]
    exact stageOne_free hfree

/-- Settles O14: PWR_STATE_SET branches on whether the state changes and whether it leaves P3. -/
theorem powerCommandsComplete : Obligations.PowerCommandsComplete := by
  unfold Obligations.PowerCommandsComplete exec
  intro h ws s
  refine ⟨?_, ?_, ?_, ?_, ?_, ?_, ?_⟩
  · exact fun ha hr hlen hbits hchanging hchange hchange2 hfree => next_of_eq rfl (runCmd_stages hr ha (cmdPwrStateSet_eq_stageOne hlen
      hbits hchanging hchange hchange2) hfree)
  · exact fun ha hr hlen hbits hchanging hchange _ => next_of_eq rfl (runCmd_done hr ha
      ((needLen_eq hlen).trans <| (need_true hbits).trans <| (need_true (by simp [hchanging])).trans <| (if_neg (by grind)).trans <|
        if_pos hchange))
  · exact fun ha hr hlen hbits hchanging hchange hne => next_of_eq rfl (runCmd_done hr ha
      ((needLen_eq hlen).trans <| (need_true hbits).trans <| (need_true (by simp [hchanging])).trans <| if_pos ⟨hchange, hne⟩))
  · intro g hg ha hr hlen haccepting hbits hlt havs hoff hplace hbits1 hmin
    refine next_of_eq rfl (runCmd_done hr ha ((need_true haccepting).trans <| (needLen_eq hlen).trans <| (need_true ?_).trans <|
      need_true (by rw [hbits1, ← hg, decide_eq_true hmin]; rfl)))
    rw [← hg, hbits, decide_eq_true hlt]
    simpa [or_iff_not_imp_left] using
      And.intro (And.intro (And.intro (fun h => (havs h).1) fun h => (havs h).2) fun h => or_iff_not_imp_left.mp (hoff h)) hplace
  · exact fun ha hr hlen hbits hmin hmax hfree => next_of_eq rfl (runCmd_stages hr ha (cmdPwrAvsCfg_eq_stageOne hlen hbits hmin hmax)
      hfree)
  · exact fun ha hr hlen hbits hmin hmax hmin2 hmax2 hbits1 hmin3 hmax3 hfree => next_of_eq rfl (runCmd_stages hr ha
      (cmdPwrPolicy_eq_stageOne hlen hbits hmin hmax hmin2 hmax2 hbits1 hmin3 hmax3) hfree)
  · exact fun ha hr hlen hbits hfree => next_of_eq rfl (runCmd_stages hr ha (cmdPinCfg_eq_stageOne hlen hbits) hfree)

end Sys2Proof.Machine
end

section
/-! PROOFS. The code of stored data (spec section 8, The code). The checks are linear: the syndrome of a stored word depends on the inverted
bits alone, and is the XOR of the syndromes of the single bits. A single bit has a syndrome of odd weight (one check bit, or two row checks
and a column check), and Table 8-1 corrects only syndromes of odd weight; two bits have a syndrome of even weight that is not zero. -/

namespace Sys2Proof.Machine

/-! ### Two numbers joined, bit by bit -/

/-- XOR acts on the low n bits and on those above apart. -/
theorem xor_join {a b : Nat} (n x y : Nat) (ha : a < 2 ^ n) (hb : b < 2 ^ n) :
    (x ^^^ y) * 2 ^ n + (a ^^^ b) = (x * 2 ^ n + a) ^^^ (y * 2 ^ n + b) := by
  refine Nat.eq_of_testBit_eq fun i => ?_
  simp only [mul_comm _ (2 ^ n), Nat.testBit_xor, Nat.testBit_two_pow_mul_add _ ha, Nat.testBit_two_pow_mul_add _ hb,
    Nat.testBit_two_pow_mul_add _ (Nat.xor_lt_two_pow ha hb)]
  split <;> rfl

/-- The number with the bits f. -/
def ofBits (n : Nat) (f : Nat → Nat) : Nat := ((List.range n).map fun r => f r * 2 ^ r).sum

theorem ofBits_succ (n : Nat) (f : Nat → Nat) : ofBits (n + 1) f = f n * 2 ^ n + ofBits n f := by
  simp [ofBits, List.range_succ, add_comm]

theorem ofBits_lt {f : Nat → Nat} (hf : ∀ r, f r < 2) (n : Nat) : ofBits n f < 2 ^ n := by
  induction n with
  | zero => simp [ofBits]
  | succ n ih =>
    have := hf n
    rw [ofBits_succ, pow_succ]
    interval_cases f n <;> omega

theorem ofBits_xor {f g : Nat → Nat} (hf : ∀ r, f r < 2) (hg : ∀ r, g r < 2) (n : Nat) :
    (ofBits n fun r => f r ^^^ g r) = ofBits n f ^^^ ofBits n g := by
  induction n with
  | zero => simp [ofBits]
  | succ n ih => rw [ofBits_succ, ofBits_succ, ofBits_succ, ih, xor_join _ _ _ (ofBits_lt hf n) (ofBits_lt hg n)]

/-! ### The weight of a number -/

/-- The weight of an XOR is even just when the two weights have one parity. -/
theorem popcount_xor_mod_two (n a b : Nat) : popcount n (a ^^^ b) % 2 = (popcount n a + popcount n b) % 2 := by
  unfold popcount
  induction List.range n with
  | nil => rfl
  | cons i is ih =>
    simp only [List.countP_cons, Nat.testBit_xor]
    cases a.testBit i <;> cases b.testBit i <;> simp <;> omega

/-- The weight of a number is that of its upper bits and that of its lower bits. -/
theorem popcount_add (m n x : Nat) : popcount (m + n) x = popcount m (x % 2 ^ m) + popcount n (x / 2 ^ m) := by
  simp only [popcount, List.range_add, List.countP_append, List.countP_map]
  congr 1
  · exact List.countP_congr fun i hi => by simp [Nat.testBit_mod_two_pow, List.mem_range.mp hi]
  · exact List.countP_congr fun i _ => by simp [Nat.testBit_div_two_pow, add_comm]

theorem byteParity_lt (b : Nat) : byteParity b < 2 := Nat.mod_lt _ (by decide)

/-- The parity of an XOR is the XOR of the parities. -/
theorem byteParity_xor (a b : Nat) : byteParity (a ^^^ b) = byteParity a ^^^ byteParity b := by
  unfold byteParity
  rw [popcount_xor_mod_two, Nat.add_mod]
  obtain ha | ha := Nat.mod_two_eq_zero_or_one (popcount 8 a) <;> obtain hb | hb := Nat.mod_two_eq_zero_or_one (popcount 8 b) <;>
    rw [ha, hb] <;> rfl

/-! ### The checks are linear -/

theorem rowByte_lt (d : BitVec 64) (r : Nat) : rowByte d r < 2 ^ 8 := Nat.mod_lt _ (by decide)

theorem rowByte_xor (d e : BitVec 64) (r : Nat) : rowByte (d ^^^ e) r = rowByte d r ^^^ rowByte e r := by
  unfold rowByte
  rw [BitVec.toNat_xor, Nat.xor_div_two_pow, show 256 = 2 ^ 8 from rfl, Nat.xor_mod_two_pow]

theorem rowChecks_xor (d e : BitVec 64) : rowChecks (d ^^^ e) = rowChecks d ^^^ rowChecks e := by
  have hlt (d : BitVec 64) (r : Nat) : byteParity (rowByte d r) ^^^ byteParity (rowByte d ((r + 7) % 8)) < 2 :=
    Nat.xor_lt_two_pow (n := 1) (byteParity_lt _) (byteParity_lt _)
  refine Eq.trans ?_ (ofBits_xor (hlt d) (hlt e) 8)
  unfold rowChecks ofBits
  refine congrArg List.sum (List.map_congr_left fun r _ => congrArg (· * 2 ^ r) ?_)
  simp only [rowByte_xor, byteParity_xor]
  ac_rfl

theorem colChecks_lt (d : BitVec 64) : colChecks d < 2 ^ 8 := by
  simp only [colChecks, List.range, List.range.loop, List.foldl, Nat.zero_xor]
  repeat' apply Nat.xor_lt_two_pow
  all_goals exact rowByte_lt d _

theorem colChecks_xor (d e : BitVec 64) : colChecks (d ^^^ e) = colChecks d ^^^ colChecks e := by
  simp only [colChecks, List.range, List.range.loop, List.foldl, Nat.zero_xor, rowByte_xor]
  ac_rfl

/-- The checks of an XOR are the XOR of the checks. -/
theorem checkOf_xor (d e : BitVec 64) : checkOf (d ^^^ e) = checkOf d ^^^ checkOf e := by
  unfold checkOf
  rw [rowChecks_xor, colChecks_xor, show 256 = 2 ^ 8 from rfl, xor_join _ _ _ (colChecks_lt d) (colChecks_lt e)]
  exact BitVec.ofNat_xor ..

/-- The syndrome of a stored word depends on the inverted bits alone. -/
theorem syndrome_of_errors (d e : BitVec 64) (f : BitVec 16) : syndrome (d ^^^ e) (checkOf d ^^^ f) = checkOf e ^^^ f := by
  unfold syndrome
  rw [checkOf_xor, BitVec.xor_assoc, BitVec.xor_comm f, ← BitVec.xor_assoc, ← BitVec.xor_assoc, BitVec.xor_self, BitVec.zero_xor]

/-! ### Syndromes of one bit and of two -/

/-- A syndrome that Table 8-1 corrects. -/
def Corrects (x : BitVec 16) : Prop := decodeSynd x = .chkBit ∨ ∃ i, decodeSynd x = .dataBit i

/-- The weight of a syndrome is odd. -/
def OddWeight (x : BitVec 16) : Prop := popcount 16 x.toNat % 2 = 1

/-- The two adjacent row checks of a row. -/
theorem popcount_of_rowOf {sr r : Nat} (h : rowOf sr = some r) : popcount 8 sr = 2 := by
  obtain ⟨hsr, hr⟩ : sr = 2 ^ r + 2 ^ ((r + 1) % 8) ∧ r < 8 := by simpa using And.intro (List.find?_some h) (List.mem_of_find?_eq_some h)
  subst hsr
  decide +revert

/-- Table 8-1 corrects only syndromes of odd weight: a check bit's, or two row checks and a column check. -/
theorem oddWeight_of_corrects {x : BitVec 16} (h : Corrects x) : OddWeight x := by
  unfold Corrects decodeSynd at h
  unfold OddWeight
  simp only at h
  split at h
  · simp at h
  split at h
  · simp at h
  split at h
  case isTrue hone => rw [hone]
  split at h
  · next hrow hcol _ => rw [popcount_add 8 8, show 2 ^ 8 = 256 from rfl, popcount_of_rowOf hrow, hcol]
  · simp at h

/-- A syndrome that is neither clean nor corrected delivers nothing. -/
theorem delivered_eq_none {d : BitVec 64} {c : BitVec 16} (h0 : syndrome d c ≠ 0) (h : ¬ Corrects (syndrome d c)) :
    delivered d c = none := by
  have hclean : decodeSynd (syndrome d c) ≠ .clean := by
    have : (syndrome d c).toNat ≠ 0 := fun h => h0 (BitVec.eq_of_toNat_eq h)
    unfold decodeSynd
    simp only [this, if_false]
    split_ifs
    · simp
    · simp
    · split <;> simp
  unfold Corrects at h
  unfold delivered
  split <;> simp_all

/-- The XOR of two different syndromes of odd weight is neither clean nor corrected. -/
theorem delivered_of_two {d : BitVec 64} {c x y : BitVec 16} (hs : syndrome d c = x ^^^ y) (hx : OddWeight x) (hy : OddWeight y)
    (hne : x ≠ y) : delivered d c = none := by
  refine delivered_eq_none (hs ▸ fun h => hne ?_) fun h => ?_
  · exact BitVec.xor_eq_zero_iff.mp h
  · have heven := popcount_xor_mod_two 16 x.toNat y.toNat
    rw [← BitVec.toNat_xor, ← hs] at heven
    have hodd := oddWeight_of_corrects h
    unfold OddWeight at hx hy hodd
    omega

/-- The data word with one bit. -/
abbrev dataBit (x : Fin 64) : BitVec 64 := BitVec.ofNat 64 (2 ^ x.val)

/-- The check field with one bit. -/
abbrev checkBit (x : Fin 16) : BitVec 16 := BitVec.ofNat 16 (2 ^ x.val)

theorem decodeSynd_dataBit (x : Fin 64) : decodeSynd (checkOf (dataBit x)) = .dataBit x := by
  decide +kernel +revert

theorem decodeSynd_checkBit (x : Fin 16) : decodeSynd (checkBit x) = .chkBit := by
  decide +kernel +revert

theorem oddWeight_dataBit (x : Fin 64) : OddWeight (checkOf (dataBit x)) := oddWeight_of_corrects (.inr ⟨_, decodeSynd_dataBit x⟩)

theorem oddWeight_checkBit (x : Fin 16) : OddWeight (checkBit x) := oddWeight_of_corrects (.inl (decodeSynd_checkBit x))

theorem checkBit_injective : Function.Injective checkBit := by
  decide +kernel

/-- Settles O54: one inverted bit has the syndrome of its place, two have one of even weight that is not zero. -/
theorem codeCorrectsOneBitDetectsTwo : Obligations.CodeCorrectsOneBitDetectsTwo := by
  unfold Obligations.CodeCorrectsOneBitDetectsTwo
  have hdata (d e : BitVec 64) : syndrome (d ^^^ e) (checkOf d) = checkOf e := by simpa using syndrome_of_errors d e 0
  have hchk (d : BitVec 64) (f : BitVec 16) : syndrome d (checkOf d ^^^ f) = f := by
    simp [syndrome, BitVec.xor_comm]
  refine ⟨fun d => ⟨?_, ?_⟩, fun d x => ?_, fun d x => ?_, fun d x y hne => ?_, fun d x y hne => ?_, fun d x y => ?_⟩
  · simp [delivered, syndrome, show decodeSynd 0#16 = .clean from rfl]
  · simp [delivered, hchk, show decodeSynd 0xFFFF#16 = .poison from rfl]
  · rw [delivered, hdata, decodeSynd_dataBit]
    simp
  · rw [delivered, hchk, decodeSynd_checkBit]
  · refine delivered_of_two (x := checkOf (dataBit x)) (y := checkOf (dataBit y)) ?_ (oddWeight_dataBit x) (oddWeight_dataBit y)
      fun h => hne ?_
    · rw [BitVec.xor_assoc, hdata, checkOf_xor]
    · have hval := congrArg decodeSynd h
      rw [decodeSynd_dataBit, decodeSynd_dataBit] at hval
      exact Fin.ext (Decoded.dataBit.inj hval)
  · refine delivered_of_two (x := checkBit x) (y := checkBit y) ?_ (oddWeight_checkBit x) (oddWeight_checkBit y) (checkBit_injective.ne hne)
    rw [BitVec.xor_assoc, hchk]
  · refine delivered_of_two (syndrome_of_errors d (dataBit x) (checkBit y)) (oddWeight_dataBit x) (oddWeight_checkBit y) fun h => ?_
    have hkind := congrArg decodeSynd h
    rw [decodeSynd_dataBit, decodeSynd_checkBit] at hkind
    cases hkind

end Sys2Proof.Machine
end

section
/-! PROOFS. Counter mode (R179), the change of the time of day while no line sends (R20), the snapshots of the wide registers (R12) and the
raises of a source (R381, R385, R387). -/

namespace Sys2Proof.Machine

/-! ### Counter mode -/

theorem length_leBytes (k n : Nat) : (leBytes k n).length = k := by
  induction k generalizing n with
  | zero => rfl
  | succ k ih => simp [leBytes, ih]

/-- The key stream of n blocks has 16 bytes a block. -/
theorem length_keyStream (ks : List Nat) (iv n : Nat) : (keyStream ks iv n).length = 16 * n := by
  simp [keyStream, List.length_flatMap, beBytes, length_leBytes, mul_comm]

/-- Counter mode keeps the length: the key stream covers the last block too. -/
theorem length_gcmCrypt (key iv : Nat) (bs : List Byte) : (gcmCrypt key iv bs).length = bs.length := by
  simp only [gcmCrypt, List.length_zipWith, length_keyStream]
  omega

/-- Adding a key stream twice gives the bytes back that it covers. -/
theorem zipWith_xor_zipWith_xor {bs ks : List Byte} (h : bs.length ≤ ks.length) :
    (bs.zipWith (· ^^^ ·) ks).zipWith (· ^^^ ·) ks = bs := by
  induction bs generalizing ks with
  | nil => simp
  | cons b bs ih =>
    match ks with
    | k :: ks => simp [ih (Nat.le_of_succ_le_succ h)]

/-- Settles O57: both runs add the same key stream, since the length is kept. -/
theorem counterModeUndoesItself : Obligations.CounterModeUndoesItself := by
  refine ⟨fun key iv bs => ?_, length_gcmCrypt⟩
  have hlen := length_gcmCrypt key iv bs
  unfold gcmCrypt at hlen ⊢
  rw [hlen]
  exact zipWith_xor_zipWith_xor (by rw [length_keyStream]; omega)

/-! ### The tick while the time changes (R20) -/

theorem State.each_tick {α} {f : State → α → State} {s : State} {xs : List α} (h : ∀ s x, (f s x).tick = s.tick) :
    (s.each xs f).tick = s.tick :=
  State.each_eq State.tick h s xs

theorem State.each_conv {α} {f : State → α → State} {s : State} {xs : List α} (h : ∀ s x, (f s x).conv = s.conv) :
    (s.each xs f).conv = s.conv :=
  State.each_eq State.conv h s xs

theorem windowEnd_tick (l : Nat) (b : Bool) (s : State) : (windowEnd l b s).tick = s.tick := by
  unfold windowEnd
  dsimp only
  split
  · rw [State.onDsp_tick, State.onFrm_tick, State.each_tick (by intro s k; rfl)]
  · rfl

theorem shiftReleases_tick (d : Int) (s : State) : (shiftReleases d s).tick = s.tick := by
  unfold shiftReleases
  rw [State.each_tick (by intro s f; rfl)]

theorem renumbered_tick (k : Int) (s : State) : (renumbered k s).tick = s.tick := by
  unfold renumbered
  split
  · rfl
  · dsimp only
    rw [shiftReleases_tick, State.each_tick (by intro s l; rfl), State.each_tick (by intro s l; exact windowEnd_tick ..)]

theorem shiftExpected_tick (d : Int) (s : State) : (shiftExpected d s).tick = s.tick := by
  unfold shiftExpected
  split
  · rfl
  · rw [State.each_tick (by intro s k; rfl)]

theorem shiftExpected_conv (d : Int) (s : State) : (shiftExpected d s).conv = s.conv := by
  unfold shiftExpected
  split
  · rfl
  · rw [State.each_conv (by intro s k; rfl)]

/-- The tick after the time of day becomes x while no line sends: on a tick position it has that number, else it is stretched. -/
def tickAt (x : Nat) (t : TickS) : TickS :=
  if x % tickUnits = 0 then { t with tod := x, num := x / tickUnits, stretched := false }
  else { t with tod := x, num := (x + 2 * tickUnits - 1) / tickUnits - 1, stretched := true,
                stretchCnt := if t.stretched then t.stretchCnt else min (t.stretchCnt + 1) 0xFFFF }

/-- While no line sends, a change of the time of day sets the tick at once. -/
theorem changeTime_tick {d : Int} {s : State} (h : anySends s = false) :
    (changeTime d s).tick = tickAt ((s.tick.tod : Int) + d).toNat s.tick := by
  have hquiet (t : State) (ht : t.conv = s.conv) : ¬ anySends t = true := by
    simpa [anySends, State.sends, State.cv, ht] using h
  unfold changeTime
  dsimp only
  rw [if_neg (hquiet _ ?_), renumbered_tick, apply_ite State.tick]
  · have hlinks : (List.foldl (fun s b => s.onLink b fun k => { k with theta := none, t3 := none, t4 := none, skip := 2 })
      (shiftExpected d s) [false, true]).tick = s.tick := shiftExpected_tick d s
    dsimp only
    repeat rw [State.each_tick (by intro s l; rfl)]
    rw [hlinks]
    rfl
  · rw [State.each_conv (by intro s l; rfl)]
    exact shiftExpected_conv d s

/-- A tick position is its number times the tick; any other time is stretched to the second tick position after it. -/
theorem tickAt_facts (x : Nat) (t : TickS) :
    (tickAt x t).tod = x ∧ (x % tickUnits = 0 → (tickAt x t).num * tickUnits = x ∧ (tickAt x t).stretched = false) ∧
      (x % tickUnits ≠ 0 → (tickAt x t).stretched = true ∧ (tickAt x t).num + 1 = (x + 2 * tickUnits - 1) / tickUnits) := by
  unfold tickAt
  split
  · next h => exact ⟨rfl, fun _ => ⟨Nat.div_mul_cancel (Nat.dvd_of_mod_eq_zero h), rfl⟩, fun hne => absurd h hne⟩
  · next h =>
    refine ⟨rfl, fun he => absurd he h, fun _ => ⟨rfl, Nat.sub_add_cancel ?_⟩⟩
    exact (Nat.one_le_div_iff (by decide)).mpr (by unfold tickUnits; omega)

/-- The boundary that ends a stretched tick falls on the second tick position after the time of day. -/
theorem nextTick_tod_of_stretched {s : State} (h : s.tick.stretched = true) :
    (nextTick s).tick.tod = (s.tick.tod + 2 * tickUnits - 1) / tickUnits * tickUnits := if_pos h

/-- Settles O53: the tick after the change is at the new time, and a stretched one ends on the tick position of its successor. -/
theorem stretchedTickEndsOnATick : Obligations.StretchedTickEndsOnATick := by
  intro d s hquiet hd
  obtain ⟨htod, hwhole, hrest⟩ := tickAt_facts ((s.tick.tod : Int) + d).toNat s.tick
  rw [← changeTime_tick hquiet] at htod hwhole hrest
  rw [← htod] at hwhole hrest
  refine ⟨by rw [htod]; omega, hwhole, fun hne => ?_⟩
  obtain ⟨hstretched, hnum⟩ := hrest hne
  refine ⟨hstretched, fun hlt => ?_⟩
  rw [nextTick_tod_of_stretched hstretched, ← hnum]
  refine ⟨congrArg (· * tickUnits) (Nat.mod_eq_of_lt hlt).symm, ?_⟩
  rw [hnum]
  have hpos : 0 < tickUnits := by decide
  have hend := Nat.lt_div_mul_add (a := (changeTime d s).tick.tod + 2 * tickUnits - 1) hpos
  omega

/-! ### The snapshots of the wide registers (R12) -/

/-- After different keys are set in turn, each reads as it was set. -/
theorem get_foldl_set {α : Type} [DecidableEq α] {key : Nat → Nat} (hkey : Function.Injective key) (t : Table α) (v : Nat → α) {k n : Nat}
    (hk : k < n) : ((List.range n).foldl (fun t i => t.set (key i) (v i)) t).get (key k) = v k := by
  induction n with
  | zero => omega
  | succ n ih =>
    rw [List.range_succ, List.foldl_concat]
    obtain rfl | hlt := Nat.eq_or_lt_of_le (Nat.le_of_lt_succ hk)
    · exact Table.get_set_same ..
    · rw [Table.get_set_other _ (hkey.ne (Nat.ne_of_lt hlt)), ih hlt]

/-- A read of the lowest word of a wide register takes the snapshot of its words and answers the word. -/
theorem regRead_lowest {pf1 : Bool} {a n : Nat} {s : State} (h : (pf1 && pf0Only a) = false) (hg : rsGroup s a = some (a % 0x100000, n)) :
    regRead pf1 a s =
      let t := (List.range n).foldl (fun t i => t.set (a + 4 * i) (some (regNow s (a + 4 * i)))) (snapOf s pf1)
      let u := { s with pci := if pf1 then { s.pci with snap1 := t } else { s.pci with snap0 := t } }
      { u with pci := { u.pci with rdata := regNow s a } } := by
  have hbase : a = a / 0x100000 * 0x100000 + a % 0x100000 := (Nat.div_add_mod' ..).symm
  simp only [regRead, h, hg, Bool.false_eq_true, if_false]
  rw [if_pos hbase]

/-- A read of a higher word of a wide register answers the word in the snapshot. -/
theorem regRead_higher {pf1 : Bool} {a lo n : Nat} {s : State} (h : (pf1 && pf0Only a) = false) (hg : rsGroup s a = some (lo, n))
    (hlo : a % 0x100000 ≠ lo) : regRead pf1 a s = { s with pci := { s.pci with rdata := ((snapOf s pf1).get a).getD 0 } } := by
  simp only [regRead, h, hg, Bool.false_eq_true, if_false]
  rw [if_neg (by omega)]

/-- Settles O45: the lowest word's read sets every word of the snapshot of its function, a higher word's only reads it. -/
theorem snapshotHoldsTheWideRegister : Obligations.SnapshotHoldsTheWideRegister := by
  refine ⟨fun pf1 addr n s hlive hf hg _ => ⟨_, exec_rsLowWordRead_of_live hlive, ?_⟩, fun pf1 addr lo n s hlive hf hg hlo => ?_⟩
  · rw [regRead_lowest hf hg]
    have hinj : Function.Injective fun i => addr.toNat + 4 * i := fun i j h => by simpa using h
    have hset {k : Nat} (hk : k < n) := get_foldl_set hinj (snapOf s pf1) (fun i => some (regNow s (addr.toNat + 4 * i))) hk
    cases pf1
    · exact ⟨rfl, fun k hk => hset hk, rfl⟩
    · exact ⟨rfl, fun k hk => hset hk, rfl⟩
  · rw [exec_rsLowWordRead_of_live hlive, regRead_higher hf hg hlo]

/-! ### Raises (R381, R385, R387) -/

@[simp] theorem State.raiseVec_flt (s : State) (pf1 : Bool) (v : Nat) : (s.raiseVec pf1 v).flt = s.flt := by
  unfold State.raiseVec
  split <;> split <;> rfl

@[simp] theorem State.raiseVec_tick (s : State) (pf1 : Bool) (v : Nat) : (s.raiseVec pf1 v).tick = s.tick := by
  unfold State.raiseVec
  split <;> split <;> rfl

@[simp] theorem State.count_flt (s : State) (blk idx qual n : Nat) : (s.count blk idx qual n).flt = s.flt :=
  State.each_eq State.flt (fun _ _ => by rw [State.when_eq State.flt fun s => State.raiseVec_flt s true 1]) ..

@[simp] theorem State.count_tick (s : State) (blk idx qual n : Nat) : (s.count blk idx qual n).tick = s.tick :=
  State.each_eq State.tick (fun _ _ => by rw [State.when_eq State.tick fun s => State.raiseVec_tick s true 1]) ..

/-- A raise of a pending source is counted, and nothing else. -/
theorem raiseFs_of_pending {fs code : Nat} {data : List Word} {s : State} (h : s.flt.pend.getLsbD fs = true) :
    raiseFs fs code data s = (s.onFlt fun f => { f with pend := putBit f.pend fs true }).count 0xB 0 fs 1 := by
  simp [raiseFs, h]

/-- The first-source latch after a source of a class raises at a tick (R387). -/
def latched (fs cls tick : Nat) (f : FltS) : FltS :=
  if f.first then { f with ovf := true } else { f with first := true, firstCls := cls, firstFs := fs, firstTick := tick }

/-- The collector after the reaction of a FAULT source at a tick: the latch, and the window at its length (R385). -/
def faultReaction (fs tick : Nat) (f : FltS) : FltS :=
  let f := latched fs 2 tick f
  { f with win := f.win.set fs (some (f.winUnits fs)) }

theorem react_flt_of_fault {fs code : Nat} {data : List Word} {s : State} (h : fld (s.flt.word fs) 1 0 = 2) :
    (react fs code data s).flt = faultReaction fs s.tick.num s.flt := by
  unfold react
  rw [h]
  change faultReaction fs (State.raiseVec _ false 19).tick.num (State.raiseVec _ false 19).flt = _
  rw [State.raiseVec_tick, State.raiseVec_flt]
  rfl

/-- The collector after the first raise of a FAULT source. -/
theorem raiseFs_flt_of_fault {fs code : Nat} {data : List Word} {s : State} (h : s.flt.pend.getLsbD fs = false)
    (hw : fld (s.flt.word fs) 1 0 = 2) :
    (raiseFs fs code data s).flt = faultReaction fs s.tick.num { s.flt with pend := putBit s.flt.pend fs true } := by
  unfold raiseFs
  rw [h]
  dsimp only
  rw [if_neg (by decide), react_flt_of_fault (by rw [State.count_flt]; exact hw), State.count_flt, State.count_tick]
  rfl

/-- Settles O48: a pending source's raise stops at the count; the first raise of a FAULT source reacts as Table 13-4 says. -/
theorem raisesOfAPendingSource : Obligations.RaisesOfAPendingSource := by
  have hexec {fs : Fin 512} {s : State} (hlive : s.live = true) (hr : fsRaises fs = true) :
      exec (.faultRaise fs) s = .next (raiseFs fs 0 [0, 0, 0] (s.onFlt fun f => { f with raised := f.raised.erase fs.val })) :=
    if_pos (by simp [hlive, hr])
  refine ⟨fun fs s hlive hr hp => ?_, fun fs s hlive hr hp hw => ⟨_, hexec hlive hr, ?_⟩⟩
  · rw [hexec hlive hr, raiseFs_of_pending (by exact hp)]
    rfl
  · rw [raiseFs_flt_of_fault (by exact hp) (by exact hw)]
    have hset : (putBit s.flt.pend fs true).getLsbD fs = true := by rw [getLsbD_putBit_true _ fs.isLt, decide_eq_true rfl, Bool.or_true]
    cases hf : s.flt.first <;> simp [-BitVec.getLsbD_eq_getElem, State.onFlt, faultReaction, latched, hf, hset, FltS.winUnits, FltS.word]

end Sys2Proof.Machine
end

section
/-! PROOFS. The write of ECC_TEST_ACCESS (R208, R252): what a write of a granule leaves in the Sett's memory while the flip mask is not
armed. -/

namespace Sys2Proof.Machine

/-! ### Requests and cancelled write-backs leave the protection's controls alone -/

theorem request_ecc (q : Nat) (pcs : List Nat) (s : State) : (request q pcs s).ecc = s.ecc := by
  unfold request
  dsimp only
  split
  · exact State.each_eq State.ecc (fun _ _ => by rfl) ..
  · rfl

theorem count_ecc (s : State) (blk idx qual n : Nat) : (s.count blk idx qual n).ecc = s.ecc := by
  have hvec (s : State) : (s.raiseVec true 1).ecc = s.ecc := by
    unfold State.raiseVec
    split <;> split <;> rfl
  exact State.each_eq State.ecc (fun _ _ => by rw [State.when_eq State.ecc hvec]) ..

theorem cancelWb_flipCtl (t inst u : Nat) (s : State) : (cancelWb t inst u s).ecc.flipCtl = s.ecc.flipCtl :=
  State.when_eq (·.ecc.flipCtl) (fun s => by rw [count_ecc]; rfl) ..

/-! ### A granule written and read -/

/-- The granule that was put reads as its eight words; the others read as before. -/
theorem granuleOf_putGranule {ws : Granule} (h : ws.length = 8) (g k : Nat) (s : State) :
    granuleOf (putGranule g ws s) k = if k = g then ws else granuleOf s k := by
  unfold granuleOf putGranule
  dsimp only
  rw [Table.get_set]
  by_cases hk : k = g
  · rw [if_pos hk, if_pos hk]
    split
    · next hall =>
      exact (List.eq_replicate_iff.mpr ⟨h, fun w hw => eq_of_beq (List.all_eq_true.mp hall w hw)⟩).symm
    · rw [if_neg (by simpa using List.ne_nil_of_length_eq_add_one h)]
  · rw [if_neg hk, if_neg hk]

theorem granuleOf_congr {s t : State} (h : t.sett.mem = s.sett.mem) (g : Nat) : granuleOf t g = granuleOf s g := by
  unfold granuleOf
  rw [h]

/-- While the flip mask is not armed, a write of a granule stores its words with fresh checks. -/
theorem granuleOf_settWrite {ds : List (BitVec 64)} {s : State} (hds : ds.length = 8) (hflip : flag s.ecc.flipCtl 31 = false) (g k : Nat) :
    granuleOf (settWrite g ds s) k = if k = g then ds.map (fun d => (d, checkOf d)) else granuleOf s k := by
  have hfull : (ds ++ List.replicate 8 0).take 8 = ds := List.take_left' hds
  unfold settWrite
  dsimp only
  rw [if_neg (by simp [flipHits, cancelWb_flipCtl, hflip]), hfull, granuleOf_putGranule (by simpa using hds)]
  rw [granuleOf_congr (s := s) (mem_of_kept (cancelWb_kept ..))]

theorem length_granuleWords {ws : List Word} {n : Nat} (h : ws.length = 2 * n) : (granuleWords ws).length = n := by
  induction n generalizing ws with
  | zero => rw [List.eq_nil_of_length_eq_zero h]; rfl
  | succ n ih =>
    match ws, h with
    | _ :: _ :: ws, h => exact congrArg (· + 1) (ih (by simpa [Nat.mul_add] using h))

/-- Settles O55: the request and the cancelled write-back leave the memory, and the write stores the eight words at its granule alone. -/
theorem testAccessWritesOneGranule : Obligations.TestAccessWritesOneGranule := by
  intro h ws s t a ha hr hlen hw haddr hmod hle hlt hready hcap hflip ht
  subst haddr
  obtain ⟨-, -, -, hwrite, -⟩ := eccCommandsComplete h ws s
  have hnext := ht.symm.trans (hwrite ha hr hlen (by rw [hw]; decide) (by rw [hw]; decide) hmod hle hlt hready hcap)
  have hds : (granuleWords (ws.drop 3)).length = 8 := length_granuleWords (by rw [List.length_drop, hlen])
  have hmem (u : State) (d : List Word) : (committed 0x0504 h s u d).sett.mem = u.sett.mem := mem_of_kept (State.audit_kept ..)
  have hgran (g : Nat) := (granuleOf_settWrite (s := request 8 (granulePcs (ofLohi (wd ws 1) (wd ws 2)) 1) s) hds
    (by rw [request_ecc]; exact hflip) (ofLohi (wd ws 1) (wd ws 2) / 64) g)
  rw [Host.Outcome.next.inj hnext]
  refine ⟨?_, fun g hg => ?_⟩
  · rw [granuleOf_congr (hmem ..), hgran, if_pos rfl]
  · rw [granuleOf_congr (hmem ..), hgran, if_neg hg]
    exact granuleOf_congr (mem_of_kept (request_kept ..)) g

end Sys2Proof.Machine
end

section

/-! PROOFS. EVENTS OF THE LINES AND THE CLIENT SIDE. -/

namespace Sys2Proof.Machine

theorem setDacs_mar (l : Nat) (bad : List (Fin 4)) (trims : List DacMeas) (s : State) : (setDacs l bad trims s).mar = s.mar := by
  unfold setDacs
  dsimp only
  rw [State.each_eq State.mar (by intro s k; rfl), State.each_eq State.mar (by intro s t; rfl)]
  rfl

/-- Setting the DACs leaves the role that Marten gives the line. -/
theorem setDacs_role (l : Nat) (bad : List (Fin 4)) (trims : List DacMeas) (s : State) :
    ((setDacs l bad trims s).ml l).role = (s.ml l).role := by
  unfold State.ml
  rw [setDacs_mar]

theorem lightAll_mar (l : Nat) (s : State) : (lightAll l s).mar = s.mar := by
  unfold lightAll
  rw [State.each_eq State.mar (by intro s k; rfl)]

theorem lightAll_role (l : Nat) (s : State) : ((lightAll l s).ml l).role = (s.ml l).role := by
  unfold State.ml
  rw [lightAll_mar]

/-- Settles O15: the guards hold, and the branch taken is the one that the conditions name. -/
theorem converterEventsComplete : Obligations.ConverterEventsComplete := by
  unfold Obligations.ConverterEventsComplete
  refine ⟨?_, ?_, ?_, ?_, ?_, ?_, ?_, ?_, ?_, ?_, ?_, ?_, ?_, ?_, ?_⟩
  · exact fun _ _ _ _ hdwellOver hslicePasses => (if_pos (by simp [hdwellOver])).trans <| if_pos (by simp [hslicePasses])
  · exact fun _ _ _ _ hdwellOver hslicePasses hsaturated => (if_pos (by simp [hdwellOver])).trans <| (if_neg (by simp
      [hslicePasses])).trans <| if_pos (by simp [hsaturated])
  · exact fun _ _ _ _ hdwellOver hslicePasses hsaturated hdwellTicks => (if_pos (by simp [hdwellOver])).trans <| (if_neg (by simp
      [hslicePasses])).trans <| if_neg (by simp [hsaturated, hdwellTicks])
  · exact fun _ _ _ _ hup hon hdevCount hsuspects => if_pos (by simp only [hup, hon, hdevCount, hsuspects, decide_true, Bool.not_false,
      Bool.and_self])
  · intro l a p ps s hup hon hsuspects hspareOk
    unfold exec execSliceSubstitute
    simp [hup, hon, hsuspects, hspareOk]
  · exact fun _ _ _ hup hon hretiredCount => if_pos (by simp [hup, hon, hretiredCount])
  · exact fun _ _ hup hstartIn hoptics hlineAllowed => if_pos (by simp [hup, hstartIn, hoptics, hlineAllowed])
  · exact fun _ _ _ hcalAt hrx => if_pos (by simp [hcalAt, hrx])
  · rintro l _ trims s hcalAt htx rfl hrole
    refine (if_pos (by simp [hcalAt, htx])).trans ((if_pos rfl).trans ?_)
    have hset : ((setDacs l [] trims s).ml l).role ≠ 3 := by rw [setDacs_role]; exact hrole
    simp [State.when, lightAll_role, hset, beq_false_of_ne hset]
  · rintro l _ trims s hcalAt htx rfl hrole
    refine (if_pos (by simp [hcalAt, htx])).trans ((if_pos rfl).trans ?_)
    have hset : ((setDacs l [] trims s).ml l).role = 3 := by rw [setDacs_role]; exact hrole
    simp [State.when, hset]
  · exact fun _ _ _ _ hcalAt htx hbad => (if_pos (by simp [hcalAt, htx])).trans <| if_neg (by simp [hbad])
  · exact fun _ _ hcalAt htx => if_pos (by simp [hcalAt, htx])
  · exact fun _ _ hcalAt hrx => if_pos (by simp [hcalAt, hrx])
  · intro l s hup hpll hpowered
    refine (if_pos (by simp [hup, hpll, hpowered])).trans ?_
    refine congrArg (fun f => Host.Outcome.next (((s.onConv l f).each (List.range 4) fun s a => s.onAdc l a adcIdle).convFault l 5))
      (funext fun c => ?_)
    generalize c.relock = r
    cases r <;> rfl
  · intro l locks k s hup hrelock hpll hfailDue hcalTick hk
    unfold exec execLinePllRelockAttempt
    simp [hup, hrelock, hpll, hfailDue, hcalTick, hk]

/-- Settles O18: the state of the lane or port opens the guard, and its ticks pick the branch. -/
theorem laneAndPortEventsComplete : Obligations.LaneAndPortEventsComplete := by
  unfold Obligations.LaneAndPortEventsComplete
  refine ⟨?_, ?_, ?_, ?_, ?_, ?_, ?_, ?_, ?_, ?_, ?_, ?_⟩
  · exact fun _ _ hup hrx hticks => if_pos (by simp [hup, hrx, hticks])
  · exact fun _ _ _ _ hup hrx hticks => if_pos (by simp [hup, hrx, hticks])
  · exact fun _ _ hup hrx hticks hdue => if_pos (by simp [hup, hrx, hticks, hdue])
  · intro x s hup hrx
    change execLaneLos x s = _
    unfold execLaneLos
    obtain hrx | hrx := hrx
    · rw [hrx]
      exact if_pos hup
    · rw [hrx]
      exact if_pos hup
  · exact fun _ _ hup hrx => if_pos (by simp [hup, hrx])
  · exact fun _ _ hup hraw hrawCfg hrx hlock => if_pos (by simp [hup, hraw, hrawCfg, hrx, hlock])
  · exact fun _ _ hup hst haligned hticks hlanesReady => if_pos (by simp [hup, hst, haligned, hticks, hlanesReady])
  · exact fun _ _ hup => if_pos (by simp [hup])
  · intro p remote s hup hst
    unfold exec execPortFaultRx
    simp [hup, hst]
  · intro p remote s hup hst
    unfold exec execPortFaultRx
    simp [hup, hst]
  · exact fun _ _ hup hst hticks hfaultTick => if_pos (by simp [hup, hst, hticks, hfaultTick])
  · exact fun _ _ hup henabled hflag hnoLine => if_pos (by simp [hup, henabled, hflag, hnoLine])

/-- A frame that arrives whole at an enabled port: its length, the port's state and its type decide. -/
theorem exec_clientFrameIngress_of_intact {p : Fin 8} {f : EthFrame} {sub : Nat} {cwErrs : List Nat} {rmOvf : Bool} {s : State}
    (hup : s.up = true) (hen : (s.port p).enabled = true) (hovf : rmOvf = false) (hfec : fecFails cwErrs = false) (hfcs : f.fcsOk = true) :
    exec (.clientFrameIngress p f sub cwErrs rmOvf) s = .next (
      if f.data.length + 4 < 64 then (s.atSub sub).count 4 1 p 1
      else if fld (wd (s.port p).cfg 2) 13 0 < f.data.length + 4 then (s.atSub sub).count 4 2 p 1
      else if (s.port p).st ≠ .up then (s.atSub sub).count 4 0xB p 1
      else if etherType f.data = 0x8808 then controlFrame p f.data (s.atSub sub)
      else acceptFrame p f.data (s.atSub sub)) := by
  unfold exec execClientFrameIngress
  refine (if_pos (by rw [hup, hen]; rfl)).trans ?_
  rw [hfec, hovf, hfcs]
  rfl

/-- A frame that arrives whole and fits: the port's state and its type decide. -/
theorem exec_clientFrameIngress_of_fits {p : Fin 8} {f : EthFrame} {sub : Nat} {cwErrs : List Nat} {rmOvf : Bool} {s : State}
    (hup : s.up = true) (hen : (s.port p).enabled = true) (hovf : rmOvf = false) (hfec : fecFails cwErrs = false)
    (hfcs : f.fcsOk = true) (hmin : 60 ≤ f.data.length) (hmax : f.data.length + 4 ≤ fld (wd (s.port p).cfg 2) 13 0) :
    exec (.clientFrameIngress p f sub cwErrs rmOvf) s = .next (
      if (s.port p).st ≠ .up then (s.atSub sub).count 4 0xB p 1
      else if etherType f.data = 0x8808 then controlFrame p f.data (s.atSub sub)
      else acceptFrame p f.data (s.atSub sub)) :=
  (exec_clientFrameIngress_of_intact hup hen hovf hfec hfcs).trans <|
    congrArg _ <| (if_neg (by omega)).trans <| if_neg (by omega)

/-- Settles O19: the reasons to drop a frame are tested in turn, so that each hypothesis passes one test. -/
theorem clientFrameEventsComplete : Obligations.ClientFrameEventsComplete := by
  unfold Obligations.ClientFrameEventsComplete
  refine ⟨?_, ?_, ?_, ?_, ?_, ?_, ?_, ?_, ?_, ?_, ?_, ?_⟩
  · intro p f sub cwErrs rmOvf s hup henabled hrmOvf
    unfold exec execClientFrameIngress
    simp [hup, henabled, hrmOvf]
  · intro p f sub cwErrs rmOvf s hup henabled hrmOvf hfecFails
    unfold exec execClientFrameIngress
    simp [hup, henabled, hrmOvf, hfecFails]
  · intro p f sub cwErrs rmOvf s hup henabled hrmOvf hfecFails hfcsOk hdata
    exact (exec_clientFrameIngress_of_intact hup henabled hrmOvf hfecFails hfcsOk).trans (congrArg _ (if_pos (by omega)))
  · intro p f sub cwErrs rmOvf s hup henabled hrmOvf hfecFails hfcsOk hdata hfld
    exact (exec_clientFrameIngress_of_intact hup henabled hrmOvf hfecFails hfcsOk).trans
      (congrArg _ ((if_neg (by omega)).trans <| if_pos hfld))
  · intro p f sub cwErrs rmOvf s hup henabled hfecFails hrmOvf hfcsOk hdata hfits hst
    exact (exec_clientFrameIngress_of_fits hup henabled hrmOvf hfecFails hfcsOk hdata hfits).trans (congrArg _ (if_pos hst))
  · intro p f sub cwErrs rmOvf s hup henabled hfecFails hrmOvf hfcsOk hdata hfits hst hetherType
    exact (exec_clientFrameIngress_of_fits hup henabled hrmOvf hfecFails hfcsOk hdata hfits).trans
      (congrArg _ ((if_neg (by simp [hst])).trans <| if_pos hetherType))
  · intro p f sub cwErrs rmOvf s hup henabled hfecFails hrmOvf hfcsOk hdata hfits hst hetherType
    exact (exec_clientFrameIngress_of_fits hup henabled hrmOvf hfecFails hfcsOk hdata hfits).trans
      (congrArg _ ((if_neg (by simp [hst])).trans <| if_neg hetherType))
  · exact fun _ _ _ _ hup hst => if_pos (by simp [hup, hst])
  · exact fun _ _ _ hup hpaused hpause => if_pos (by simp [hup, hpaused, hpause])
  · exact fun _ _ _ hup hst hpri hrefreshTicks => if_pos (by simp [hup, hst, hpri, hrefreshTicks])
  · intro p sub f s hup hsends hnextEgress hptpMode htcEn
    unfold exec execEgressFrameStart
    dsimp only
    rw [hnextEgress]
    refine (if_pos (by rw [hup, hsends]; rfl)).trans ?_
    rw [if_pos hptpMode, htcEn]
    rfl
  · exact fun _ _ hup hopen_ hflowFlush => if_pos (by simp [hup, hopen_, hflowFlush])

/-- Settles O21: each event stands guarded by the conditions given, and their branch is the one taken. -/
theorem nutmegEventsComplete : Obligations.NutmegEventsComplete := by
  unfold Obligations.NutmegEventsComplete
  refine ⟨?_, ?_, ?_, ?_, ?_, ?_, ?_⟩
  · exact fun _ _ _ _ hup hfenceDue => if_pos (by simp only [hup, hfenceDue, Bool.and_self])
  · intro rx jobs j s hup hcls hlanesIn hvictim
    unfold exec execC7Preempt
    simp [hup, hcls, hlanesIn, hvictim]
  · exact fun _ _ hup hmarkLeft => if_pos (by simp [hup, hmarkLeft])
  · exact fun _ _ _ _ => if_pos (by grind)
  · rintro _ _ s hup htxD htick rfl rfl
    refine (if_pos (by simp [hup, htxD, htick])).trans ?_
    simp [State.when]
  · intro badTx badRx s hup htxD htick hbad
    refine (if_pos (by simp [hup, htxD, htick])).trans ?_
    have hfault : (badTx != 0 || badRx != 0) = true := by simpa using hbad
    rw [hfault]
    rfl
  · exact fun _ hup hzeroising => if_pos (by rw [hup, Bool.true_and, Option.isSome_iff_ne_none]; exact hzeroising)

end Sys2Proof.Machine

end

section

/-! PROOFS. EVENTS OF THE SETT, THE STORED DATA AND TIME. -/

namespace Sys2Proof.Machine

/-- The Sett after a stack temperature is taken. -/
theorem exec_settStackTemp_of_on {st : Fin 4} {temp : BitVec 8} {s : State} (hup : s.up = true) (hst : s.sett.st ≠ .off) :
    exec (.settStackTemp st temp) s = .next (
      let u := State.when { s with sett := { s.sett with temp := s.sett.temp.set st temp,
                                                         refx2 := putBit s.sett.refx2 st (decide (85 < temp.toInt)),
                                                         hot := putBit s.sett.hot st (decide (95 ≤ temp.toInt)) } }
        (decide (95 ≤ temp.toInt) && !s.sett.hot.getLsbD st) fun s => (s.settFault 7).trigger 4
      u.when (decide (105 ≤ temp.toInt) && u.sett.st != .failed) fun s => failStacks [st] 2 (s.settFault 8)) :=
  if_pos (by simp [hup, hst])

/-- The event that a hot stack signals leaves the state of the Sett. -/
theorem settFault_trigger_st (n k : Nat) (s : State) : ((s.settFault n).trigger k).sett.st = s.sett.st := rfl

/-- The oldest copy is direct, too early for its line, or merged. -/
theorem exec_settCopyReceive_of_cons {c : Copy} {cs : List Copy} {s : State} (hq : s.sett.inQ = c :: cs) (hup : s.up = true) :
    exec .settCopyReceive s = .next (
      let u := { s with sett := { s.sett with inQ := cs } }
      if isDirect s c.cell.flow then directCopy c u else if !delayValid s c.line then u.count 6 0xB c.cell.flow 1 else mergeCopy c u) := by
  change execSettCopyReceive s = _
  unfold execSettCopyReceive
  rw [hq]
  exact if_pos hup

/-- The oldest elastic cell is admitted or dropped. -/
theorem exec_cellElasticAdmit_of_cons {x : ElCell} {xs : List ElCell} {s : State} (hq : s.sett.elQ = x :: xs) (hup : s.up = true)
    (hst : s.sett.st = .ready) :
    exec .cellElasticAdmit s = .next (
      let u := { s with sett := { s.sett with elQ := xs } }
      if admits s x.rx x.cls then
        let a := freePlace s x.rx
        let t := metaWrite (acctWord x.rx x.cls) 1 (request (if x.rx then 3 else 6) (granulePcs a 4) u)
        storeCell a x.cell { t with sett := { t.sett with el := t.sett.el ++ [{ x with addr := a }] } }
      else (u.count 6 0xC x.cell.flow 1).settFault 4) := by
  change execCellElasticAdmit s = _
  unfold execCellElasticAdmit
  rw [hq]
  exact (if_pos hup).trans (congrArg _ (if_neg (by simp [hst])))

/-- Settles O22: the queue events go by the frame at the front, the others by their guards. -/
theorem settEventsComplete : Obligations.SettEventsComplete := by
  unfold Obligations.SettEventsComplete
  refine ⟨?_, ?_, ?_, ?_, ?_, ?_, ?_, ?_, ?_, ?_, ?_, ?_, ?_, ?_, ?_, ?_⟩
  · exact fun _ hup hst hticks => if_pos (by simp [hup, hst, hticks])
  · exact fun _ _ _ _ _ _ => if_pos (by grind)
  · exact fun _ hup hst => if_pos (by simp [hup, hst])
  · exact fun _ _ hup hst => if_pos (by simp [hup, hst])
  · intro st temp s hup hst hcool
    rw [exec_settStackTemp_of_on hup hst, decide_eq_false (by omega : ¬ 95 ≤ temp.toInt), decide_eq_false (by omega : ¬ 105 ≤ temp.toInt)]
    rfl
  · intro st temp s hup hst hhot hmax
    rw [exec_settStackTemp_of_on hup hst, decide_eq_true hhot, decide_eq_false (by omega : ¬ 105 ≤ temp.toInt),
      decide_eq_true (by omega : 85 < temp.toInt)]
    rfl
  · intro st temp s hup hst hst2 htrip
    rw [exec_settStackTemp_of_on hup hst, decide_eq_true htrip, decide_eq_true (by omega : 95 ≤ temp.toInt),
      decide_eq_true (by omega : 85 < temp.toInt)]
    have hkeeps {u : State} {b : Bool} : (u.when b fun s => (s.settFault 7).trigger 4).sett.st = u.sett.st :=
      State.when_eq (·.sett.st) (fun s => settFault_trigger_st 7 4 s) ..
    dsimp only
    rw [hkeeps, bne_iff_ne.mpr hst2]
    rfl
  · exact fun _ _ _ hinQ hup hdirect => (exec_settCopyReceive_of_cons hinQ hup).trans (congrArg _ (if_pos hdirect))
  · exact fun _ _ _ hinQ hup hdirect hvalid => (exec_settCopyReceive_of_cons hinQ hup).trans
      (congrArg _ ((if_neg (by simp [hdirect])).trans <| if_pos (by simp [hvalid])))
  · exact fun _ _ _ hinQ hup hdirect hvalid => (exec_settCopyReceive_of_cons hinQ hup).trans
      (congrArg _ ((if_neg (by simp [hdirect])).trans <| if_neg (by simp [hvalid])))
  · intro x xs s helQ hup hst
    unfold exec execCellElasticAdmit
    simp [helQ, hup, hst]
  · exact fun _ _ _ helQ hup hst hadmits => (exec_cellElasticAdmit_of_cons helQ hup hst).trans (congrArg _ (if_pos hadmits))
  · exact fun _ _ _ helQ hup hst hadmits => (exec_cellElasticAdmit_of_cons helQ hup hst).trans
      (congrArg _ (if_neg (by simp [hadmits])))
  · intro fs s hup hcap htrig hsource hpend
    refine (if_pos ?_).trans (congrArg _ (if_pos hcap))
    rw [hup, hcap, htrig, hsource, hpend]
    simp
  · intro fs s hup hcap htrig htick
    refine (if_pos ?_).trans (congrArg _ (if_pos hcap))
    rw [hup, hcap, htrig, htick]
    simp
  · exact fun _ hup hcap hcapLeft => if_pos (by simp [hup, hcap, hcapLeft])

/-- The write-back that is found is performed while the target runs. -/
theorem exec_eccWriteBack_of_find {target : Fin 20} {w : WbS} {s : State}
    (h : ((s.tgt target.val).wb.find? fun w => target.val < 16 || (w.held && decide (s.ecc.used.get w.pc < eccCycles))) = some w) :
    exec (.eccWriteBack target) s =
      if s.up && (decide (target.val < 16) || s.sett.st == .ready)
      then .next (takeWb target.val w (s.when (16 ≤ target.val) (useEcc w.pc 1)))
      else .next s := by
  change execEccWriteBack target s = _
  unfold execEccWriteBack
  dsimp only
  rw [h]

/-- Settles O23: a write-back is the oldest one that the target lets run; the rest goes by guards. -/
theorem storedDataEventsComplete : Obligations.StoredDataEventsComplete := by
  unfold Obligations.StoredDataEventsComplete
  refine ⟨?_, ?_, ?_, ?_, ?_, ?_, ?_, ?_⟩
  · intro target w ws s hup htarget hwb
    have hfind : ((s.tgt target.val).wb.find? fun w => target.val < 16 || (w.held && decide (s.ecc.used.get w.pc < eccCycles)))
        = some w := by
      rw [hwb]
      exact List.find?_cons_of_pos (by simp [htarget])
    refine (exec_eccWriteBack_of_find hfind).trans ((if_pos (by simp [hup, htarget])).trans ?_)
    rw [decide_eq_false (Nat.not_le.mpr htarget)]
    rfl
  · intro target w s hup htarget hst hfirst
    have hfind : ((s.tgt target.val).wb.find? fun w => target.val < 16 || (w.held && decide (s.ecc.used.get w.pc < eccCycles)))
        = some w := by
      rw [decide_eq_false (Nat.not_lt.mpr htarget)]
      exact hfirst
    refine (exec_eccWriteBack_of_find hfind).trans ((if_pos (by simp [hup, hst])).trans ?_)
    rw [decide_eq_true htarget]
    rfl
  · exact fun _ _ _ _ hup htarget hpos hlast hpace => (if_pos htarget).trans <|
      (if_pos (by rw [hup, decide_eq_true hpos, decide_eq_true (Nat.lt_of_succ_lt hlast), decide_eq_true hpace]; rfl)).trans <|
      congrArg _ (if_neg (Nat.ne_of_lt hlast))
  · exact fun _ _ _ _ hup htarget hpos hlast hpace => (if_pos htarget).trans <|
      (if_pos (by rw [hup, decide_eq_true hpos, decide_eq_true (Nat.lt_of_succ_le hlast.le), decide_eq_true hpace]; rfl)).trans <|
      congrArg _ (if_pos hlast)
  · exact fun _ _ _ _ _ _ _ _ _ _ _ => (if_neg (by grind)).trans <| if_pos (by grind)
  · exact fun _ _ hup htargets => if_pos (by simp only [hup, htargets, Bool.and_self])
  · intro target n r s hup htarget hcopying hgetLast hcopyDone
    unfold exec execRowRemapCopyDone
    simp [hup, htarget, hcopying, hgetLast, hcopyDone]
  · intro target n r s hup htarget hst hcopying hn hgetLast hcopyDone
    unfold exec execRowRemapCopyDone
    simp [hup, htarget, hst, hcopying, hn, hgetLast, hcopyDone]

/-- Rewriting a reference leaves a field that the rewriting keeps. -/
theorem onRef_expect {s : State} {k : Nat} {f : RefS → RefS} (hf : ∀ r, (f r).expect = r.expect) :
    ((s.onRef k f).ref k).expect = (s.ref k).expect := by
  unfold State.ref State.onRef
  rw [Table.get_upd_same, hf]

theorem onRef_window {s : State} {k : Nat} {f : RefS → RefS} (hf : ∀ r, (f r).cfg = r.cfg) :
    ((s.onRef k f).ref k).window = (s.ref k).window := by
  unfold State.ref State.onRef RefS.window
  rw [Table.get_upd_same]
  simp [hf]

/-- Settles O24: stamping an edge keeps what is expected, so that the window is tested on the state before. -/
theorem timingEventsComplete : Obligations.TimingEventsComplete := by
  unfold Obligations.TimingEventsComplete
  refine ⟨?_, ?_, ?_, ?_, ?_, ?_, ?_, ?_, ?_, ?_, ?_, ?_, ?_, ?_, ?_⟩
  · intro k sub s hup hpps hexpect
    have hkeeps {f : RefS → RefS} (hf : ∀ r, (f r).expect = r.expect) : (((s.atSub sub).onRef k f).ref k).expect = none :=
      (onRef_expect hf).trans hexpect
    refine (if_pos (by simp [hup, hpps])).trans ?_
    dsimp only
    rw [hkeeps (by intro r; rfl)]
    rfl
  · intro k sub e s hup hpps hexpect hlate hearly
    have hkeeps {f : RefS → RefS} (hf : ∀ r, (f r).expect = r.expect) : (((s.atSub sub).onRef k f).ref k).expect = some e :=
      (onRef_expect hf).trans hexpect
    have hwin {f : RefS → RefS} (hf : ∀ r, (f r).cfg = r.cfg) : (((s.atSub sub).onRef k f).ref k).window = (s.ref k).window :=
      onRef_window hf
    refine (if_pos (by simp [hup, hpps])).trans ?_
    dsimp only
    rw [hkeeps (by intro r; rfl)]
    refine congrArg _ (if_pos ?_)
    rw [hwin (by intro r; rfl)]
    exact ⟨hlate, hearly⟩
  · exact fun _ _ hup hst hwtrLeft => if_pos (by simp [hup, hst, hwtrLeft])
  · exact fun _ hup hst hpps => if_pos (by simp [hup, hst, hpps])
  · exact fun _ hup hst hpps => if_pos (by simp [hup, hst, hpps])
  · exact fun _ _ hup hst hpps => if_pos (by simp [hup, hst, hpps])
  · intro s hup hatSecond hfcwCnt
    refine ⟨_, if_pos (by simp [hup, hatSecond, hfcwCnt]), ?_⟩
    by_cases hst : s.tim.st = .holdover
    · rw [if_pos hst]
      exact ⟨rfl, rfl, rfl, rfl, rfl, rfl, rfl, rfl, rfl, fun _ => ⟨rfl, rfl⟩, fun h => absurd hst h⟩
    · rw [if_neg hst]
      exact ⟨rfl, rfl, rfl, rfl, rfl, rfl, rfl, rfl, rfl, fun h => absurd h hst, fun _ => ⟨rfl, rfl⟩⟩
  · intro active dev n s hup hocxoMeas hn hactive hnatAbs
    unfold exec execOcxoMeasureDone
    simp [hup, hocxoMeas, hn, hactive, hnatAbs]
  · intro active dev n s hup hocxoMeas hn hbad
    have hgood : (active && decide (dev.natAbs ≤ s.tim.ocxoLimit)) = false := by
      simpa [imp_iff_not_or] using hbad
    change execOcxoMeasureDone active dev s = _
    unfold execOcxoMeasureDone
    rw [hocxoMeas]
    refine (if_pos (by simp [hup, hn])).trans ?_
    rw [hgood]
    rfl
  · exact fun _ hup hocxo hocxoDead => if_pos (by simp [hup, hocxo, hocxoDead])
  · exact fun _ hup hxoActive => if_pos (by simp [hup, hxoActive])
  · exact fun _ hup hdisagree hwtr => if_pos (by simp [hup, hdisagree, hwtr])
  · exact fun _ hup hslewing hslew => if_pos (by simp [hup, hslewing, hslew])
  · exact fun _ _ hup hatSecond hdue => if_pos (by simp [hup, hatSecond, hdue])
  · exact fun _ _ hup hon houtSrc hmissed => if_pos (by simp [hup, hon, houtSrc, hmissed])

/-- Rewriting a link depends only on the link as it is. -/
theorem onLink_congr {s : State} {b : Bool} {f g : LinkS → LinkS} (h : f (s.link b) = g (s.link b)) : s.onLink b f = s.onLink b g := by
  unfold State.link at h
  unfold State.onLink
  cases b
  · rw [if_neg Bool.false_ne_true, if_neg Bool.false_ne_true, show f s.tim.linkA = g s.tim.linkA from h]
  · rw [if_pos rfl, if_pos rfl, show f s.tim.linkB = g s.tim.linkB from h]

/-- Settles O25: the type of the word and its hops pick the branch. -/
theorem chainEventsComplete : Obligations.ChainEventsComplete := by
  unfold Obligations.ChainEventsComplete
  refine ⟨?_, ?_, ?_, ?_, ?_, ?_, ?_, ?_, ?_, ?_, ?_, ?_, ?_, ?_⟩
  · exact fun _ _ hup hchained hst => if_pos (by simp [hup, hchained, hst])
  · exact fun _ _ hup hlinkUp => if_pos (by simp [hup, hlinkUp])
  · exact fun _ _ _ _ hup hlinkUp hchainType => if_pos (by simp [hup, hlinkUp, hchainType])
  · intro b w t3 t4 s hup hlinkUp hchainType hskip ht3 ht4
    refine (if_pos (by simp [hup, hlinkUp, hchainType, hskip])).trans (congrArg _ (onLink_congr ?_))
    rw [ht3, ht4]
  · intro b d s hup hviaLink htheta hst hchainOnce
    unfold exec execChainFirstLock
    simp [hup, hviaLink, htheta, hst, hchainOnce]
  · intro m s hup hnewMaster
    unfold exec execChainMasterApply
    rw [hnewMaster]
    exact if_pos (by simp [hup])
  · exact fun _ _ _ hup hchained hst hchainType hbitsOf => (if_pos (by simp [hup, hchained, hst, hchainType])).trans <| if_pos (by simp
      [hbitsOf])
  · exact fun _ _ _ hup hchained hst hchainType hbitsOf hbitsOf2 => (if_pos (by simp [hup, hchained, hst, hchainType])).trans <| (if_neg
      (by simp [hbitsOf])).trans <| if_pos (by simp [hbitsOf2])
  · exact fun _ _ _ hup hchained hst hchainType hbitsOf hbitsOf2 => (if_pos (by simp [hup, hchained, hst, hchainType])).trans <| (if_neg
      (by simp [hbitsOf])).trans <| if_neg (by simp [hbitsOf2])
  · exact fun _ _ _ _ _ _ _ _ _ => (if_neg (by grind)).trans <| if_pos (by grind)
  · exact fun _ _ _ _ _ _ _ _ _ => (if_pos (by grind)).trans <| if_neg (by grind)
  · exact fun _ _ _ _ _ _ _ _ _ => (if_pos (by grind)).trans <| if_pos (by grind)
  · intro src msg reply m s hlive hreply
    unfold exec execFwdFragmentTimeout
    simp [hlive, hreply]
  · exact fun _ _ hlive hfwdOut => if_pos (by simp [hlive, hfwdOut])

end Sys2Proof.Machine

end

section

/-! PROOFS. EVENTS OF MARTEN, CLOVE AND THE RINGS. -/

namespace Sys2Proof.Machine

/-- What a window that is posted may change of its line, and the blocks that it leaves alone. -/
def windowView (l : Nat) (s : State) :=
  ((s.ml l).due, (s.ml l).post, s.conv, s.dsp, s.frm, s.cl, s.nut, s.ecc, s.clv, s.cmd, s.pwr)

theorem ml_onMar_same (s : State) (l : Nat) (f : MartenL → MartenL) : (s.onMar l f).ml l = f (s.ml l) := Table.get_upd_same ..

theorem marFault_view (l b : Nat) (s : State) : windowView l (s.marFault b) = windowView l s := rfl

theorem stage_view (l : Nat) (s : State) (it : ItemKind) (n o : Nat) (ws : List Word) :
    windowView l (s.stage it n o ws) = windowView l s := rfl

theorem when_marFault_view (l b : Nat) (s : State) (c : Bool) : windowView l (s.when c fun s => s.marFault b) = windowView l s :=
  State.when_eq (windowView l) (marFault_view l b) s c

theorem chooseLine_view (l k : Nat) (v : Bool) (s : State) : windowView l (chooseLine k v s) = windowView l s := by
  unfold chooseLine
  dsimp only
  split_ifs <;> rfl

theorem stageDelta_view (l k : Nat) (s : State) : windowView l (stageDelta k s) = windowView l s := by
  unfold stageDelta
  dsimp only
  split
  · rfl
  · split
    · exact when_marFault_view ..
    · rw [stage_view, when_marFault_view]

theorem steerBy_view (l : Nat) (th : Int) (v m n : Bool) (s : State) : windowView l (steerBy th v m n s) = windowView l s := by
  unfold steerBy
  dsimp only
  split_ifs <;> rfl

/-- The values that apply to a line after its window leave what the window posted. -/
theorem onMar_view {l : Nat} {f : MartenL → MartenL} (hd : ∀ m, (f m).due = m.due) (hp : ∀ m, (f m).post = m.post) (s : State) :
    windowView l (s.onMar l f) = windowView l s := by
  unfold windowView
  rw [ml_onMar_same, hd, hp]
  rfl

theorem sett_view (l : Nat) (s : State) (x : SettS) : windowView l { s with sett := x } = windowView l s := rfl

/-- A step that may be left out leaves the view when it leaves it. -/
theorem view_of_ite {l : Nat} {c : Prop} [Decidable c] {u v : State} {x : _} (h : windowView l v = windowView l u)
    (hu : windowView l u = x) :
    windowView l (if c then v else u) = x := by
  split
  · exact h.trans hu
  · exact hu

/-- What a window posts. -/
def windowPosted (m : MartenL) : PostS :=
  let w := m.dueWin
  let aOut := roundDiv w.sumOut w.cnt
  let aIn := roundDiv w.sumIn w.cnt
  { appIn := aIn, appOut := aOut, theta := thetaOf aOut aIn (psUnits m.delta), asym := m.delta,
    valid := w.allIn && !w.broken && !w.jump && decide (m.ttAvg ≤ 2 * w.cnt) && w.cnt != 0, samples := w.cnt }

/-- A window that is due is posted; what follows from it leaves the post and these blocks alone. -/
theorem exec_martenWindowPost_view {l : Fin 2} {s : State} (hr : marRuns s = true) (hdue : (s.ml l).due = true)
    (ha : s.lineAllowed l = true) :
    ∃ t, exec (.martenWindowPost l) s = .next t ∧
      windowView l t = windowView l (s.onMar l fun m => { m with due := false, post := windowPosted m }) := by
  refine ⟨_, if_pos (by simp [hr, hdue, ha]), ?_⟩
  refine view_of_ite (steerBy_view ..) ((stageDelta_view ..).trans ?_)
  refine view_of_ite (chooseLine_view ..) ((when_marFault_view ..).trans ((when_marFault_view ..).trans ?_))
  refine view_of_ite ((sett_view ..).trans (onMar_view (by intro m; rfl) (by intro m; rfl) _)) ?_
  unfold windowView
  rw [ml_onMar_same, ml_onMar_same, ml_onMar_same]
  rfl

/-- A detected preamble while the receiver hears: what it does depends on the receiver after the sync that came before it. -/
theorem exec_mcPreambleDetect_of_hears {l : Fin 2} {peak : Nat} {x : McPeak} {s : State} (h : mcHears s l = true) :
    exec (.mcPreambleDetect l peak x) s =
      let s0 := s.onMar l fun m => m.synced x.sync
      let m := (s.ml l).synced x.sync
      let pre (s : State) : State := s.onMar l fun m => { m with mcSt := .pre, mcPeak := peak }
      match m.mcSt with
      | .search => .next (pre s0)
      | .pre | .sync => .next (if m.mcPeak < peak then pre s0 else s0)
      | .body => .next (if m.strength.any fun v => decide (v + m.capMargin < x.power) then (pre s0).count 8 2 (2 + l.val) 1 else s0) := by
  change execMcPreambleDetect l peak x s = _
  unfold execMcPreambleDetect
  dsimp only
  rw [if_pos h, ml_onMar_same] <;> rfl

/-- Settles O26: a window that is posted changes its line alone; bursts go by their guards. -/
theorem martenEventsComplete : Obligations.MartenEventsComplete := by
  unfold Obligations.MartenEventsComplete
  refine ⟨?_, ?_, ?_, ?_, ?_, ?_, ?_, ?_, ?_, ?_, ?_, ?_, ?_, ?_, ?_, ?_, ?_⟩
  · intro l s hmarRuns hdue hlineAllowed
    obtain ⟨t, ht, hview⟩ := exec_martenWindowPost_view hmarRuns hdue hlineAllowed
    obtain ⟨hdue', hpost, hconv, hdsp, hfrm, hcl, hnut, hecc, hclv, hcmd, hpwr⟩ := by simpa [windowView, ml_onMar_same] using hview
    refine ⟨t, ht, hdue', ?_, ?_, ?_, ?_, ?_, hconv, hdsp, hfrm, hcl, hnut, hecc, hclv, hcmd, hpwr⟩
    all_goals rw [hpost]; rfl
  · exact fun _ _ hmarRuns hatSecond hrxd => if_pos (by simp [hmarRuns, hatSecond, hrxd])
  · exact fun _ _ hmarRuns hcalPend havgIn havgOut => if_pos (by simp [hmarRuns, hcalPend, havgIn, havgOut])
  · exact fun _ _ hmayBurst hperiod => if_pos (by simp [hmayBurst, hperiod])
  · exact fun l s hmayBurst hsuperTick => (if_pos hmayBurst).trans <|
      congrArg _ ((if_neg (by omega)).trans <| if_neg (by omega))
  · intro l e s hmayBurst hsuperTick hsuperTick2 hfind
    unfold exec execHubBeacon
    simp [hmayBurst, hsuperTick, hsuperTick2, hfind]
  · exact fun _ _ hmayBurst htimed hranged hsentDisc hsuperTick hsuperTick2 => if_pos (by simp [hmayBurst, htimed, hranged, hsentDisc,
      hsuperTick, hsuperTick2])
  · exact fun _ _ hmayBurst hranged hsuperTick => if_pos (by simp [hmayBurst, hranged, hsuperTick])
  · intro l peak x s hmcHears hmcSt
    rw [exec_mcPreambleDetect_of_hears hmcHears]
    dsimp only
    obtain hsearch | ⟨hpre | hsync, hpeak⟩ := hmcSt
    · rw [hsearch]
    · rw [hpre]
      exact congrArg _ (if_pos hpeak)
    · rw [hsync]
      exact congrArg _ (if_pos hpeak)
  · intro l peak x s hmcHears hmcSt hmcPeak
    rw [exec_mcPreambleDetect_of_hears hmcHears]
    dsimp only
    obtain hpre | hsync := hmcSt
    · rw [hpre]
      exact congrArg _ (if_neg (Nat.not_lt.mpr hmcPeak))
    · rw [hsync]
      exact congrArg _ (if_neg (Nat.not_lt.mpr hmcPeak))
  · intro l peak x v s hmcHears hmcSt hstrength hcapMargin
    unfold exec execMcPreambleDetect
    simp [hmcHears, hmcSt, hstrength, hcapMargin]
  · intro l s hmcHears hmcSt
    change execMcSyncTimeout l s = _
    unfold execMcSyncTimeout
    rw [if_pos hmcHears]
    obtain hpre | hsync := hmcSt
    · rw [hpre]
    · rw [hsync]
  · exact fun _ _ _ hmcHears hmcSt hhdrOk => (if_pos (by simp [hmcHears, hmcSt])).trans <| if_pos (by simp [hhdrOk])
  · exact fun _ _ _ hmcHears hmcSt hhdrOk hburstFld => (if_pos (by simp [hmcHears, hmcSt])).trans <| if_neg (by simp [hhdrOk, hburstFld])
  · exact fun l s hmarRuns hrole hsteer hmcAvg hmcCnt => (if_pos (by simp [hmarRuns, hrole, hmcAvg, hmcCnt])).trans <|
      congrArg _ (if_neg fun h => hsteer.elim (fun hn => hn h.1) fun hn => hn h.2)
  · exact fun _ _ hmarRuns hrole hranged hnoEcho => if_pos (by simp [hmarRuns, hrole, hranged, hnoEcho])
  · exact fun _ _ _ hmarRuns hrole hranged hempty => if_pos (by simp [hmarRuns, hrole, hranged, hempty])

/-! ### The second check -/

/-- The failures in a row of a position after its second check (R321). -/
def checkCount (res : List Int) (s : State) (k : Nat) : Nat := if checkFails (res.getD k 0) then s.clv.checkBad.get k + 1 else 0

/-- What a second check changes, and the blocks that it leaves alone. -/
def checkView (s : State) :=
  (s.clv.checkBad, s.clv.suspects, s.clv.failDue, s.tick, s.conv, s.cl, s.nut, s.sett, s.cmd, s.pwr)

/-- A second check leaves its counts and marks; the faults that it raises leave both. -/
theorem exec_cloveCheckStep_view {res : List Int} {s : State} (hup : s.up = true) (hruns : s.clv.st.runs = true)
    (hstep : s.clv.xstep = some 0)
    (hinj : s.clv.injStep = none) (hleft : s.clv.xclk + s.clv.xleft < s.clkBoundary + 160) :
    ∃ t, exec (.cloveCheckStep res) s = .next t ∧ checkView t =
      ((List.range 5).foldl (fun t k => t.set k (checkCount res s k)) s.clv.checkBad,
        if s.clv.st == .fallback then [] else (List.range 4).filter fun k => 2 ≤ checkCount res s k, decide (2 ≤ checkCount res s 4),
        s.tick, s.conv, s.cl, s.nut, s.sett, s.cmd, s.pwr) :=
  ⟨_, if_pos (by simp [hup, hruns, hstep, hinj, hleft]), State.each_eq checkView (by intro t k; rfl) ..⟩

/-! ### The supervisor steps -/

/-- The blocks that forming a result leaves alone. -/
def besidesClv (s : State) := (s.conv, s.cl, s.nut, s.sett, s.cmd, s.pwr)

theorem raiseVec_besidesClv (s : State) : besidesClv (s.raiseVec true 1) = besidesClv s := by
  unfold State.raiseVec
  split <;> split <;> rfl

theorem count_besidesClv (s : State) (blk idx qual n : Nat) : besidesClv (s.count blk idx qual n) = besidesClv s :=
  State.each_eq besidesClv (fun _ _ => by rw [State.when_eq besidesClv raiseVec_besidesClv]; rfl) ..

theorem formRes_besidesClv (st : CvStep) (osr ch : Nat) (o : ConvOut) (s : State) :
    besidesClv (formRes st osr ch o s).2 = besidesClv s := by
  unfold formRes
  exact (State.when_eq besidesClv (f := fun s => (s.count 9 1 ch 1).clvFault 0) (fun u => count_besidesClv u 9 1 ch 1) ..).trans rfl

/-- The supervisor steps form one result each. -/
theorem foldl_formRes (st : CvStep) (res : List ConvOut) (is : List Nat) (acc : List ResS × State) :
    let r := is.foldl (fun (acc : List ResS × State) i =>
      let q := formRes st 256 (32 + i) { res.getD i { lane := 0 } with lane := Fin.ofNat 4 i } acc.2
      (acc.1 ++ [q.1], q.2)) acc
    r.1.length = acc.1.length + is.length ∧ besidesClv r.2 = besidesClv acc.2 := by
  induction is generalizing acc with
  | nil => exact ⟨rfl, rfl⟩
  | cons i is ih =>
    obtain ⟨hlen, hrest⟩ := ih _
    refine ⟨hlen.trans ?_, hrest.trans (formRes_besidesClv st ..)⟩
    simp only [List.length_append, List.length_cons, List.length_nil]
    omega

/-- Settles O27: the counts of a second check and the results of the supervisor come by induction along their loops. -/
theorem cloveEventsComplete : Obligations.CloveEventsComplete := by
  unfold Obligations.CloveEventsComplete
  refine ⟨?_, ?_, ?_, ?_, ?_, ?_, ?_, ?_, ?_, ?_, ?_, ?_, ?_, ?_, ?_, ?_, ?_, ?_⟩
  · exact fun _ _ _ hlive hst hticks => if_pos (by simp [hlive, hst, hticks])
  · exact fun _ _ _ _ _ _ hup hst hrotEn hoffline hdwellLen hoffRes hgainRes hclvSaturated => (if_pos (by simp [hup, hst, hrotEn,
      hoffline, hdwellLen])).trans <| if_pos (by simp [hoffRes, hgainRes, hclvSaturated])
  · intro slice offset gain offRes gainRes s hup hst hrotEn hoffline hdwellLen hbad
    refine (if_pos (by simp [hup, hst, hrotEn, hoffline, hdwellLen])).trans <| (if_neg ?_).trans <| if_pos ?_
    · obtain hsat | ⟨hres, -⟩ := hbad
      · simp [hsat]
      · simp only [Bool.and_eq_true, decide_eq_true_eq]
        omega
    · simpa using hbad.imp_right And.right
  · intro slice offset gain offRes gainRes s hup hst hrotEn hoffline hdwellLen hsat hres hdwell
    refine (if_pos (by simp [hup, hst, hrotEn, hoffline, hdwellLen])).trans <| (if_neg ?_).trans <| if_neg ?_
    · simp only [Bool.and_eq_true, decide_eq_true_eq]
      omega
    · simp [hsat, hdwell]
  · intro res s hup hruns hxstep hinjStep hxleft
    obtain ⟨t, ht, hview⟩ := exec_cloveCheckStep_view (res := res) hup hruns hxstep hinjStep hxleft
    obtain ⟨hbad, hsus, hfail, hrest⟩ := Prod.mk.inj hview |>.imp_right fun h => (Prod.mk.inj h).imp_right Prod.mk.inj
    have hget {k : Nat} (hk : k < 5) : t.clv.checkBad.get k = checkCount res s k := by
      rw [hbad]
      exact get_foldl_set Function.injective_id _ _ hk
    obtain ⟨htick, hconv, hcl, hnut, hsett, hcmd, hpwr⟩ := by simpa using hrest
    refine ⟨t, ht, fun k hk => hget hk, ?_, ?_, htick, hconv, hcl, hnut, hsett, hcmd, hpwr⟩
    · rw [hsus]
      refine if_congr beq_iff_eq rfl (List.filter_congr fun k hk => ?_)
      rw [hget (Nat.lt_succ_of_lt (List.mem_range.mp hk))]
    · rw [hfail, hget (by decide)]
  · intro res s hup hruns hxstep hinjStep hxleft
    obtain ⟨hlen, hrest⟩ := foldl_formRes (s.clv.stepAt s.clv.xclk) res (List.range 11) ([], s)
    obtain ⟨hconv, hcl, hnut, hsett, hcmd, hpwr⟩ := by simpa [besidesClv] using hrest
    exact ⟨_, if_pos (by simp [hup, hruns, hxstep, hinjStep, hxleft]), hlen, hconv, hcl, hnut, hsett, hcmd, hpwr⟩
  · intro res j s hup hruns hinjStep hinj
    unfold exec execCloveConversionEnd
    simp [hup, hruns, hinjStep, hinj]
  · intro res j s hup hruns hinjStep hxstep hstep hseq
    unfold exec execCloveConversionEnd
    simp [hup, hruns, hinjStep, hxstep, hstep, hseq]
  · exact fun _ hup hruns hpaceDue hstep hinjStep => (if_pos (by simp [hup, hruns, hpaceDue])).trans <| if_pos (by simp [hstep, hinjStep])
  · intro s hup hruns hpaceDue hstep
    refine (if_pos (by simp [hup, hruns, hpaceDue])).trans (if_neg ?_)
    simpa [imp_iff_not_or] using hstep
  · intro rising sub s hup htestBit
    have hedge : (s.atSub sub).clv.edge.testBit (if rising then 0 else 1) = true := htestBit
    refine (if_pos hup).trans ?_
    rw [hedge]
    rfl
  · intro rising sub s hup htestBit
    have hedge : (s.atSub sub).clv.edge.testBit (if rising then 0 else 1) = false := htestBit
    refine (if_pos hup).trans ?_
    rw [hedge]
    rfl
  · exact fun _ _ _ _ => if_pos (by grind)
  · exact fun _ hup hinjDone => if_pos (by simp [hup, hinjDone])
  · exact fun _ hup => if_pos (by simp [hup])
  · exact fun _ hup hsyncDue hinjStep => if_pos (by simp [hup, hsyncDue, hinjStep])
  · exact fun _ _ hup hkind => if_pos (by simp [hup, hkind])
  · exact fun _ _ hup hfwRuns hen htarget => if_pos (by simp [hup, hfwRuns, hen, htarget])

/-- A ring is none of firmware's own. -/
theorem castSucc_ne_sixteen (r : Fin 16) : ¬ (r.castSucc : Nat) = 16 := Nat.ne_of_lt r.isLt

/-- Rewriting a ring depends only on the ring as it is. -/
theorem onRing_congr {s : State} {r : Nat} {f g : RingS → RingS} (h : f (s.ring r) = g (s.ring r)) : s.onRing r f = s.onRing r g :=
  congrArg (fun t => { s with cmd := { s.cmd with ring := t } }) (Table.upd_congr h)

/-- A fetch of a ring of the host: the DMA, the length and the entries at the head decide. -/
theorem exec_cmdFetch_of_next {r : Fin 16} {p : Packet} {s : State} (hfw : s.fwRuns = true) (hn : nextRing s = some r.val) :
    exec (.cmdFetch r.castSucc p) s =
      let u := { s with cmd := { s.cmd with turn := r.val } }
      let len := fld (wd p.hdr 1) 11 0
      if p.dmaErr then .next (ringHalt r 3 u)
      else if 4064 < len ∨ len % 4 ≠ 0 ∨ (s.ring r).sq - 1 < cmdSlots len then .next (ringHalt r 1 u)
      else if (s.ring r).sqUsed < cmdSlots len then .next u
      else .next (fetched r.castSucc p.fwRuns (bytesOf ((p.hdr ++ List.replicate 8 0).take 8 ++ packetWords p.hdr p.params)) runPacket
        (u.onRing r fun k => { k with sqHead := (k.sqHead + cmdSlots len) % k.sq })) :=
  (if_pos (by simp [hfw, hn])).trans <| if_neg (castSucc_ne_sixteen r)

/-- Firmware's reply to a command of the host that is in flight is posted where it has room. -/
theorem exec_fwReply_of_flight {r : Fin 16} {dmaErr : Bool} {rep : Reply} {s : State} (hfw : s.fwRuns = true) (hlate : (s.ring r).late = 0)
    (hf : (s.ring r).flight = some rep) (hno : (s.ring r).noFw = false) (hcap : rep.cap = none) :
    exec (.fwReply r.castSucc dmaErr) s =
      if dmaErr then .next (ringHalt r 3 (s.onRing r fun k => { k with flight := none }))
      else if (s.ring r).room (replySlots rep) then .next (postReply r rep s)
      else .next s := by
  change execFwReply r.castSucc dmaErr s = _
  unfold execFwReply
  refine (if_neg (by simp [hfw])).trans <| (if_neg (Nat.not_lt.mpr hlate.le)).trans ?_
  dsimp only [Fin.val_castSucc]
  rw [hf]
  exact (if_neg (by simp [hno, hcap])).trans <| if_neg (castSucc_ne_sixteen r)

/-- Settles O29: the ring state and the pointers pick the branch. -/
theorem ringEventsComplete : Obligations.RingEventsComplete := by
  unfold Obligations.RingEventsComplete
  refine ⟨?_, ?_, ?_, ?_, ?_, ?_, ?_, ?_, ?_, ?_, ?_, ?_, ?_, ?_, ?_, ?_, ?_, ?_⟩
  · exact fun r val s hlive hflag hsq hcq hen hst => (if_pos (by simp [hlive, hflag])).trans <| congrArg _ <|
      (if_neg (by omega)).trans <| (if_pos hflag).trans <| (if_neg (by simp [hen])).trans <| if_neg hst
  · intro r val s hlive hflag hsq hcq hen hst
    refine (if_pos (by simp [hlive, hflag])).trans <| congrArg _ <|
      (if_neg (by omega)).trans <| (if_neg (by simp [hflag])).trans <| (if_pos hen).trans <| onRing_congr ?_
    have hbusy : ¬ ((s.ring r).st = .halted ∧ (s.ring r).flight.isNone = true) := by
      rintro ⟨hh, hn⟩
      exact hst.elim (fun h => h hh) fun h => by simp [Option.isNone_iff_eq_none.mp hn] at h
    rw [if_neg hbusy]
  · exact fun r val s hlive hflag hsq hcq hen => (if_pos (by simp [hlive, hflag])).trans <| congrArg _ <|
      (if_neg (by omega)).trans <| (if_neg (by simp [hflag])).trans <| if_neg (by simp [hen])
  · exact fun r val s hlive hlt => (if_neg (by simp [hlive])).trans <|
      if_neg fun h => Nat.not_le.mpr hlt (of_decide_eq_true (Bool.and_eq_true_iff.mp h).2)
  · exact fun r val s hlive hen hst hle => (if_neg (by simp [hlive])).trans <|
      if_pos (by rw [hen, hst, decide_eq_true (show (s.ring r).sq ≤ fld val 15 0 from hle)]; rfl)
  · exact fun _ _ _ _ _ => (if_neg (by grind)).trans <| if_neg (by grind)
  · exact fun r val s hlive hlt hused => (if_neg (by simp [hlive])).trans <|
      if_neg fun h => h.elim (Nat.not_le.mpr hlt) (Nat.not_lt.mpr hused)
  · exact fun r val s hlive hen hst hbad => (if_neg (by simp [hlive])).trans <| (if_pos hbad).trans <| if_pos (by simp [hen, hst])
  · exact fun r val s hlive hidle hbad => (if_neg (by simp [hlive])).trans <| (if_pos hbad).trans <|
      if_neg (by simpa [imp_iff_not_or] using hidle)
  · exact fun r p s hfwRuns hnext hdmaErr hmax hmod hfits hused => (exec_cmdFetch_of_next hfwRuns hnext).trans <|
      (if_neg (by simp [hdmaErr])).trans <|
      (if_neg fun h => h.elim (Nat.not_lt.mpr hmax) fun h => h.elim (absurd hmod) (Nat.not_lt.mpr (Nat.le_sub_one_of_lt hfits))).trans <|
      if_neg (Nat.not_lt.mpr hused)
  · intro c cs p s hfwRuns hnextRing hremote
    unfold exec execCmdFetch
    simp [hfwRuns, hnextRing, hremote]
  · exact fun r p s hfwRuns hnext hdmaErr => (exec_cmdFetch_of_next hfwRuns hnext).trans <| if_pos hdmaErr
  · exact fun r p s hfwRuns hnext hdmaErr hlen => (exec_cmdFetch_of_next hfwRuns hnext).trans <|
      (if_neg (by simp [hdmaErr])).trans <| if_pos (hlen.imp_right Or.inl)
  · exact fun r rep s hfwRuns hlate hflight hnoFw hcap hroom => (exec_fwReply_of_flight hfwRuns hlate hflight hnoFw hcap).trans <|
      (if_neg Bool.false_ne_true).trans <| if_pos hroom
  · exact fun r rep s hfwRuns hlate hflight hnoFw hcap => (exec_fwReply_of_flight hfwRuns hlate hflight hnoFw hcap).trans <| if_pos rfl
  · exact fun _ _ _ hfwRuns hlate => (if_neg (by simp [hfwRuns])).trans <| if_pos (by simp [hlate])
  · intro r rep s hlive hflight hage hroom
    change execCmdTimeout r.castSucc s = _
    unfold execCmdTimeout
    dsimp only [Fin.val_castSucc]
    rw [hflight]
    exact (if_neg (by simpa [hlive, imp_iff_not_or] using hage)).trans <| (if_neg (castSucc_ne_sixteen r)).trans <| if_pos hroom
  · exact fun _ _ hlive hst hflight => if_pos (by simp [hlive, hst, hflight])

end Sys2Proof.Machine

end

section

/-! PROOFS. EVENTS OF THE FAULT COLLECTOR, THE DECODER AND THE DUMPS. -/

namespace Sys2Proof.Machine

/-! ### What a decoded frame leaves of the FEC settings

The decoder's budget and its iterations are read from LINE_FEC_CFG (Table 4-6). A frame that is decoded rewrites its framer, its memories
and its counters, but not that word. -/

/-- The framers, the command side and the power side, which no counter and no memory write touches. -/
def quietBlocks (s : State) := (s.frm, s.cmd, s.pwr)

theorem raiseVec_quietBlocks (s : State) (pf1 : Bool) (v : Nat) : quietBlocks (s.raiseVec pf1 v) = quietBlocks s := by
  unfold State.raiseVec
  split <;> split <;> rfl

theorem count_quietBlocks (s : State) (blk idx qual n : Nat) : quietBlocks (s.count blk idx qual n) = quietBlocks s :=
  State.each_eq quietBlocks (fun _ _ => by rw [State.when_eq quietBlocks fun s => raiseVec_quietBlocks s true 1]; rfl) ..

theorem count_frm (s : State) (blk idx qual n : Nat) : (s.count blk idx qual n).frm = s.frm := congrArg Prod.fst (count_quietBlocks ..)

theorem count_pwr (s : State) (blk idx qual n : Nat) : (s.count blk idx qual n).pwr = s.pwr := congrArg (·.2.2) (count_quietBlocks ..)

theorem withEcc_frm (s : State) (e : EccS) : { s with ecc := e }.frm = s.frm := rfl

theorem lastErr_frm (kind target addr : Nat) (x : BitVec 16) (s : State) : (lastErr kind target addr x s).frm = s.frm := by
  unfold lastErr
  rw [withEcc_frm]

theorem log_frm (s : State) (e : LogEnt) : (s.log e).frm = s.frm := rfl

theorem eccFault_frm (s : State) (b : Nat) : (s.eccFault b).frm = s.frm := rfl

theorem remap_frm (t addr : Nat) (s : State) : (remap t addr s).frm = s.frm := by
  unfold remap
  dsimp only
  split
  · split
    · rfl
    · exact count_frm ..
  · split <;> rfl

theorem track_frm (t addr rec : Nat) (x : BitVec 16) (s : State) : (track t addr rec x s).frm = s.frm := by
  unfold track
  dsimp only
  split
  · split
    · rw [remap_frm, lastErr_frm, log_frm, eccFault_frm, count_frm, State.onTgt_frm, State.onTgt_frm]
    · rw [State.onTgt_frm, State.onTgt_frm]
  · rw [State.when_eq State.frm (by intro s; exact count_frm ..), State.onTgt_frm, State.onTgt_frm]

theorem corrected_frm (t addr rec : Nat) (x : BitVec 16) (pend scrub : Bool) (s : State) :
    (corrected t addr rec x pend scrub s).frm = s.frm := by
  have hpass (y : State) (h : y.frm = s.frm) :
      (y.when scrub fun s => s.onTgt t fun z => { z with passCorr := z.passCorr + 1 }).frm = s.frm := by
    rw [State.when_eq State.frm (by intro u; exact State.onTgt_frm ..), h]
  have hlast : (lastErr 1 t rec x (s.count 7 0 t 1)).frm = s.frm := by rw [lastErr_frm, count_frm]
  unfold corrected
  dsimp only
  split
  · exact hpass _ hlast
  · rw [track_frm, hpass _ hlast]

theorem uncorrected_frm (t rec : Nat) (x : BitVec 16) (scrub : Bool) (s : State) : (uncorrected t rec x scrub s).frm = s.frm := by
  unfold uncorrected
  split
  · dsimp only
    rw [State.when_eq State.frm (by intro u; exact eccFault_frm ..), State.onTgt_frm, log_frm, lastErr_frm, count_frm]
  · rw [lastErr_frm, eccFault_frm]

theorem scheduleWb_frm (t : Nat) (w : WbS) (s : State) : (scheduleWb t w s).frm = s.frm := by
  unfold scheduleWb
  split
  · rfl
  · split
    · exact count_frm ..
    · rfl

theorem parityTurn_frm (inst : Nat) (s : State) : (parityTurn inst s).2.frm = s.frm := by
  unfold parityTurn
  split <;> rfl

theorem cancelWb_quietBlocks (t inst u : Nat) (s : State) : quietBlocks (cancelWb t inst u s) = quietBlocks s := by
  unfold cancelWb
  rw [State.when_eq quietBlocks (by intro s; exact count_quietBlocks ..)]

theorem putMask_quietBlocks (inst idx : Nat) (m : BitVec 64 × BitVec 16) (s : State) :
    quietBlocks (putMask inst idx m s) = quietBlocks s := rfl

theorem flipDone_quietBlocks (addr : Nat) (s : State) : quietBlocks (flipDone addr s) = quietBlocks s := rfl

theorem sramWrite_quietBlocks (inst lo n : Nat) (s : State) : quietBlocks (sramWrite inst lo n s) = quietBlocks s := by
  unfold sramWrite
  dsimp only
  split
  · rw [flipDone_quietBlocks, putMask_quietBlocks, State.each_eq quietBlocks (by intro s i; rfl),
      State.each_eq quietBlocks (by intro s u; exact cancelWb_quietBlocks ..)]
  · rw [State.each_eq quietBlocks (by intro s i; rfl), State.each_eq quietBlocks (by intro s u; exact cancelWb_quietBlocks ..)]

theorem sramWrite_frm (inst lo n : Nat) (s : State) : (sramWrite inst lo n s).frm = s.frm := congrArg Prod.fst (sramWrite_quietBlocks ..)

theorem sramWrite_cmd (inst lo n : Nat) (s : State) : (sramWrite inst lo n s).cmd = s.cmd :=
  congrArg (·.2.1) (sramWrite_quietBlocks ..)

/-- LINE_FEC_CFG of a line. -/
def fecSetting (l : Nat) (s : State) : Word := (s.fr l).fecCfg

theorem fecSetting_of_frm {l : Nat} {s t : State} (h : t.frm = s.frm) : fecSetting l t = fecSetting l s := by
  unfold fecSetting State.fr
  rw [h]

/-- Rewriting a framer leaves the word that the rewriting keeps. -/
theorem fecSetting_onFrm {l k : Nat} {s : State} {f : FrameS → FrameS} (h : ∀ x, (f x).fecCfg = x.fecCfg) :
    fecSetting l (s.onFrm k f) = fecSetting l s := by
  unfold fecSetting State.fr State.onFrm
  by_cases hk : l = k
  · subst hk
    rw [Table.get_upd_same, h]
  · rw [Table.get_upd_other _ hk]

theorem frFault_fecSetting (l k b : Nat) (s : State) : fecSetting l (s.frFault k b) = fecSetting l s :=
  fecSetting_onFrm (f := fun c => { c with fault := putBit c.fault b true }) fun _ => rfl

theorem when_frFault_fecSetting (l k b : Nat) (s : State) (c : Bool) : fecSetting l (s.when c fun s => s.frFault k b) = fecSetting l s :=
  State.when_eq (fecSetting l) (frFault_fecSetting l k b) ..

theorem count_fecSetting (l : Nat) (s : State) (blk idx qual n : Nat) : fecSetting l (s.count blk idx qual n) = fecSetting l s :=
  fecSetting_of_frm (count_frm ..)

/-- A word misread from a queue memory spoils cells, never a setting. -/
theorem misread_fecSetting (l inst idx : Nat) (d : BitVec 64) (s : State) : fecSetting l (misread inst idx d s) = fecSetting l s := by
  have hqueue (k : Nat) : fecSetting l (flipQueue k idx d s) = fecSetting l s := fecSetting_onFrm fun _ => rfl
  unfold misread
  split
  · rfl
  · refine (fecSetting_of_frm rfl).trans (show fecSetting l (flipStored inst idx d s) = _ from ?_)
    unfold flipStored
    split
    case h_2 => exact hqueue 0
    case h_3 => exact hqueue 1
    case h_6 =>
      unfold flipRecord
      exact fecSetting_of_frm (State.each_eq State.frm (by intro s k; rfl) ..)
    all_goals rfl

theorem sramRead_fecSetting (l inst idx : Nat) (scrub : Bool) (s : State) :
    fecSetting l (sramRead inst idx scrub s).2 = fecSetting l s := by
  unfold sramRead
  dsimp only
  split
  · split
    · exact misread_fecSetting ..
    · exact (fecSetting_of_frm ((scheduleWb_frm ..).trans (corrected_frm ..))).trans (misread_fecSetting ..)
  · split
    · refine fecSetting_of_frm ?_
      cases scrub
      · exact count_frm ..
      · rfl
    · exact fecSetting_of_frm (uncorrected_frm ..)

theorem sramUse_fecSetting (l inst lo n : Nat) (s : State) : fecSetting l (sramUse inst lo n s).2 = fecSetting l s :=
  List.foldlRecOn (motive := fun a : Bool × State => fecSetting l a.2 = fecSetting l s) _ _ (fecSetting_of_frm (parityTurn_frm ..))
    fun a ha i _ => (sramRead_fecSetting l inst i false a.2).trans ha

theorem takeAnn_frm (l k a : Nat) (s : State) : (takeAnn l k a s).frm = s.frm := by
  unfold takeAnn
  dsimp only
  split
  · refine (State.when_eq State.frm (fun s => count_frm s 2 1 (16 * l + k) 1) ..).trans ?_
    split
    · rfl
    · exact count_frm ..
  · exact count_frm ..

theorem frameStats_fecSetting (l k : Nat) (lay : Layout) (f : RxFrame) (r : InnerRes) (bad : Nat) (s : State) :
    fecSetting l (frameStats k lay f r bad s) = fecSetting l s := by
  unfold frameStats
  dsimp only
  rw [when_frFault_fecSetting, when_frFault_fecSetting, count_fecSetting, count_fecSetting, count_fecSetting, count_fecSetting]
  exact fecSetting_onFrm fun _ => rfl

theorem takeHdr_fecSetting (l k : Nat) (h : FrameHdr) (s : State) : fecSetting l (takeHdr k h s) = fecSetting l s := by
  unfold takeHdr
  dsimp only
  rw [when_frFault_fecSetting, when_frFault_fecSetting, when_frFault_fecSetting]
  exact fecSetting_onFrm fun _ => rfl

theorem nextFr_fecSetting (l k : Nat) (good : Bool) (s : State) : fecSetting l (nextFr k good s) = fecSetting l s := by
  unfold nextFr
  dsimp only
  split
  case h_4 => rfl
  case h_3 =>
    split
    · exact (frFault_fecSetting ..).trans (fecSetting_onFrm fun _ => rfl)
    · rfl
  all_goals
    split
    · exact fecSetting_onFrm fun _ => rfl
    · rfl

theorem countDrop_frm (l : Nat) (f : RxFrame) (p : Nat) (c : Cell) (s : State) : (countDrop l f p c s).frm = s.frm := by
  unfold countDrop
  split
  · rfl
  · split <;> exact count_frm ..

theorem send_fecSetting (l : Nat) (s : State) (m : Fin 8) (kind addr data : Nat) (c : Bool) :
    fecSetting l (s.when c fun s => s.send m kind addr data) = fecSetting l s :=
  State.when_eq (fecSetting l) (by intro s; rfl) ..

theorem decodeFrame_fecSetting (l k : Nat) (f : RxFrame) (s : State) : fecSetting l (decodeFrame k f s).1 = fecSetting l s := by
  have hbad (u : State) :
      fecSetting l (((u.onFrm k fun x => { x with goodRun := 0, badRun := min (x.badRun + 1) 15 }).count 3 3 k 1).frFault k 1) =
      fecSetting l u :=
    (frFault_fecSetting ..).trans ((count_fecSetting ..).trans (fecSetting_onFrm fun _ => rfl))
  unfold decodeFrame
  dsimp only
  rw [State.each_eq (fecSetting l) (by intro s c; exact fecSetting_of_frm (countDrop_frm ..)), nextFr_fecSetting]
  trans
  · rw [apply_ite (fecSetting l), hbad, count_fecSetting, takeHdr_fecSetting, ite_self]
  · rw [fecSetting_onFrm (by intro x; rfl), send_fecSetting, send_fecSetting, frameStats_fecSetting,
      State.each_eq (fecSetting l) (by intro s k; exact fecSetting_of_frm (takeAnn_frm ..)),
      fecSetting_of_frm (sramWrite_frm ..), sramUse_fecSetting]

theorem takeTT_frm (l : Nat) (h : FrameHdr) (rx : Nat) (s : State) : (takeTT l h rx s).frm = s.frm := by
  unfold takeTT
  dsimp only
  split
  · exact count_frm ..
  · rfl

/-- The inner code's run depends on the framer by LINE_FEC_CFG alone. -/
theorem innerDecode_congr {c d : FrameS} (h : c.fecCfg = d.fecCfg) (f : RxFrame) (n : Nat) : innerDecode c f n = innerDecode d f n := by
  unfold innerDecode FrameS.iterMax FrameS.budget
  rw [h]

/-- Taking the timing of a good frame leaves the settings too. -/
theorem takenFrame_fecSetting (l k rx : Nat) (f : RxFrame) (s : State) (c : Prop) [Decidable c] :
    fecSetting l (if c then takeTT k f.hdr rx (decodeFrame k f s).1 else (decodeFrame k f s).1) = fecSetting l s := by
  rw [apply_ite (fecSetting l), fecSetting_of_frm (takeTT_frm ..), ite_self, decodeFrame_fecSetting]

/-! ### Sources and messengers -/

theorem fsRaises_of_ne {n : Nat} (h : fsAssigned n = true) (h1 : n ≠ 176) (h2 : n ≠ 208) : fsRaises n = true := by
  unfold fsRaises
  rw [h, bne_iff_ne.mpr h1, bne_iff_ne.mpr h2]
  rfl


/-- Settles O31: the settings that the decoder reads outlive the frame, and a full queue or a broken pair picks the branch. -/
theorem faultAndDumpEventsComplete : Obligations.FaultAndDumpEventsComplete := by
  unfold Obligations.FaultAndDumpEventsComplete
  refine ⟨?_, ?_, ?_, ?_, ?_, ?_, ?_, ?_, ?_, ?_, ?_, ?_, ?_⟩
  · intro x s hup hrunning hstopDue hinP3
    unfold exec execTickBoundary
    simp [hup, hrunning, hstopDue, hinP3]
  · intro x s hup hrunning hstopDue hinP3
    unfold exec execTickBoundary
    simp [hup, hrunning, hstopDue, hinP3]
  · exact fun _ _ hlive hstopDue => if_pos (by simp [hlive, hstopDue])
  · exact fun _ _ hlive hcarryDue => if_pos (by simp [hlive, hcarryDue])
  · intro l f s hmayDecode
    refine (if_pos hmayDecode).trans ?_
    rw [innerDecode_congr (takenFrame_fecSetting ..)]
  · exact fun _ _ hlive hassigned hne176 hne208 => if_pos (by rw [hlive, fsRaises_of_ne hassigned hne176 hne208]; rfl)
  · intro x s hlive hassigned hnotMessage hbroken
    refine (if_pos (by simp [hlive, hassigned, hnotMessage])).trans ?_
    rw [hbroken]
    rfl
  · intro x s hlive hassigned hnotMessage hbroken
    refine (if_pos (by simp [hlive, hassigned, hnotMessage])).trans ?_
    rw [hbroken]
    rfl
  · intro m s hlive hroom
    refine (if_pos hlive).trans ?_
    have hqueue : decide (16 ≤ ((s.onFlt fun f => { f with sent := f.sent.erase m }).flt.msg.get m.m).q.length) = false :=
      decide_eq_false (Nat.not_le.mpr hroom)
    rw [hqueue]
    rfl
  · intro m s hlive hfull
    refine (if_pos hlive).trans ?_
    have hqueue : decide (16 ≤ ((s.onFlt fun f => { f with sent := f.sent.erase m }).flt.msg.get m.m).q.length) = true :=
      decide_eq_true hfull
    dsimp only
    rw [hqueue]
    rfl
  · intro fs n s hlive hwin hn hpend
    unfold exec execFaultWindowExpire
    simp [hlive, hwin, hn, hpend]
  · intro ws s hup hbuf
    unfold exec execDumpWriteDone
    rw [hbuf]
    exact if_pos (by simp [hup])
  · exact fun _ hup hbuf => if_pos (by simp [hup, hbuf])

end Sys2Proof.Machine

end

section

/-! PROOFS. REGISTER ACCESSES OF BAR0. -/

namespace Sys2Proof.Machine

/-! ### The bits that a write names -/

theorem getLsbD_putBit_false {n : Nat} (x : BitVec n) (i j : Nat) : (putBit x i false).getLsbD j = (x.getLsbD j && !decide (i = j)) := by
  unfold putBit
  rw [if_neg Bool.false_ne_true]
  by_cases hj : j < n
  · rw [BitVec.getLsbD_and, BitVec.getLsbD_not, BitVec.getLsbD_ofNat, Nat.testBit_two_pow]
    simp [hj]
  · rw [BitVec.getLsbD_and, BitVec.getLsbD_of_ge x j (Nat.le_of_not_lt hj)]
    rfl

theorem mem_onesOf {n k : Nat} {val : Word} : k ∈ onesOf n val.toNat ↔ k < n ∧ val.getLsbD k = true := by
  unfold onesOf
  rw [List.mem_filter, List.mem_range, BitVec.testBit_toNat]

theorem nodup_onesOf (n x : Nat) : (onesOf n x).Nodup := List.nodup_range.filter _

/-! ### Clearing pending bits (Table 13-6) -/

/-- Clearing pending bit b of word j ends its window. -/
def clearPend (j : Nat) (f : FltS) (b : Nat) : FltS :=
  { f with pend := putBit f.pend (32 * j + b) false, win := f.win.set (32 * j + b) none }

theorem exec_fltPendClear {j : Fin 16} {val : Word} {s : State} (hlive : s.live = true) :
    exec (.fltPendClear j val) s = .next { s with flt := (onesOf 32 val.toNat).foldl (clearPend j) s.flt } :=
  if_pos hlive

/-- A source that no written bit names keeps its bit and its window. -/
theorem foldl_clearPend_other {j n : Nat} {bs : List Nat} (h : ∀ b ∈ bs, 32 * j + b ≠ n) (f : FltS) :
    (bs.foldl (clearPend j) f).pend.getLsbD n = f.pend.getLsbD n ∧ (bs.foldl (clearPend j) f).win.get n = f.win.get n := by
  induction bs generalizing f with
  | nil => exact ⟨rfl, rfl⟩
  | cons b bs ih =>
    obtain ⟨hb, hbs⟩ := List.forall_mem_cons.mp h
    obtain ⟨hpend, hwin⟩ := ih hbs (clearPend j f b)
    refine ⟨hpend.trans ?_, hwin.trans (Table.get_set_other _ hb.symm _)⟩
    exact (getLsbD_putBit_false ..).trans (by simp [hb])

/-- A source that is named loses its bit and its window. -/
theorem foldl_clearPend_mem {j b : Nat} {bs : List Nat} (h : b ∈ bs) (f : FltS) :
    (bs.foldl (clearPend j) f).pend.getLsbD (32 * j + b) = false ∧ (bs.foldl (clearPend j) f).win.get (32 * j + b) = none := by
  induction bs generalizing f with
  | nil => exact absurd h List.not_mem_nil
  | cons c bs ih =>
    by_cases hb : b ∈ bs
    · exact ih hb _
    · obtain rfl := (List.mem_cons.mp h).resolve_right hb
      have hne (c : Nat) (hc : c ∈ bs) (he : 32 * j + c = 32 * j + b) : False := hb (Nat.add_left_cancel he ▸ hc)
      obtain ⟨hpend, hwin⟩ := foldl_clearPend_other hne (clearPend j f b)
      refine ⟨hpend.trans ((getLsbD_putBit_false ..).trans (by simp)), hwin.trans (Table.get_set_same ..)⟩

/-- What clearing pending bits leaves of the collector. -/
theorem foldl_clearPend_rest (j : Nat) (bs : List Nat) (f : FltS) :
    let g := bs.foldl (clearPend j) f
    (g.cfg, g.esc, g.broken, g.msg, g.first) = (f.cfg, f.esc, f.broken, f.msg, f.first) :=
  List.foldlRecOn (motive := fun g : FltS => (g.cfg, g.esc, g.broken, g.msg, g.first) = (f.cfg, f.esc, f.broken, f.msg, f.first)) _ _ rfl
    fun _ h _ _ => h

/-! ### Popping message queues -/

/-- Rewriting different keys one after the other rewrites each once. -/
theorem get_foldl_upd {α : Type} [DecidableEq α] {ks : List Nat} (h : ks.Nodup) (t : Table α) (f : α → α) (k : Nat) :
    (ks.foldl (fun t k => t.upd k f) t).get k = if k ∈ ks then f (t.get k) else t.get k := by
  induction ks generalizing t with
  | nil => rfl
  | cons x xs ih =>
    obtain ⟨hx, hxs⟩ := List.nodup_cons.mp h
    refine (ih hxs _).trans ?_
    by_cases hk : k = x
    · subst hk
      rw [if_neg hx, Table.get_upd_same, if_pos List.mem_cons_self]
    · rw [Table.get_upd_other _ hk]
      simp [hk]

/-! ### The statement -/

theorem regWrite_scratch (k : Fin 4) (val : Word) (s : State) :
    regWrite (BitVec.ofNat 26 (0x30 + 4 * k.val)).toNat val s = { s with cmd := { s.cmd with scratch := s.cmd.scratch.set k val } } := by
  fin_cases k <;> rfl

/-- Settles O28: a write goes by its address; what a written mask clears comes by induction along the bits that are 1. -/
theorem registerAccessesComplete : Obligations.RegisterAccessesComplete := by
  unfold Obligations.RegisterAccessesComplete
  refine ⟨?_, ?_, ?_, ?_, ?_, ?_, ?_, ?_, ?_, ?_, ?_, ?_, ?_, ?_, ?_, ?_⟩
  · exact fun _ _ _ hlive => if_pos (by simp [hlive])
  · exact fun _ _ _ hlive => if_neg (by simp [hlive])
  · exact fun _ _ hlive => if_pos (by simp [hlive])
  · exact fun k val s hlive => (if_pos (by simp [hlive])).trans (congrArg _ (regWrite_scratch k val s))
  · exact fun _ _ _ hlive => if_pos (by simp [hlive])
  · exact fun _ _ _ hup => if_pos (by simp [hup])
  · intro val s hup hflag hgoResult
    unfold exec execNutKeyGo
    simp [hup, hflag, hgoResult]
  · intro val r s hup hflag hgoResult hr
    unfold exec execNutKeyGo
    simp [hup, hflag, hgoResult, hr]
  · intro val img s hlive hboot hflag hdmaErr himageCheck
    unfold exec execBootDlGo
    simp [hlive, hboot, hflag, hdmaErr, himageCheck]
  · intro val img s hlive hboot hflag hdmaErr himageCheck
    unfold exec execBootDlGo
    simp [hlive, hboot, hflag, hdmaErr, himageCheck]
  · exact fun _ _ _ hlive hboot hflag hdmaErr => (if_pos (by simp [hlive, hboot, hflag])).trans <| if_pos (by simp [hdmaErr])
  · exact fun _ _ hup => if_pos (by simp [hup])
  · exact fun _ _ hup => if_pos (by simp [hup])
  · intro j val s hlive
    obtain ⟨hcfg, hesc, hbroken, hmsg, hfirst⟩ := by simpa using foldl_clearPend_rest j (onesOf 32 val.toNat) s.flt
    refine ⟨_, exec_fltPendClear hlive, fun b hb => foldl_clearPend_mem (mem_onesOf.mpr ⟨b.isLt, hb⟩) _, fun n hn => ?_,
      hcfg, hesc, hbroken, hmsg, hfirst⟩
    refine foldl_clearPend_other (fun b hb hbn => ?_) _
    obtain ⟨hlt, hbit⟩ := mem_onesOf.mp hb
    have hbit' := hn (by omega)
    rw [← hbn, show (32 * j.val + b) % 32 = b by omega, hbit] at hbit'
    exact absurd hbit' (by decide)
  · exact fun _ _ hlive => if_pos (by simp [hlive])
  · intro val s hlive
    refine ⟨_, if_pos hlive, fun k hk => ?_, fun k hk => ?_⟩
    · rw [get_foldl_upd (nodup_onesOf ..), if_pos (mem_onesOf.mpr ⟨k.isLt, hk⟩)]
      exact ⟨rfl, rfl⟩
    · rw [get_foldl_upd (nodup_onesOf ..), if_neg (fun hmem => ?_)]
      obtain ⟨hlt, hbit⟩ := mem_onesOf.mp hmem
      obtain hge | hbit' := hk
      · exact absurd hlt (Nat.not_lt.mpr hge)
      · exact Bool.false_ne_true (hbit'.symm.trans hbit)

end Sys2Proof.Machine

end

section

/-! PROOFS. EVENTS OF FIRMWARE. -/

namespace Sys2Proof.Machine

theorem State.when_false (s : State) (f : State → State) : s.when false f = s := rfl

/-- The ROM, not told to wait by BOOT_SEL, goes by the verdicts on the two slots; the verdict on a signature is not read from the state. -/
theorem exec_firmwareStart_of_rom {x : BootIn} {s : State} (hlive : s.live = true) (hboot : s.cmd.boot = .rom)
    (hsel : s.cmd.bootSel = false) :
    exec (.firmwareStart x) s = .next (
      let t : State := { s with cmd := { s.cmd with sigA := x.sigA, sigB := x.sigB } }
      let a := imageCheck s.cmd.slotA x.sigA s.cmd
      let b := imageCheck s.cmd.slotB x.sigB s.cmd
      if choosesB s.cmd.slotA s.cmd.slotB (a == 0) (b == 0) then startImage 1 s.cmd.slotB t
      else if a = 0 then startImage 0 s.cmd.slotA t
      else toBoot .waitPcie (bootErr b t)) := by
  refine (if_pos (by simp [hlive, hboot])).trans ((if_neg (by simp [hsel])).trans ?_)
  dsimp only
  rw [apply_ite Host.Outcome.next, apply_ite Host.Outcome.next]
  rfl

theorem exec_msiXUnmask_of_pending {vec : Fin 32} {s : State} (hlive : s.live = true) (hpend : s.pci.pend0.getLsbD vec = true) :
    exec (.msiXUnmask false vec) s = .next (State.emit { s with pci := { s.pci with mask0 := putBit s.pci.mask0 vec false,
                                                                                    pend0 := putBit s.pci.pend0 vec false } }
      (.irq false vec)) := by
  refine (if_neg (by simp [hlive])).trans ((if_neg Bool.false_ne_true).trans ?_)
  rw [hpend]
  rfl

/-- Settles O30: the verdicts on the two slots, the record at fault and the room in the log pick the branch. -/
theorem firmwareEventsComplete : Obligations.FirmwareEventsComplete := by
  unfold Obligations.FirmwareEventsComplete
  refine ⟨?_, ?_, ?_, ?_, ?_, ?_, ?_, ?_, ?_, ?_, ?_, ?_, ?_, ?_, ?_, ?_, ?_, ?_, ?_, ?_⟩
  · exact fun _ _ hlive hboot hbootSel => (if_pos (by simp [hlive, hboot])).trans <| if_pos (by simp [hbootSel])
  · intro x s hlive hboot hbootSel hslotA hslotB
    exact (exec_firmwareStart_of_rom hlive hboot hbootSel).trans (congrArg _ ((if_neg (by simp [choosesB, hslotB])).trans <| if_pos hslotA))
  · intro x s hlive hboot hbootSel hslotA hslotB
    exact (exec_firmwareStart_of_rom hlive hboot hbootSel).trans (congrArg _ (if_pos (by simp [choosesB, hslotA, hslotB])))
  · rintro x _ s hlive hboot hbootSel hslotA rfl hslotB
    exact (exec_firmwareStart_of_rom hlive hboot hbootSel).trans
      (congrArg _ ((if_neg (by simp [choosesB, hslotB])).trans <| if_neg hslotA))
  · intro vout s rs gs all bs hfw hacceptDue haccepted hok htake
    change execBootTableAccept vout s = _
    unfold execBootTableAccept
    dsimp only [all, bs] at hok htake ⊢
    rw [if_pos (by simp [hfw, hacceptDue, haccepted]), if_pos hok, htake]
  · intro vout s n all bs hfw hacceptDue haccepted hok htake
    change execBootTableAccept vout s = _
    unfold execBootTableAccept
    dsimp only [all, bs] at hok htake ⊢
    rw [if_pos (by simp [hfw, hacceptDue, haccepted]), if_pos hok, htake]
  · exact fun _ _ hfwRuns hacceptDue haccepted htableOutsideOk => (if_pos (by simp [hfwRuns, hacceptDue, haccepted])).trans <| if_neg (by
      simp [htableOutsideOk])
  · intro r tag sigOk e s hfwRuns hdone hkind hcap
    unfold exec execAsyncComplete
    simp [hfwRuns, hdone, hkind, hcap]
  · intro r tag sigOk e m s hfwRuns hdone hkind
    unfold exec execAsyncComplete
    simp [hfwRuns, hdone, hkind]
  · exact fun _ hlive => if_pos (by simp [hlive])
  · intro s hlive hboot haccepted
    unfold exec execCpRestartDone
    simp [hlive, hboot, haccepted]
  · intro e q s hlive hlogQ hlog
    change execLogEntryWrite s = _
    unfold execLogEntryWrite
    rw [hlogQ]
    refine (if_neg (by simp [hlive])).trans ?_
    dsimp only
    rw [decide_eq_false (Nat.not_le.mpr hlog), Bool.false_and, if_neg Bool.false_ne_true, State.when_false, sramWrite_cmd]
    rfl
  · intro n s hlive hwdLeft hn
    unfold exec execWatchdogExpire
    rw [hwdLeft]
    exact if_pos (by simp [hlive, hn])
  · exact fun _ hlive => if_pos (by simp [hlive])
  · exact fun _ hlive => if_pos (by simp [hlive])
  · exact fun _ hlive => if_pos (by simp [hlive])
  · exact fun _ hlive => if_pos (by simp [hlive])
  · exact fun _ hlive hlink => if_pos (by simp [hlive, hlink])
  · exact fun _ _ hlive hpend => exec_msiXUnmask_of_pending hlive hpend
  · intro vec s hlive hpend
    refine (if_neg (by simp [hlive])).trans ((if_neg Bool.false_ne_true).trans ?_)
    rw [hpend]
    rfl

end Sys2Proof.Machine

end

section

/-! PROOFS. POWER AND RESET EVENTS. -/

namespace Sys2Proof.Machine

/-- Which regulator the AVS drives is read from the regulators alone. -/
theorem avsReg_onPwr {s : State} {f : PwrS → PwrS} (hf : ∀ p, (f p).reg = p.reg) : avsReg (s.onPwr f) = avsReg s := by
  unfold avsReg regsOn State.onPwr
  simp [hf]

theorem onPwr_pwr (s : State) (f : PwrS → PwrS) : (s.onPwr f).pwr = f s.pwr := rfl

/-- The output moves by 5 mV towards its target. -/
theorem exec_avsStep_of_reg {r : Nat} {s : State} (hreg : avsReg s = some r) (hlive : s.live = true) (hacc : s.cmd.accepted = true)
    (hne : s.pwr.vcmd ≠ s.pwr.avs) (hticks : 125 ≤ s.pwr.avsTicks ∨ s.tick.running = false) :
    exec .avsStep s = .next (
      let v := if s.pwr.vcmd < s.pwr.avs then min s.pwr.avs (s.pwr.vcmd + 5) else max s.pwr.avs (s.pwr.vcmd - 5)
      ((s.onPwr fun p => { p with vcmd := v, avsTicks := 0 }).count 12 0x20 0 1)
        |>.emit (.pmbus r 0x21 (linear16 v (s.pwr.reg.get r).expo))) := by
  change execAvsStep s = _
  unfold execAvsStep
  rw [hreg]
  refine (if_pos (by simp [hlive, hacc, hne, hticks])).trans ?_
  dsimp only
  rw [count_pwr, onPwr_pwr]

/-- Settles O32: the AVS results come from the hottest mean, and the side on which the target lies picks the step. -/
theorem powerEventsComplete : Obligations.PowerEventsComplete := by
  unfold Obligations.PowerEventsComplete
  refine ⟨?_, ?_, ?_, ?_, ?_, ?_, ?_, ?_, ?_, ?_, ?_⟩
  · exact fun _ _ _ _ hlive hen hpoll => if_pos (by simp [hlive, hen, hpoll])
  · exact fun _ _ hlive hen hpoll => if_pos (by simp [hlive, hen, hpoll])
  · exact fun _ _ hlive => if_pos (by simp [hlive])
  · exact fun _ hlive => if_pos (by simp [hlive])
  · intro s sum n hup hdue hlost hhot hreg hacc hraw
    refine (if_pos (by simp [hup, hdue])).trans ?_
    dsimp only
    rw [hlost, hhot]
    refine (if_pos (by rw [avsReg_onPwr (by intro p; rfl), hreg]; exact hacc)).trans ?_
    rw [decide_eq_false (Int.not_lt.mpr hraw), Bool.false_and, State.when_false]
    simp [State.onPwr, hlost]
  · intro r s hlive hreg hacc hbelow hticks
    rw [exec_avsStep_of_reg hreg hlive hacc hbelow.ne hticks, if_pos hbelow]
  · intro r s hlive hreg hacc habove hticks
    rw [exec_avsStep_of_reg hreg hlive hacc habove.ne' hticks, if_neg habove.asymm]
  · exact fun _ hup hsupAge hsupLost => if_pos (by simp [hup, hsupAge, hsupLost])
  · exact fun _ hup hp2Step => if_pos (by simp [hup, hp2Step])
  · exact fun _ hlive hp3Exit => if_pos (by simp [hlive, hp3Exit])
  · exact fun _ hlive hp3Exit => if_pos (by simp [hlive, hp3Exit])

/-- Settles O33: a device out of power aside, each TAP instruction rewrites the TAP and nothing else. -/
theorem resetEventsComplete : Obligations.ResetEventsComplete := by
  unfold Obligations.ResetEventsComplete
  refine ⟨?_, ?_, ?_, ?_, ?_, ?_, ?_, ?_, ?_, ?_, ?_, ?_, ?_, ?_⟩
  · intro s
    unfold exec execPowerOnReset
    simp
  · intro s
    unfold exec execRailPowerDown
    simp
  · exact fun _ _ _ _ => (if_neg (by grind)).trans <| if_pos (by grind)
  · exact fun _ _ hns => if_pos (by simp [hns])
  · exact fun _ hlive hresetDue => if_pos (by simp [hlive, hresetDue])
  · intro st s hheld htest
    refine (if_pos hheld).trans ?_
    dsimp only
    rw [htest]
    rfl
  · intro s hpow
    refine (congrArg _ (tap_of_powered hpow)).trans ?_
    rw [idcode_eq]
    rfl
  · intro s hpow
    refine (congrArg _ (tap_of_powered hpow)).trans ?_
    rw [idcode_eq]
    rfl
  · exact fun s hpow => congrArg _ (tap_of_powered hpow)
  · exact fun _ _ s hpow => congrArg _ (tap_of_powered hpow)
  · exact fun s hpow => congrArg _ (tap_of_powered hpow)
  · exact fun s hpow => congrArg _ (tap_of_powered hpow)
  · exact fun code s hpow hlow hres => (if_neg (by simpa [hlow] using hres)).trans (congrArg _ (tap_of_powered hpow))
  · intro s hpow
    refine (if_neg (by simp [hpow])).trans ?_
    rw [tap_of_powered hpow]
    rfl

end Sys2Proof.Machine

end

section

/-! PROOFS. STEPS, RESET AND VECTORS. -/

namespace Sys2Proof.Machine

/-- Settles O34: a step looks at the queue alone. -/
theorem stepRunsFrontCommand : Obligations.StepRunsFrontCommand := by
  unfold Obligations.StepRunsFrontCommand step
  refine ⟨?_, ?_⟩
  · intro c q s hpending
    rw [hpending]
  · intro s hpending
    rw [hpending]

/-- Settles O49: the mask bit picks whether the vector waits or is sent. -/
theorem maskedVectorWaits : Obligations.MaskedVectorWaits := by
  unfold Obligations.MaskedVectorWaits
  refine ⟨?_, ?_, ?_⟩
  · intro v s hmasked
    exact (if_neg Bool.false_ne_true).trans (if_pos hmasked)
  · intro v s hunmasked
    exact (if_neg Bool.false_ne_true).trans (if_neg (Bool.eq_false_iff.mp hunmasked))
  · intro v s t hlive hpend hrun
    have hclears (x : BitVec 32) : (putBit x v false).getLsbD v = false := (getLsbD_putBit_false ..).trans (by simp)
    obtain rfl := Host.Outcome.next.inj ((exec_msiXUnmask_of_pending hlive hpend).symm.trans hrun)
    exact ⟨rfl, hclears _, hclears _⟩

/-- Settles O50: each source comes to the one reset of the blocks, with its own bit of the cause. -/
theorem deviceResetRestoresReset : Obligations.DeviceResetRestoresReset := by
  unfold Obligations.DeviceResetRestoresReset
  refine ⟨?_, ?_, ?_⟩
  · rintro ns _ s rfl hlong hpow
    exact (if_neg (by simp [hpow]; omega)).trans (if_pos hlong)
  · rintro _ s rfl hlive hdue
    exact if_pos (by simp [hlive, hdue])
  · rintro _ s rfl hpow
    refine (if_neg (by simp [hpow])).trans ?_
    rw [tap_of_powered hpow]
    rfl

/-- Settles O51: every part is read from the initial values of its block. -/
theorem resetStateOfTheDevice : Obligations.ResetStateOfTheDevice := by
  unfold Obligations.ResetStateOfTheDevice
  exact ⟨⟨rfl, rfl, rfl, rfl⟩, rfl, fun _ _ => ⟨rfl, rfl, rfl⟩, fun _ _ => ⟨rfl, rfl⟩, ⟨rfl, rfl, rfl⟩, ⟨rfl, rfl, rfl⟩,
    ⟨rfl, rfl, rfl, rfl⟩, rfl, ⟨rfl, rfl, by decide, rfl⟩⟩

/-- What the release of reset takes the device's start from. -/
def startView (s : State) := (s.tick, s.cmd.id, s.rst.held)

theorem spareNow_startView (r : SpareS) (s : State) : startView (spareNow r s) = startView s := by
  unfold spareNow
  split
  · rfl
  · split <;> rfl

/-- The ROM's spares are the stored-data block's. -/
theorem romSpares_startView (s : State) : startView (romSpares s) = startView s := by
  unfold romSpares
  dsimp only
  split
  · exact State.each_eq startView (by intro s n; exact spareNow_startView ..) ..
  · rfl

theorem exec_resetRelease_startView {st : Straps} {s u : State} (hheld : s.rst.held = true) (hrun : exec (.resetRelease st) s = .next u) :
    startView u = (s.tick, st.id.val, false) := by
  have hnext : exec (.resetRelease st) s = .next
      (State.when { s with cmd := { s.cmd with id := st.id.val, bootSel := st.bootSel }
                           rst := { s.rst with held := false, unpowered := false, testMode := st.testMode } } (!st.testMode) romSpares) :=
    if_pos hheld
  obtain rfl := Host.Outcome.next.inj (hnext.symm.trans hrun)
  exact State.when_eq startView romSpares_startView ..

/-- Settles O52: the release works on the blocks as the reset left them, and a boundary counts on. -/
theorem releaseOfResetBeginsTickZero : Obligations.ReleaseOfResetBeginsTickZero := by
  unfold Obligations.ReleaseOfResetBeginsTickZero
  refine ⟨?_, ?_⟩
  · intro st s t u hreset hrelease
    obtain rfl := Host.Outcome.next.inj hreset
    obtain ⟨htick, hid, hheld⟩ := Prod.mk.inj (exec_resetRelease_startView rfl hrelease) |>.imp_right Prod.mk.inj
    rw [htick]
    exact ⟨rfl, rfl, rfl, hheld, hid⟩
  · intro s hfull
    refine ⟨rfl, ?_, rfl⟩
    exact if_neg (by rw [hfull]; exact Bool.false_ne_true)

end Sys2Proof.Machine

end

section

/-! PROOFS. NUTMEG FRAMES. -/

namespace Sys2Proof.Machine

/-! ### Transmit -/

theorem exec_nutEncrypt_of_mayRun {x : NutRun} {f : NutFrame} {s : State} (hrun : mayRun s.nut.txQ x.idx = some f) (hup : s.up = true) :
    exec (.nutEncrypt x) s = .next (encryptFrame x f (takeFrame false x f s)) := by
  change execNutEncrypt x s = _
  unfold execNutEncrypt
  rw [hrun]
  exact if_pos hup

/-- A frame of a direction that runs and is not overloaded goes by the mode of its association. -/
theorem exec_nutEncrypt_of_runs {x : NutRun} {f : NutFrame} {s : State} (hrun : mayRun s.nut.txQ x.idx = some f) (hup : s.up = true)
    (hdir : s.nut.txD ≠ .failed) (hover : overloaded s false x f = false) :
    exec (.nutEncrypt x) s = .next (
      let t := takeFrame false x f s
      let mode := saMode (s.sa f.flow).cfg
      if mode = 0 then t.count 5 8 f.flow 1
      else if mode = 1 then
        buildCells f.flow (descriptor 1 f.flow ++ f.data) ((t.count 5 9 f.flow 1).count 5 0x21 0 (frameBlocks f.data.length))
      else if (s.sa f.flow).exhausted then t.count 5 7 f.flow 1
      else
        let u := readHalf f.flow 0 t
        let h := (u.sa f.flow).txCur
        if !h.valid then u.count 5 2 f.flow 1
        else
          let v := (issuePn f.flow u).count 5 0x21 0 (frameBlocks f.data.length)
          if x.mismatch then mismatched false f.flow x.lane v
          else buildCells f.flow (sealFrame mode f.flow h h.pn f.data) (v.count 5 9 f.flow 1)) := by
  rw [exec_nutEncrypt_of_mayRun hrun hup]
  unfold encryptFrame
  dsimp only
  rw [takeFrame_txD, takeFrame_overloaded, takeFrame_sa, if_neg hdir, if_neg (by simp [hover])]

/-- A frame that is to be protected, its association not exhausted, goes by the key half as read. -/
theorem exec_nutEncrypt_of_keyed {x : NutRun} {f : NutFrame} {s : State} (hrun : mayRun s.nut.txQ x.idx = some f) (hup : s.up = true)
    (hdir : s.nut.txD ≠ .failed) (hover : overloaded s false x f = false) (hmode : 2 ≤ saMode (s.sa f.flow).cfg)
    (hexh : (s.sa f.flow).exhausted = false) :
    exec (.nutEncrypt x) s = .next (
      let u := readHalf f.flow 0 (takeFrame false x f s)
      let h := (u.sa f.flow).txCur
      if !h.valid then u.count 5 2 f.flow 1
      else
        let v := (issuePn f.flow u).count 5 0x21 0 (frameBlocks f.data.length)
        if x.mismatch then mismatched false f.flow x.lane v
        else buildCells f.flow (sealFrame (saMode (s.sa f.flow).cfg) f.flow h h.pn f.data) (v.count 5 9 f.flow 1)) := by
  rw [exec_nutEncrypt_of_runs hrun hup hdir hover]
  dsimp only
  rw [if_neg (by omega), if_neg (by omega), if_neg (by simp [hexh])]

/-! ### Receive -/

theorem exec_nutRxFrame_of_mayRun {x : NutRun} {f : NutFrame} {s : State} (hrun : mayRun s.nut.rxQ x.idx = some f) (hup : s.up = true) :
    exec (.nutRxFrame x) s = .next (receiveFrame x f (takeFrame true x f s)) := by
  change execNutRxFrame x s = _
  unfold execNutRxFrame
  rw [hrun]
  exact if_pos hup

/-- A frame of a direction that runs and is not overloaded goes by its descriptor and the mode of its association. -/
theorem exec_nutRxFrame_of_runs {x : NutRun} {f : NutFrame} {s : State} (hrun : mayRun s.nut.rxQ x.idx = some f) (hup : s.up = true)
    (hdir : s.nut.rxD ≠ .failed) (hover : overloaded s true x f = false) :
    exec (.nutRxFrame x) s = .next (
      let t := takeFrame true x f s
      let mode := saMode (s.sa f.flow).cfg
      if f.data.length < 4 ∨ beAt f.data 0 4 / 2 ^ 28 ≠ 1 ∨ beAt f.data 0 4 % 8192 ≠ f.flow then t.count 5 0 f.flow 1
      else if beAt f.data 0 4 / 2 ^ 26 % 4 ≠ mode ∨ mode = 0 then t.count 5 1 f.flow 1
      else if mode = 1 then
        toEgress f.flow (f.data.drop 4) ((t.count 5 0xA f.flow 1).count 5 0x21 1 (frameBlocks (f.data.length - 4)))
      else
        let u := readHalf f.flow (if f.slot && !(s.sa f.flow).alias_ then 3 else 2) t
        let h := (rxHalf (u.sa f.flow) f.slot).1
        if !h.valid then u.count 5 2 f.flow 1
        else if !pnFresh (saWin (u.sa f.flow).cfg) h (beAt f.data 4 8) then u.count 5 3 f.flow 1
        else
          let v := u.count 5 0x21 1 (frameBlocks (f.data.length - 28))
          if x.mismatch then mismatched true f.flow x.lane v
          else if f.data.length < 28 ∨ !tagOk mode h (beAt f.data 4 8) f.data then authFail f.flow v
          else acceptRx mode f (beAt f.data 4 8) v) := by
  rw [exec_nutRxFrame_of_mayRun hrun hup]
  unfold receiveFrame
  dsimp only
  rw [takeFrame_rxD, takeFrame_overloaded, takeFrame_sa, if_neg hdir, if_neg (by simp [hover])]

/-- A well-formed protected frame goes by the key half that its slot chooses, as read. -/
theorem exec_nutRxFrame_of_keyed {x : NutRun} {f : NutFrame} {s : State} (hrun : mayRun s.nut.rxQ x.idx = some f) (hup : s.up = true)
    (hdir : s.nut.rxD ≠ .failed) (hover : overloaded s true x f = false) (hlen : 4 ≤ f.data.length) (htype : beAt f.data 0 4 / 2 ^ 28 = 1)
    (hflow : beAt f.data 0 4 % 8192 = f.flow) (hsame : beAt f.data 0 4 / 2 ^ 26 % 4 = saMode (s.sa f.flow).cfg)
    (hmode : 2 ≤ saMode (s.sa f.flow).cfg) :
    exec (.nutRxFrame x) s = .next (
      let u := readHalf f.flow (if f.slot && !(s.sa f.flow).alias_ then 3 else 2) (takeFrame true x f s)
      let h := (rxHalf (u.sa f.flow) f.slot).1
      if !h.valid then u.count 5 2 f.flow 1
      else if !pnFresh (saWin (u.sa f.flow).cfg) h (beAt f.data 4 8) then u.count 5 3 f.flow 1
      else
        let v := u.count 5 0x21 1 (frameBlocks (f.data.length - 28))
        if x.mismatch then mismatched true f.flow x.lane v
        else if f.data.length < 28 ∨ !tagOk (saMode (s.sa f.flow).cfg) h (beAt f.data 4 8) f.data then authFail f.flow v
        else acceptRx (saMode (s.sa f.flow).cfg) f (beAt f.data 4 8) v) := by
  rw [exec_nutRxFrame_of_runs hrun hup hdir hover]
  dsimp only
  rw [if_neg (by omega), if_neg (by omega), if_neg (by omega)]

/-- Settles O20: the checks stand in a chain, and each hypothesis passes one of them. -/
theorem nutmegFramesComplete : Obligations.NutmegFramesComplete := by
  unfold Obligations.NutmegFramesComplete
  refine ⟨?_, ?_, ?_, ?_, ?_, ?_, ?_, ?_, ?_, ?_, ?_, ?_, ?_, ?_, ?_, ?_, ?_, ?_⟩
  · intro x f s hrun hup hdir
    exact (exec_nutEncrypt_of_mayRun hrun hup).trans (congrArg _ (if_pos ((takeFrame_txD ..).trans hdir)))
  · intro x f s hrun hup hdir hover
    refine (exec_nutEncrypt_of_mayRun hrun hup).trans (congrArg _ ((if_neg ?_).trans (if_pos ?_)))
    · rwa [takeFrame_txD]
    · rwa [takeFrame_overloaded]
  · intro x f s hrun hup hdir hover hmode
    exact (exec_nutEncrypt_of_runs hrun hup hdir hover).trans (congrArg _ (if_pos hmode))
  · intro x f s hrun hup hdir hover hmode
    exact (exec_nutEncrypt_of_runs hrun hup hdir hover).trans (congrArg _ ((if_neg (by omega)).trans (if_pos hmode)))
  · intro x f s hrun hup hdir hover hmode hexh
    exact (exec_nutEncrypt_of_runs hrun hup hdir hover).trans
      (congrArg _ ((if_neg (by omega)).trans <| (if_neg (by omega)).trans <| if_pos hexh))
  · intro x f s hrun hup hdir hover hmode hexh hvalid
    exact (exec_nutEncrypt_of_keyed hrun hup hdir hover hmode hexh).trans (congrArg _ (if_pos (by rw [hvalid]; rfl)))
  · intro x f s hrun hup hdir hover hmode hexh hvalid hmis
    exact (exec_nutEncrypt_of_keyed hrun hup hdir hover hmode hexh).trans
      (congrArg _ ((if_neg (by rw [hvalid]; decide)).trans <| if_pos hmis))
  · intro x f s hrun hup hdir hover hmode hexh hvalid hmis
    exact (exec_nutEncrypt_of_keyed hrun hup hdir hover hmode hexh).trans
      (congrArg _ ((if_neg (by rw [hvalid]; decide)).trans <| if_neg (by simp [hmis])))
  · intro x f s hrun hup hdir
    exact (exec_nutRxFrame_of_mayRun hrun hup).trans (congrArg _ (if_pos ((takeFrame_rxD ..).trans hdir)))
  · intro x f s hrun hup hdir hover
    refine (exec_nutRxFrame_of_mayRun hrun hup).trans (congrArg _ ((if_neg ?_).trans (if_pos ?_)))
    · rwa [takeFrame_rxD]
    · rwa [takeFrame_overloaded]
  · intro x f s hrun hup hdir hover hbad
    exact (exec_nutRxFrame_of_runs hrun hup hdir hover).trans (congrArg _ (if_pos hbad))
  · intro x f s hrun hup hdir hover hlen htype hflow hbad
    exact (exec_nutRxFrame_of_runs hrun hup hdir hover).trans
      (congrArg _ ((if_neg (by omega)).trans <| if_pos hbad))
  · intro x f s hrun hup hdir hover hlen htype hflow hsame hmode
    exact (exec_nutRxFrame_of_runs hrun hup hdir hover).trans
      (congrArg _ ((if_neg (by omega)).trans <| (if_neg (by omega)).trans <| if_pos hmode))
  · intro x f s hrun hup hdir hover hlen htype hflow hsame hmode hvalid
    exact (exec_nutRxFrame_of_keyed hrun hup hdir hover hlen htype hflow hsame hmode).trans (congrArg _ (if_pos (by rw [hvalid]; rfl)))
  · intro x f s hrun hup hdir hover hlen htype hflow hsame hmode hvalid hfresh
    exact (exec_nutRxFrame_of_keyed hrun hup hdir hover hlen htype hflow hsame hmode).trans
      (congrArg _ ((if_neg (by rw [hvalid]; decide)).trans <| if_pos (by rw [hfresh]; rfl)))
  · intro x f s hrun hup hdir hover hlen htype hflow hsame hmode hvalid hfresh hmis
    exact (exec_nutRxFrame_of_keyed hrun hup hdir hover hlen htype hflow hsame hmode).trans
      (congrArg _ ((if_neg (by rw [hvalid]; decide)).trans <| (if_neg (by rw [hfresh]; decide)).trans <| if_pos hmis))
  · intro x f s hrun hup hdir hover hlen htype hflow hsame hmode hvalid hfresh hmis htag
    exact (exec_nutRxFrame_of_keyed hrun hup hdir hover hlen htype hflow hsame hmode).trans
      (congrArg _ ((if_neg (by rw [hvalid]; decide)).trans <| (if_neg (by rw [hfresh]; decide)).trans <| (if_neg (by simp [hmis])).trans <|
        if_pos (htag.imp_right fun h => by rw [h]; rfl)))
  · intro x f s hrun hup hdir hover hlen htype hflow hsame hmode hvalid hfresh hmis hmin htag
    exact (exec_nutRxFrame_of_keyed hrun hup hdir hover hlen htype hflow hsame hmode).trans
      (congrArg _ ((if_neg (by rw [hvalid]; decide)).trans <| (if_neg (by rw [hfresh]; decide)).trans <| (if_neg (by simp [hmis])).trans <|
        if_neg (by rw [htag]; simpa using hmin)))

end Sys2Proof.Machine

end
